-- ==== Sys2Proof/Word.lean ====
section
/-!
DEFINITION. The word types of the Halvoran 9 Duo and the sparse table that every sparse piece of storage uses.
-/

namespace Sys2Proof

/-- A 64-bit scalar register, CSR or instruction word (R15, R32). -/
abbrev Word := BitVec 64
/-- One 32-bit lane element of a vector register (R15). -/
abbrev Lane := BitVec 32
/-- One byte of memory. -/
abbrev Byte := BitVec 8
/-- One bit for each of the 64 lanes of a warp (R59). -/
abbrev Mask := BitVec 64

/-- A sparse table with natural keys: pairs of key and value, keys strictly rising, no value equal to the
table's default. Host.Cell is `SMap Byte`'s element. -/
abbrev SMap (α : Type) := List (Nat × α)

end Sys2Proof
end

