-- ==== Sys2Proof/Machine/SMap.lean ====
section
/-!
DEFINITION. Reading and writing a sparse table in canonical form: keys strictly rising, no entry equal to the default.
-/

namespace Sys2Proof.Machine

/-- The value at key `k`, the default where none is listed. -/
def sget {α : Type} (d : α) : SMap α → Nat → α
  | [], _ => d
  | (a, v) :: m, k => if k = a then v else if k < a then d else sget d m k

/-- Put `v` at `k`, dropping the entry when `v` is the default. -/
def sput {α : Type} [DecidableEq α] (d : α) : SMap α → Nat → α → SMap α
  | [], k, v => if v = d then [] else [(k, v)]
  | (a, w) :: m, k, v =>
    if k < a then (if v = d then (a, w) :: m else (k, v) :: (a, w) :: m)
    else if k = a then (if v = d then m else (k, v) :: m)
    else (a, w) :: sput d m k v

/-- Change the value at `k`. -/
def smod {α : Type} [DecidableEq α] (d : α) (m : SMap α) (k : Nat) (f : α → α) : SMap α :=
  sput d m k (f (sget d m k))

/-- Every key of `m` is above `k`. -/
def sabove {α : Type} (k : Nat) : SMap α → Bool
  | [] => true
  | (a, _) :: _ => decide (k < a)

/-- The canonical form: keys strictly rising, no entry equal to the default. -/
def swf {α : Type} [DecidableEq α] (d : α) : SMap α → Bool
  | [] => true
  | (a, v) :: m => decide (v ≠ d) && sabove a m && swf d m

/-- Remove every entry whose key fails `keep`. -/
def sfilter {α : Type} (keep : Nat → Bool) (m : SMap α) : SMap α :=
  m.filter (fun p => keep p.1)

/-- Change every listed value, dropping those that become the default. -/
def smapv {α : Type} [DecidableEq α] (d : α) (f : α → α) (m : SMap α) : SMap α :=
  m.filterMap (fun q => let v := f q.2; if v = d then none else some (q.1, v))

/-- Put the values of `l` at consecutive keys from `k`. -/
def sputs {α : Type} [DecidableEq α] (d : α) (m : SMap α) (k : Nat) : List α → SMap α
  | [] => m
  | v :: l => sputs d (sput d m k v) (k + 1) l

/-- Read `n` consecutive keys from `k`. -/
def sgets {α : Type} (d : α) (m : SMap α) (k : Nat) : Nat → List α
  | 0 => []
  | n + 1 => sget d m k :: sgets d m (k + 1) n

end Sys2Proof.Machine
end

