-- ==== Sys2Proof/Machine/Bits.lean ====
section
/-!
DEFINITION. Bit fields, extensions, little-endian bytes and the saturation helper (R12, R18, R106, R142).
-/

namespace Sys2Proof.Machine

/-- Bits [hi:lo] of `w` as a number (R12). -/
def bits {n : Nat} (w : BitVec n) (hi lo : Nat) : Nat := w.toNat / 2 ^ lo % 2 ^ (hi + 1 - lo)

/-- Bit `k` of `w`. -/
def bit {n : Nat} (w : BitVec n) (k : Nat) : Bool := w.getLsbD k

/-- `zext(x, n)` (R106): the low `n` bits of a number. -/
def zextN (x n : Nat) : Nat := x % 2 ^ n

/-- `sext(x, n)` (R106): the low `n` bits read as two's complement. -/
def sextN (x n : Nat) : Int :=
  let v := x % 2 ^ n
  if v < 2 ^ (n - 1) then (v : Int) else (v : Int) - (2 ^ n : Nat)

/-- A 64-bit word holding an exact integer modulo 2^64. -/
def wrap64 (x : Int) : Word := BitVec.ofInt 64 x
/-- A 32-bit lane holding an exact integer modulo 2^32. -/
def wrap32 (x : Int) : Lane := BitVec.ofInt 32 x

/-- `sat(x, lo, hi)` (R142). -/
def satI (x lo hi : Int) : Int := if x < lo then lo else if hi < x then hi else x

/-- Replace bits [lo + n - 1 : lo] of `w` by the low `n` bits of `v`. -/
def setBits {m : Nat} (w : BitVec m) (lo n v : Nat) : BitVec m :=
  BitVec.ofNat m (w.toNat - (w.toNat / 2 ^ lo % 2 ^ n) * 2 ^ lo + (v % 2 ^ n) * 2 ^ lo)

/-- Little-endian bytes of a number (R12). -/
def leBytes (x : Nat) : Nat → List Byte
  | 0 => []
  | n + 1 => BitVec.ofNat 8 x :: leBytes (x / 256) n

/-- The number that little-endian bytes hold (R12). -/
def ofBytes : List Byte → Nat
  | [] => 0
  | b :: l => b.toNat + 256 * ofBytes l

/-- The number of set bits among the low `n` bits. -/
def popc (x : Nat) : Nat → Nat
  | 0 => 0
  | n + 1 => x % 2 + popc (x / 2) n

/-- The numbers below `n` at which `f` holds, ascending. -/
def idxs (n : Nat) (f : Nat → Bool) : List Nat := (List.range n).filter f

/-- The lanes of a mask, ascending (R17). -/
def lanesOf (m : Mask) : List Nat := idxs 64 (fun l => m.getLsbD l)

/-- A mask from its lanes. -/
def maskOf (l : List Nat) : Mask := BitVec.ofNat 64 (l.foldl (fun a k => a ||| 2 ^ k) 0)

/-- The mask of the lanes below 64 at which `f` holds. -/
def maskWhere (f : Nat → Bool) : Mask := maskOf (idxs 64 f)

/-- The mask of one lane. -/
def laneBit (l : Nat) : Mask := BitVec.ofNat 64 (2 ^ l)

/-- The lowest lane of a mask, or 64. -/
def lowestLane (m : Mask) : Nat := (lanesOf m).headD 64

/-- The home slices of a lane mask: lane l is in slice l div 4 (R14, R70). -/
def slicesOf (m : Mask) : List Nat := idxs 16 (fun k => decide (bits m (4 * k + 3) (4 * k) ≠ 0))

/-- Ceiling division. -/
def cdiv (a b : Nat) : Nat := (a + b - 1) / b

/-- Saturating increment of a counter. -/
def satInc (x limit by_ : Nat) : Nat := min (x + by_) limit

/-- Change the elements at which `p` holds. -/
def modWhere {α : Type} (p : α → Bool) (f : α → α) (l : List α) : List α :=
  l.map (fun a => if p a then f a else a)

/-- Change the element at index `k`. -/
def modAt {α : Type} (k : Nat) (f : α → α) : List α → List α
  | [] => []
  | a :: l => match k with
    | 0 => f a :: l
    | n + 1 => a :: modAt n f l

end Sys2Proof.Machine
end

