-- ==== Sys2Proof/Syntax.lean ====
section
/-!
DEFINITION. The body formats of R36 as records of their fields, and the one inductive of every step of the part:
the instructions, each with the fields of its format, and the autonomous steps, each with the unit it happens at.
-/

namespace Sys2Proof

/-- Format A (R36): D, S1, S2, S3, MOD and G. -/
structure FmtA where
  d : BitVec 8
  s1 : BitVec 8
  s2 : BitVec 8
  s3 : BitVec 8
  md : BitVec 3
  g : BitVec 5
  deriving DecidableEq, Repr

/-- Format I (R36): D, S1, a 19-bit immediate and G. -/
structure FmtI where
  d : BitVec 8
  s1 : BitVec 8
  imm : BitVec 19
  g : BitVec 5
  deriving DecidableEq, Repr

/-- Format J (R36): a 35-bit offset in fetch blocks and G. -/
structure FmtJ where
  off : BitVec 35
  g : BitVec 5
  deriving DecidableEq, Repr

/-- Format M (R36): T, B, DOM, SCOPE, ORD, WID, an 8-bit offset and G. -/
structure FmtM where
  t : BitVec 8
  b : BitVec 8
  dom : BitVec 3
  scope : BitVec 3
  ord : BitVec 2
  wid : BitVec 3
  off : BitVec 8
  g : BitVec 5
  deriving DecidableEq, Repr

/-- Format N (R36): D, B, S, DOM, SCOPE, ORD, AOP and a 4-bit G without a negate bit. -/
structure FmtN where
  d : BitVec 8
  b : BitVec 8
  s : BitVec 8
  dom : BitVec 3
  scope : BitVec 3
  ord : BitVec 2
  aop : BitVec 4
  g : BitVec 4
  deriving DecidableEq, Repr

/-- The control field of an instruction word (R32): GAP and the WAIT mask over f0 to f11. -/
structure Ctl where
  gap : BitVec 4
  wait : BitVec 12
  deriving DecidableEq, Repr

/-- Every step of the part (spec/opcode_table.json, one constructor a row). An instruction carries the fields of its
body format; an autonomous step has none: the unit it happens at stands in
`State.ev`, as an instruction's core, slot and path stand in `State.cur`. -/
inductive Instr where
  /-- R42: Occupies an issue slot and does nothing; with GAP or WAIT it idles the path for a fixed time or until flags clear. -/
  | nop (f : FmtA)
  /-- R76: Unconditional branch of the path to a J-format block target. -/
  | br (f : FmtJ)
  /-- R70: Splits the path into taken and not-taken sides and always pushes a reconvergence entry. -/
  | brc (f : FmtJ)
  /-- R76: Branches the path if the guard holds in at least one active lane. -/
  | brany (f : FmtJ)
  /-- R76: Branches the path if the guard holds in every active lane. -/
  | brall (f : FmtJ)
  /-- R76: Branches to the block base of the brx plus a signed register offset. -/
  | brx (f : FmtA)
  /-- R76: Jumps to a module offset held in a register. -/
  | jmpx (f : FmtA)
  /-- R21: Writes the next block's offset to x63 and branches. -/
  | call (f : FmtJ)
  /-- R76: Branches to the offset in a register, x63 by default. -/
  | ret (f : FmtA)
  /-- R75: Re-fusion point that fuses the split's paths once ARRIVED covers them, or traps on a token mismatch. -/
  | rejoin (f : FmtI)
  /-- R77: Decrements lc or ec, rotates rrb, sets p8 and branches while counts remain. -/
  | loop (f : FmtJ)
  /-- R76: Terminates the guarded lanes; ends the warp when all lanes have exited. -/
  | exit (f : FmtA)
  /-- R76: Raises software-trap with the zero-extended immediate, resuming at the next block. -/
  | trap (f : FmtI)
  /-- R31: Requests background fills of a run of the current module's fetch blocks into an instruction-cache level. -/
  | ipref (f : FmtA)
  /-- R78: Sets a predicate in the lowest active lane whose guard holds and clears it elsewhere. -/
  | elect (f : FmtA)
  /-- R290: Makes the path the youngest for the issue choice and ends any greedy run. -/
  | yield (f : FmtA)
  /-- R107: Scalar addition modulo 2^64. -/
  | add (f : FmtA)
  /-- R107: Scalar subtraction modulo 2^64. -/
  | sub (f : FmtA)
  /-- R107: Scalar multiplication modulo 2^64. -/
  | mul (f : FmtA)
  /-- R107: High 64 bits of the exact signed, unsigned or mixed product. -/
  | mulh (f : FmtA)
  /-- R108: Scalar division rounded towards zero with fixed results for zero divisor and overflow, holding the divider 16 vc. -/
  | div (f : FmtA)
  /-- R108: Scalar remainder with the sign of the dividend and fixed special results. -/
  | rem (f : FmtA)
  /-- R107: Scalar bitwise and. -/
  | and (f : FmtA)
  /-- R107: Scalar bitwise or. -/
  | or (f : FmtA)
  /-- R107: Scalar bitwise exclusive or. -/
  | xor (f : FmtA)
  /-- R107: Scalar shift left by the low six bits of b. -/
  | shl (f : FmtA)
  /-- R107: Scalar logical shift right. -/
  | shr (f : FmtA)
  /-- R107: Scalar arithmetic shift right. -/
  | sar (f : FmtA)
  /-- R107: Signed or unsigned scalar minimum. -/
  | min (f : FmtA)
  /-- R107: Signed or unsigned scalar maximum. -/
  | max (f : FmtA)
  /-- R107: Counts leading zeros, trailing zeros or set bits of a scalar. -/
  | bitc (f : FmtA)
  /-- R109: Selects one of two scalars by a predicate in the lowest active lane. -/
  | sel (f : FmtA)
  /-- R110: Adds a sign-extended 19-bit immediate. -/
  | addi (f : FmtI)
  /-- R110: Ands with a sign-extended immediate. -/
  | andi (f : FmtI)
  /-- R110: Ors with a sign-extended immediate. -/
  | ori (f : FmtI)
  /-- R110: Exclusive-ors with a sign-extended immediate. -/
  | xori (f : FmtI)
  /-- R111: Shifts by an immediate amount of the kind the immediate selects. -/
  | shi (f : FmtI)
  /-- R112: Writes the 64-bit literal in the next slot to a scalar register. -/
  | lim (f : FmtI) (lit : Word)
  /-- R113: Copies a scalar register. -/
  | mov (f : FmtA)
  /-- R113: Reads a domain register into a scalar, zero-extended. -/
  | movDomain (f : FmtA)
  /-- R114: Computes base plus shifted index plus signed displacement. -/
  | lea (f : FmtA)
  /-- R115: Compares two scalars into a predicate under a condition code. -/
  | cmp (f : FmtA)
  /-- R115: Compares a scalar with a 16-bit immediate into a predicate. -/
  | cmpi (f : FmtI)
  /-- R116: Reads a CSR into a scalar under the access rules of R103. -/
  | csrr (f : FmtI)
  /-- R116: Writes a scalar to a CSR. -/
  | csrw (f : FmtI)
  /-- R116: Returns the old CSR value and ors the source into the CSR. -/
  | csrs (f : FmtI)
  /-- R117: Writes the path's fmt, trapping operand-invalid on an illegal value. -/
  | fmtset (f : FmtA)
  /-- R117: Writes the masked bits of the path's fmt. -/
  | fmtsetM (f : FmtA)
  /-- R118: Writes a domain register from a scalar. -/
  | dset (f : FmtA)
  /-- R119: Reads the device reference time. -/
  | rdtime (f : FmtA)
  /-- R120: Predicate and, optionally with the second operand negated. -/
  | pand (f : FmtA)
  /-- R120: Predicate or, optionally with the second operand negated. -/
  | por (f : FmtA)
  /-- R120: Predicate exclusive or or its negation. -/
  | pxor (f : FmtA)
  /-- R120: Predicate negation. -/
  | pnot (f : FmtA)
  /-- R120: Predicate copy. -/
  | pmov (f : FmtA)
  /-- R121: Counts active lanes in which a predicate is set. -/
  | pcount (f : FmtA)
  /-- R121: Returns the lowest active lane with the predicate set, or 64. -/
  | pfirst (f : FmtA)
  /-- R122: Per-lane integer comparison into a predicate. -/
  | vcmp (f : FmtA)
  /-- R123: Per-lane floating-point comparison into a predicate, raising only invalid. -/
  | vfcmp (f : FmtA)
  /-- R124: Writes scalar bits into predicate lanes. -/
  | pset (f : FmtA)
  /-- R124: Reads a predicate into a scalar mask of active set lanes. -/
  | pget (f : FmtA)
  /-- R153: Per-lane 32-bit addition, wrapping or saturating. -/
  | vadd (f : FmtA)
  /-- R153: Per-lane 32-bit subtraction, wrapping or saturating. -/
  | vsub (f : FmtA)
  /-- R153: Per-lane 32-bit multiplication, wrapping or saturating. -/
  | vmul (f : FmtA)
  /-- R153: High 32 bits of the per-lane product. -/
  | vmulh (f : FmtA)
  /-- R153: Per-lane multiply-add, wrapping or saturating. -/
  | vmad (f : FmtA)
  /-- R153: Per-lane bitwise and. -/
  | vand (f : FmtA)
  /-- R153: Per-lane bitwise or. -/
  | vor (f : FmtA)
  /-- R153: Per-lane bitwise exclusive or. -/
  | vxor (f : FmtA)
  /-- R153: Per-lane shift left. -/
  | vshl (f : FmtA)
  /-- R153: Per-lane logical shift right. -/
  | vshr (f : FmtA)
  /-- R153: Per-lane arithmetic shift right. -/
  | vsar (f : FmtA)
  /-- R153: Per-lane signed or unsigned minimum. -/
  | vmin (f : FmtA)
  /-- R153: Per-lane signed or unsigned maximum. -/
  | vmax (f : FmtA)
  /-- R153: Per-lane absolute value or negation, optionally saturating. -/
  | vabn (f : FmtA)
  /-- R153: Per-lane select by a predicate. -/
  | vsel (f : FmtA)
  /-- R154: Per-lane addition of a sign-extended immediate. -/
  | vaddi (f : FmtI)
  /-- R156: Floating-point addition rounded under fmt.RM. -/
  | fadd (f : FmtA)
  /-- R156: Floating-point subtraction. -/
  | fsub (f : FmtA)
  /-- R156: Floating-point multiplication. -/
  | fmul (f : FmtA)
  /-- R156: Fused multiply-add with one rounding. -/
  | fma (f : FmtA)
  /-- R157: Floating-point minimum with NaN and signed-zero rules. -/
  | fmin (f : FmtA)
  /-- R157: Floating-point maximum with NaN and signed-zero rules. -/
  | fmax (f : FmtA)
  /-- R158: Clears, inverts or sets the floating-point sign. -/
  | fabn (f : FmtA)
  /-- R156: Long-latency floating-point division on the divide unit. -/
  | fdiv (f : FmtA)
  /-- R156: Long-latency floating-point square root on the divide unit. -/
  | fsqrt (f : FmtA)
  /-- R161: Exact two-element FP16 or BF16 dot product accumulated into FP32 with one rounding. -/
  | fdot2 (f : FmtA)
  /-- R161: Exact four-element FP8 dot product accumulated into FP32 with one rounding. -/
  | fdot4 (f : FmtA)
  /-- R161: Four-element INT8 dot product accumulated into INT32, wrapping or saturating. -/
  | vdot4 (f : FmtA)
  /-- R159: Writes the class mask of each element. -/
  | fclass (f : FmtA)
  /-- R160: Rounds each element to an integral value in its own format. -/
  | frnd (f : FmtA)
  /-- R162: Converts one element per lane between formats under fmt.RM. -/
  | cvt (f : FmtA)
  /-- R162: Converts one element per lane under stochastic rounding. -/
  | cvtsr (f : FmtA)
  /-- R167: Long-latency reciprocal on the special-function unit. -/
  | vrcp (f : FmtA)
  /-- R167: Long-latency reciprocal square root. -/
  | vrsq (f : FmtA)
  /-- R167: Long-latency base-2 exponential. -/
  | vexp2 (f : FmtA)
  /-- R167: Long-latency base-2 logarithm. -/
  | vlog2 (f : FmtA)
  /-- R167: Long-latency sin(pi x). -/
  | vsin (f : FmtA)
  /-- R167: Long-latency cos(pi x). -/
  | vcos (f : FmtA)
  /-- R167: Long-latency hyperbolic tangent. -/
  | vtanh (f : FmtA)
  /-- R164: Quantises FP32 values to clamped integer codes with a zero point. -/
  | vqnt (f : FmtA)
  /-- R164: Dequantises integer codes to FP32. -/
  | vdeq (f : FmtA)
  /-- R165: Narrows elements of two sources into one lane. -/
  | vpack (f : FmtA)
  /-- R166: Extracts and extends one element of a lane. -/
  | vunpack (f : FmtA)
  /-- R169: Copies a vector register or pair. -/
  | vmov (f : FmtA)
  /-- R169: Broadcasts a scalar into every guarded active lane. -/
  | vbcast (f : FmtA)
  /-- R169: Extracts one lane into a scalar. -/
  | vext (f : FmtA)
  /-- R169: Inserts a scalar into one lane. -/
  | vins (f : FmtA)
  /-- R169: Permutes lanes by per-lane indices. -/
  | vperm (f : FmtA)
  /-- R169: Shuffles lanes by xor, up, down or index. -/
  | vshfl (f : FmtA)
  /-- R169: Exchanges lanes within a slice. -/
  | vlane (f : FmtA)
  /-- R169: Forms a scalar mask from a per-lane test. -/
  | vballot (f : FmtA)
  /-- R170: Long-latency reduction of a vector to a scalar on the tree unit. -/
  | red (f : FmtA)
  /-- R170: Long-latency inclusive or exclusive prefix combination on the tree unit. -/
  | scan (f : FmtA)
  /-- R125: Sets the path's rotating register base. -/
  | rrbset (f : FmtI)
  /-- R234: Scalar load, optionally with acquire order. -/
  | ld (f : FmtM)
  /-- R234: Scalar store, optionally with release order. -/
  | st (f : FmtM)
  /-- R234: Unit-stride vector load through the coalescer. -/
  | vld (f : FmtM)
  /-- R234: Unit-stride vector store. -/
  | vst (f : FmtM)
  /-- R234: Gather load through per-lane 64-bit addresses. -/
  | vldg (f : FmtM)
  /-- R234: Scatter store through per-lane addresses. -/
  | vstg (f : FmtM)
  /-- R234: Strided vector load. -/
  | vlds (f : FmtM)
  /-- R234: Strided vector store. -/
  | vsts (f : FmtM)
  /-- R188: Loads a vector from the team's scratchpad through the lane-access queue. -/
  | spld (f : FmtM)
  /-- R188: Stores a vector to the team's scratchpad. -/
  | spst (f : FmtM)
  /-- R237: Prefetches a data line into the L1 or the home system cache. -/
  | dprf (f : FmtM)
  /-- R194: Loads a vector from the Loam store. -/
  | ldl (f : FmtM)
  /-- R239: Scalar atomic read-modify-write at the place its scope names. -/
  | atom (f : FmtN)
  /-- R239: Per-lane atomic read-modify-write in ascending lane order. -/
  | vatom (f : FmtN)
  /-- R239: Scalar compare-and-swap. -/
  | cas (f : FmtN)
  /-- R239: Per-lane compare-and-swap. -/
  | vcas (f : FmtN)
  /-- R268: Orders the warp by release and/or acquire steps at a scope without accessing memory. -/
  | fence (f : FmtM)
  /-- R264: Requests a phase boundary of the core, waiting or counting it on a flag. -/
  | phase (f : FmtA)
  /-- R271: Pushes a marker into each named engine queue. -/
  | mfence (f : FmtI)
  /-- R272: Waits until every outstanding marker of the warp has reached its head. -/
  | mjoin (f : FmtA)
  /-- R274: Ends a superstep of a group, waiting for COMM copies and the group release. -/
  | sstep (f : FmtI)
  /-- R275: Sleeps until a memory word meets a condition. -/
  | mwait (f : FmtM)
  /-- R216: Zeroes both halves of a tile pair in tile order. -/
  | mzero (f : FmtA)
  /-- R212: Checks and pushes a matrix product with A and B from the scratchpads. -/
  | mmul (f : FmtA)
  /-- R212: Checks and pushes a matrix product with B streamed from the Loam store. -/
  | mmull (f : FmtA)
  /-- R212: Checks and pushes a matrix product with A streamed from memory. -/
  | mmulm (f : FmtA)
  /-- R217: Pushes a conversion of row-major scratchpad elements into transposed bit planes. -/
  | mplane (f : FmtA)
  /-- R218: Pushes a write of a tile pair to the scratchpads through the epilogue. -/
  | mout (f : FmtA)
  /-- R207: Writes a matrix parameter mpN. -/
  | mcfg (f : FmtI)
  /-- R204: Passes a tile token to another warp or frees it. -/
  | tgive (f : FmtA)
  /-- R205: Takes a tile token, waiting while another warp holds it. -/
  | ttake (f : FmtA)
  /-- R219: Reads one tile row into a register pair in tile order. -/
  | trow (f : FmtA)
  /-- R219: Writes one tile row from a register pair in tile order. -/
  | twrow (f : FmtA)
  /-- R189: Zeroes a range of the team's scratchpad through the lane-access queue. -/
  | spzero (f : FmtA)
  /-- R247: Pushes a 64-bit engine word to q2. -/
  | qpush (f : FmtA)
  /-- R247: Pushes one word per participating lane to q2. -/
  | qpushv (f : FmtA)
  /-- R247: Pops one record of the warp from a pop queue. -/
  | qpop (f : FmtA)
  /-- R247: Pops one record per participating lane. -/
  | qpopv (f : FmtA)
  /-- R247: Returns free push slots or available records. -/
  | qpeek (f : FmtA)
  /-- R255: Pushes a whole copy command from consecutive scalar registers. -/
  | cpy (f : FmtA)
  /-- R255: Pushes a whole pack or unpack command from consecutive scalar registers. -/
  | cpyz (f : FmtA)
  /-- R69: Queues a request to the distributor for the next tile of the launch's grid. -/
  | wdq (f : FmtA)
  /-- R64: Reads CSIG, counts the flag and enqueues an LPB, returning a launch handle. -/
  | launch (f : FmtA)
  /-- R398: Posts one system call per participating lane as a batch into the partition ring. -/
  | scall (f : FmtA)
  /-- R401: Posts a hypervisor call into the root ring. -/
  | scallUp (f : FmtA)
  /-- R401: Releases reply data and counts a reply to the batch of a ring slot, clearing VALID. -/
  | scallReply (f : FmtA)
  /-- R401: Performs launch for a VF of the partition from a service core. -/
  | scallLaunch (f : FmtA)
  /-- R400: Advances the warp's call epoch. -/
  | fcall (f : FmtA)
  /-- R400: Advances the epoch and waits for every earlier batch of the warp to complete. -/
  | fcallDone (f : FmtA)
  /-- R80: Team barrier arrival. -/
  | bar (f : FmtA)
  /-- R81: Group barrier arrival on the Piste. -/
  | gbar (f : FmtI)
  /-- R83: Group barrier that combines one value per team. -/
  | gred (f : FmtA)
  /-- R84: Writes a team, warp, core, die, launch or lane identifier. -/
  | ident (f : FmtA)
  /-- R288: Declares the warp's lease, optionally fixed. -/
  | lease (f : FmtI)
  /-- R288: Switches the warp's lease to measured. -/
  | leaseMeas (f : FmtI)
  /-- R304: Sets the team's remaining-time estimate. -/
  | tleft (f : FmtA)
  /-- R305: Re-requests the launch's operating class and runs the arbiter. -/
  | clkreq (f : FmtA)
  /-- R305: Arms a ratio event on the RSIG flag. -/
  | clkreqArm (f : FmtA)
  /-- R85: Withholds issue from the path for 64n vc. -/
  | sleep (f : FmtI)
  /-- R336: Ends a lane handler, restores the saved set and resumes the team with replay. -/
  | eret (f : FmtA)
  /-- R336: Ends a lane handler and resumes after the trapping instruction. -/
  | eretSkip (f : FmtA)
  /-- R328: Maps a first-touch page from the VF's pool. -/
  | mapfp (f : FmtA)
  /-- R316: Removes every translation and stage-1 walk entry of the VF. -/
  | tlbinvAll (f : FmtA)
  /-- R316: Removes translations of one space. -/
  | tlbinvSpace (f : FmtA)
  /-- R316: Removes translations covering one offset. -/
  | tlbinvPage (f : FmtA)
  /-- R316: Removes every translation and walk entry of the partition. -/
  | tlbinvS2all (f : FmtA)
  /-- R316: Removes translations that used one GPA page and restarts walks held on it. -/
  | tlbinvS2page (f : FmtA)
  /-- R351: Removes instruction-cache tags of a module everywhere. -/
  | icinvMod (f : FmtA)
  /-- R351: Removes instruction-cache tags of a block range of a module. -/
  | icinvRange (f : FmtA)
  /-- R350: Registers a module image, code-locking and verifying it. -/
  | modreg (f : FmtA)
  /-- R350: Releases a module and waits until its entry is free. -/
  | modrel (f : FmtA)
  /-- R350: Releases a module and returns once it is releasing. -/
  | modrelNb (f : FmtA)
  /-- R322: Scrubs a frame, removing it from every cache and zeroing it under a new key. -/
  | frscrub (f : FmtA)
  /-- R323: Writes a frame owner table entry under ownership rules. -/
  | fotset (f : FmtA)
  /-- R389: Writes a VF's system-cache way mask on both dies. -/
  | wmset (f : FmtA)
  /-- R349: Checkpoints every team of a VF and writes its image. -/
  | vfsave (f : FmtA)
  /-- R349: Rebuilds a VF from its image and restores its teams. -/
  | vfrest (f : FmtA)
  /-- R348: Checkpoints a team of the partition. -/
  | ctxsave (f : FmtA)
  /-- R348: Kills a team of the partition. -/
  | ctxsaveKill (f : FmtA)
  /-- R348: Makes a checkpointed team placeable. -/
  | ctxrest (f : FmtA)
  /-- R365: Submits a draw record as a batch to the die's raster. -/
  | rdraw (f : FmtA)
  /-- R362: Sends each guarded lane's fragment to the output merger. -/
  | pxout (f : FmtA)
  /-- R368: Long-latency filtered texture sample. -/
  | tsample (f : FmtA)
  /-- R368: Long-latency unfiltered texel fetch. -/
  | tfetch (f : FmtA)
  /-- R373: Pushes a batch of one ray per participating lane to the ray engine. -/
  | rtrace (f : FmtA)
  /-- R374: Pops the warp's oldest completed hit batch into hit records. -/
  | rhit (f : FmtA)
  /-- R363: Discards the guarded lanes' fragments and terminates them. -/
  | disc (f : FmtA)
  /-- R360: Long-latency interpolation of a triangle attribute. -/
  | attr (f : FmtA)
  /-- R45: An engine starts a queued command once its WAIT flags are zero and an in-flight slot is free. -/
  | engineWordStart
  /-- R250: Copy engine performs a linear copy over its repetitions. -/
  | line
  /-- R250: Copy engine performs a pitched rectangular copy. -/
  | box
  /-- R250: Copy engine fills a destination with a 32-bit pattern. -/
  | fill
  /-- R256: Copy engine encodes raw blocks into a packed stream of chunks. -/
  | zpack
  /-- R257: Copy engine stages, checks and releases decoded chunks. -/
  | zunpack
  /-- R252: A copy command completes with join invalidation, record and flag decrement. -/
  | copyCommandComplete
  /-- R253: A running engine command meets a fault, is abandoned and halts its team. -/
  | engineCommandFault
  /-- R199: A matrix chunk begins computing once its planes and metadata are buffered. -/
  | matrixChunkStart
  /-- R199: A matrix command writes its tiles, ors mflags, posts its record and decrements its flag. -/
  | matrixCommandComplete
  /-- R222: The shadow context finishes service and the pair's clocks restart. -/
  | freezeResume
  /-- R222: A freeze needing more service or exceeding 2^16 nc converts into a team trap. -/
  | freezeConversion
  /-- R372: The ray engine completes a batch's traversal and makes its hit batch poppable. -/
  | rayBatchComplete
  /-- R69: The distributor serves a tile query from the launch's tile counter. -/
  | wdqService
  /-- R69: The distributor writes the tile record to the scratchpad and decrements the flag. -/
  | wdqAnswer
  /-- R271: A marker reaches its engine head once earlier commands have read their sources. -/
  | markerArrival
  /-- R91: A long-latency producer's data arrives, writes its lanes and marks the register full. -/
  | longLatencyWriteComplete
  /-- R25: A requested fetch block arrives, is verified into L1I and unblocks the path. -/
  | fetchBlockArrival
  /-- R65: The die reads and validates a queued LPB and its group table, refusing it with a status. -/
  | launchValidation
  /-- R66: The distributor places the next team on a core when slots, scratchpad and counters allow. -/
  | teamPlacement
  /-- R178: A placed team's allocation zeroing ends and its first warp may issue. -/
  | teamStart
  /-- R68: Every 4,096 nc cluster queues exchange depths and move entries to a shallower neighbour. -/
  | neighbourBalancing
  /-- R76: A team whose warps have ended waits for its commands, performs the exit boundary and retires. -/
  | teamRetirement
  /-- R65: A launch completes: record written, CSIG decremented, residency dropped. -/
  | launchCompletion
  /-- R29: Verification of a loading module ends, making it live or freeing it. -/
  | moduleVerificationComplete
  /-- R30: The last cache acknowledges the invalidation and the module entry becomes free. -/
  | moduleReleaseComplete
  /-- R262: A requested phase boundary begins when no other boundary of the core is running. -/
  | phaseBoundaryStart
  /-- R260: Writebacks are acknowledged and the L1 is invalidated, ending the boundary. -/
  | phaseBoundaryComplete
  /-- R80: The last warp of a team arrives at bar and the barrier releases. -/
  | barrierRelease
  /-- R82: A non-home die's forwarded group arrival reaches the home Piste. -/
  | pisteArrivalForward
  /-- R82: The home Piste releases a group and sends the release with the final ACC. -/
  | groupRelease
  /-- R82: A release from the home arrives at a member die, which advances the group. -/
  | groupReleaseMessage
  /-- R263: After every member's writeback part completes, member cores refresh and teams resume. -/
  | barrierRefresh
  /-- R75: The vc after all live paths wait at unsatisfiable points, refusion-mismatch is raised. -/
  | refusionMismatch
  /-- R258: An L1 line is evicted at any moment, writing back its dirty bytes. -/
  | lineEviction
  /-- R258: A writeback arrives and is performed at its home, merging bytes. -/
  | writebackArrival
  /-- R258: A writeback acknowledgement returns to the core. -/
  | writebackAck
  /-- R258: A line request arrives at its home and is filled with the home's current value. -/
  | loadRequestArrival
  /-- R240: A die-or-wider atomic is performed indivisibly at the line's home. -/
  | atomicAtHome
  /-- R193: A Loam bank group enters its 1,500 ns refresh window. -/
  | loamRefreshWindowStart
  /-- R193: A bank group leaves refresh and its waiting reads proceed. -/
  | loamRefreshWindowEnd
  /-- R315: A walker takes the next queued translation miss. -/
  | pageWalkStart
  /-- R312: A walk ends in a translation or a fault, installing or reporting it. -/
  | pageWalkComplete
  /-- R331: The vc after a trap, the halt reaches sibling warps, which skid and stop. -/
  | haltBroadcast
  /-- R333: After siblings stop and the saved set is full, the handler is entered at module entry 0. -/
  | handlerEntry
  /-- R330: An asynchronous cause from an engine command is delivered to the pushing warp. -/
  | asyncFaultDelivery
  /-- R337: After 2^20 vc the handler is killed and the team escalated. -/
  | handlerWatchdogExpiry
  /-- R86: A team blocked for 2^16 vc becomes eligible for checkpoint pre-emption. -/
  | blockedTeamEligible
  /-- R342: After PWAIT or starvation the distributor chooses victims to drain, checkpoint or kill. -/
  | preemptionDecision
  /-- R344: The 2^14 nc checkpoint window ends; running commands stop and the slot is written. -/
  | drainWindowEnd
  /-- R346: A checkpointed team is placed and its context, queues and journal are restored. -/
  | restore
  /-- R280: Every 8,192 vc measured leases are set from sampled line counts. -/
  | measuringIntervalEnd
  /-- R284: A warp parked 65,536 vc receives the lowest rank of its class. -/
  | warpRotation
  /-- R290: A path that has been a candidate 256 vc without issuing becomes boosted. -/
  | pathBoost
  /-- R290: A path that held decoder 0 for 64 consecutive vc loses greedy preference. -/
  | greedyLimit
  /-- R293: A path withheld by the power allowance for 4,096 candidate vc issues regardless. -/
  | powerForcedIssue
  /-- R294: A 32 ns slew window ends, lifting withheld issue and rolling D. -/
  | slewWindowEnd
  /-- R294: A rail droop detector trips and withholds issue or halves QUANT. -/
  | droopTrip
  /-- R294: After 1 µs the halved QUANT of a tripped rail is restored. -/
  | quantRestore
  /-- R85: A sleep's 64n vc elapse and the path continues. -/
  | sleepEnd
  /-- R295: The ratio arbiter assigns pools and grants step tuples under caps. -/
  | arbiterRun
  /-- R295: A cluster empty for 50 µs leaves its pool and drops to step 0. -/
  | clusterIdleRelease
  /-- R299: A grant changing vector or matrix steps starts at cluster matrix quiescence. -/
  | grantApply
  /-- R299: Quiescence not reached in 50 µs defers the change and releases held commands. -/
  | quiescenceTimeout
  /-- R300: A raised rail voltage settles after 20 µs and relock begins. -/
  | railSettled
  /-- R300: The 2 µs relock ends and the cluster runs at its new steps. -/
  | relockComplete
  /-- R301: After all clusters acknowledge and 50 µs settle, the rail voltage falls. -/
  | railLower
  /-- R275: A write to the watched line wakes mwait to re-read and test the word. -/
  | mwaitWake
  /-- R275: A waiter without a line monitor re-reads its word every 256 nc. -/
  | mwaitPoll
  /-- R352: The raster takes the next batch, sets up triangles and creates footprint teams. -/
  | rasterBatchAccept
  /-- R366: A split-frame batch is forwarded over UCIe and accepted by the other die's raster. -/
  | splitFrameForward
  /-- R364: The merger performs a fragment once every earlier fragment of the pixel is done. -/
  | mergerPerform
  /-- R365: A batch completes, writes STATUS and decrements the issuer's flag if resident. -/
  | drawBatchComplete
  /-- R399: The last reply of a call batch triggers join refresh, q7 notification and flag decrement. -/
  | scallBatchComplete
  /-- R377: Every 1 µs a display head's regulator sets its throttle level from FIFO fill. -/
  | regulatorTick
  /-- R376: At vertical blank a pending dhbase write takes effect. -/
  | verticalBlank
  /-- R376: A write to dhbase is held pending until vertical blank. -/
  | dhbaseWrite
  /-- R376: Writing CLR clears the selected head's level counters. -/
  | dhselClr
  /-- R231: Writing CLR clears CAPEV and XEV of the selected VF. -/
  | scselClr
  /-- R175: Writing 1 to VALID clears rferr VALID and COUNT. -/
  | rferrClear
  /-- R182: Writing 1 to VALID clears sperr VALID and COUNT. -/
  | sperrClear
  /-- R243: Writing 1 to VALID clears l1err VALID and COUNT. -/
  | l1errClear
  /-- R140: A write to srseed replaces every lane's stochastic-rounding state when it lands. -/
  | srseedWrite
  /-- R334: A write to hmod names the handler module or sets ERR. -/
  | hmodWrite
  /-- R381: A write changes a granule's kind if all its frames are free and scrubbed, else sets ERR. -/
  | gkindWrite
  /-- R382: pctl OP 1 checks a descriptor, verifies the kernel, draws a key and starts the service core. -/
  | partitionCreate
  /-- R382: pctl OP 2 stops the service core, destroys the key and releases resources. -/
  | partitionDestroy
  /-- R384: Setting EN enables a VF and sets its way mask to WAYS. -/
  | vfqEnable
  /-- R385: Setting RUN reloads the VF's task records for placement. -/
  | vfqRunSet
  /-- R385: Clearing RUN writes back cached task records and stops placement. -/
  | vfqRunClear
  /-- R408: A write sets a service core's step, relocking within 10 µs. -/
  | skclkWrite
  /-- R103: A write to a register with no behaviour of its own stores its writable fields. -/
  | registerWrite
  /-- R395: A host write to a VF's DOORBELL performs launch for the VF. -/
  | doorbell
  /-- R395: A host memory request of a VF is translated and performed at its home. -/
  | pcieInboundRequest
  /-- R392: A peer request names a bound VF and is performed at system scope. -/
  | flefinInboundRequest
  /-- R393: A response arrives and returns the transaction's credits. -/
  | flefinResponse
  /-- R393: A transaction without response after 100 µs ends in error. -/
  | flefinTimeout
  /-- R393: A port's replay fails, ending every outstanding transaction in error. -/
  | flefinPortFailure
  /-- R390: A flit failing retry 16 times is delivered with poison and logged. -/
  | ucieRetryFailure
  /-- R402: A PCIe wake, Flefin wake flit or hot-plug wakes the device from standby. -/
  | standbyWake
  /-- R404: At power-on the boot ROM trains LPDDR, accepts images, derives DICE identity and locks fuses. -/
  | powerOnReset
  /-- R409: A sensor reading crosses a threshold and derates caps, steps or LPDDR refresh. -/
  | temperatureReading
  /-- R409: A junction at 115 °C removes package power. -/
  | thermalTrip
  /-- R376: A display head scans one line from its FIFO, sending black for missing pixels and counting UNDER, and fetches frame data in the deadline class. -/
  | scanOutLine
  /-- R294: The 64 ns withholding of issue after a droop trip ends on the charged clusters. -/
  | droopWithholdEnd
  /-- R402: The device enters standby, leaving only the root monitor core powered at step 0 with LPDDR in self-refresh. -/
  | standbyEntry
  /-- R393: The root monitor trains a Flefin port again, bringing a failed port back up. -/
  | flefinPortTraining
  /-- R322: The zeroing of a scrubbed frame finishes, SCRUB becomes 1 and the issuing path resumes. -/
  | frscrubComplete
  /-- R351: Every instruction cache acknowledges the tag removal and icinv completes. -/
  | icinvComplete
  deriving DecidableEq, Repr

end Sys2Proof
end

