-- ==== Sys2Proof/Machine/Legal.lean ====
section
/-!
DEFINITION. Legality of an instruction's fields (R37 to R41 and each instruction's own Encoding rule). A check names
the reason code of R41 and the lowest bit of the field it concerns; the reported pair is the lowest reason, and among
the broken fields of that reason the lowest bit.
-/

namespace Sys2Proof.Machine

/-- One condition of R41: its reason, the lowest bit of the field, and whether the word breaks it. -/
structure Chk where
  reason : Nat
  pos : Nat
  broken : Bool
  deriving DecidableEq, Repr

/-- A check from a decidable condition that breaks legality. -/
def ck (r p : Nat) (c : Prop) [Decidable c] : Chk := ⟨r, p, decide c⟩

/-- Register index of an operand byte (R37). -/
def opIdx (b : BitVec 8) : Nat := b.toNat % 128
/-- FE of an operand byte (R37). -/
def opFe (b : BitVec 8) : Bool := b.getLsbD 7

/-- Index at most `n` (R37, reason 05). -/
def rng (n : Nat) (b : BitVec 8) (p : Nat) : Chk := ck 5 p (n < opIdx b)
/-- FE must be clear (R37, reason 06). -/
def noFe (b : BitVec 8) (p : Nat) : Chk := ck 6 p (opFe b = true)
/-- Even index where `c` asks for a register pair (R89, reason 05). -/
def evenIf (c : Prop) [Decidable c] (b : BitVec 8) (p : Nat) : Chk := ck 5 p (c ∧ opIdx b % 2 = 1)

/-- Scalar source. -/
def xs (b : BitVec 8) (p : Nat) : List Chk := [rng 63 b p]
/-- Scalar source limited to index `n`. -/
def xl (n : Nat) (b : BitVec 8) (p : Nat) : List Chk := [rng n b p]
/-- Scalar destination. -/
def xd (b : BitVec 8) (p : Nat) : List Chk := [rng 63 b p, noFe b p]
/-- Vector source. -/
def vs (_ : BitVec 8) (_ : Nat) : List Chk := []
/-- Vector source limited to index `n`. -/
def vl (n : Nat) (b : BitVec 8) (p : Nat) : List Chk := [rng n b p]
/-- Vector source pair. -/
def vs2 (b : BitVec 8) (p : Nat) : List Chk := [evenIf True b p]
/-- Vector source, a pair where `c`. -/
def vsP (c : Prop) [Decidable c] (b : BitVec 8) (p : Nat) : List Chk := [evenIf c b p]
/-- Vector destination. -/
def vd (b : BitVec 8) (p : Nat) : List Chk := [noFe b p]
/-- Vector destination limited to index `n`. -/
def vdl (n : Nat) (b : BitVec 8) (p : Nat) : List Chk := [rng n b p, noFe b p]
/-- Vector destination pair. -/
def vd2 (b : BitVec 8) (p : Nat) : List Chk := [evenIf True b p, noFe b p]
/-- Vector destination, a pair where `c`. -/
def vdP (c : Prop) [Decidable c] (b : BitVec 8) (p : Nat) : List Chk := [evenIf c b p, noFe b p]
/-- Vector source of a floating-point type: a pair for type d (R155). -/
def vsT (md : BitVec 3) (b : BitVec 8) (p : Nat) : List Chk := vsP (md = 3) b p
/-- Vector destination of a floating-point type. -/
def vdT (md : BitVec 3) (b : BitVec 8) (p : Nat) : List Chk := vdP (md = 3) b p
/-- Predicate source. -/
def ps (b : BitVec 8) (p : Nat) : List Chk := [rng 15 b p, noFe b p]
/-- Predicate destination: p0 is refused with reason 07 (R89). -/
def pd (b : BitVec 8) (p : Nat) : List Chk := [rng 15 b p, noFe b p, ck 7 p (opIdx b = 0)]
/-- Domain operand byte. -/
def dn (b : BitVec 8) (p : Nat) : List Chk := [rng 7 b p, noFe b p]
/-- Tile operand byte. -/
def tl (b : BitVec 8) (p : Nat) : List Chk := [rng 7 b p, noFe b p]
/-- Queue operand byte with the queues the position allows (R99, R247). -/
def qn (l : List Nat) (b : BitVec 8) (p : Nat) : List Chk := [ck 5 p (opIdx b ∉ l), noFe b p]
/-- Unused byte (reason 07). -/
def z (b : BitVec 8) (p : Nat) : List Chk := [ck 7 p (b ≠ 0)]
/-- Immediate byte: no range check (R40). -/
def im (_ : BitVec 8) (_ : Nat) : List Chk := []
/-- SIG byte (R40). -/
def sig (b : BitVec 8) (p : Nat) : List Chk :=
  [ck 7 (p + 4) (b.toNat / 16 ≠ 0), ck 12 p (12 ≤ b.toNat % 16 ∧ b.toNat % 16 ≤ 14)]

/-- MOD must be one of the listed values (reason 02). -/
def mo (l : List Nat) (md : BitVec 3) : List Chk := [ck 2 5 (md.toNat ∉ l)]
/-- MOD is unused (reason 07). -/
def mz (md : BitVec 3) : List Chk := [ck 7 5 (md ≠ 0)]
/-- The guard that never holds (reason 08). -/
def gA (g : BitVec 5) : List Chk := [ck 8 0 (g = 16)]

/-- SCOPE 6 and 7 of format M. -/
def scopeM (f : FmtM) : Chk := ck 4 18 (6 ≤ f.scope.toNat)
/-- WID, SCOPE and ORD of a load (R233). -/
def ldM (f : FmtM) : List Chk :=
  [ck 3 13 (6 ≤ f.wid.toNat), ck 4 18 (6 ≤ f.scope.toNat ∨ f.ord = 0 ∧ f.scope ≠ 0), ck 10 16 (2 ≤ f.ord.toNat)]
/-- WID, SCOPE and ORD of a store (R233). -/
def stM (f : FmtM) : List Chk :=
  [ck 3 13 (6 ≤ f.wid.toNat), ck 4 18 (6 ≤ f.scope.toNat ∨ f.ord = 0 ∧ f.scope ≠ 0), ck 10 16 (f.ord ≠ 0 ∧ f.ord ≠ 2)]
/-- WID, DOM, SCOPE and ORD of the scratchpad and Loam forms (R188, R194). -/
def spM (f : FmtM) : List Chk :=
  [ck 3 13 (6 ≤ f.wid.toNat), ck 7 21 (f.dom ≠ 0), ck 4 18 (f.scope ≠ 0), ck 10 16 (f.ord ≠ 0)]

/-- Format A: the four operand bytes, the MOD checks and the guard. -/
def chkA (f : FmtA) (kd k1 k2 k3 : BitVec 8 → Nat → List Chk) (m : List Chk) : List Chk :=
  kd f.d 32 ++ k1 f.s1 24 ++ k2 f.s2 16 ++ k3 f.s3 8 ++ m ++ gA f.g
/-- Format I: the two operand bytes and the guard. -/
def chkI (f : FmtI) (kd k1 : BitVec 8 → Nat → List Chk) : List Chk := kd f.d 32 ++ k1 f.s1 24 ++ gA f.g
/-- Format N: the three operand bytes and SCOPE; every ORD and every G is legal (R36, R238). -/
def chkN (f : FmtN) (kd kb k2 : BitVec 8 → Nat → List Chk) : List Chk :=
  kd f.d 32 ++ kb f.b 24 ++ k2 f.s 16 ++ [ck 4 10 (6 ≤ f.scope.toNat)]

/-- The CSR numbers that a chapter assigns (R103, R104). -/
def csrAssigned (n : Nat) : Bool :=
  decide (n ≤ 0x00D ∨ 0x010 ≤ n ∧ n ≤ 0x018 ∨ 0x100 ≤ n ∧ n ≤ 0x104 ∨ n = 0x200 ∨ 0x300 ≤ n ∧ n ≤ 0x304 ∨
    n = 0x310 ∨ 0x312 ≤ n ∧ n ≤ 0x315 ∨ 0x410 ≤ n ∧ n ≤ 0x413 ∨ 0x420 ≤ n ∧ n ≤ 0x422 ∨ 0x430 ≤ n ∧ n ≤ 0x432 ∨
    0x440 ≤ n ∧ n ≤ 0x44B ∨ 0x450 ≤ n ∧ n ≤ 0x456 ∨ 0x800 ≤ n ∧ n ≤ 0x802 ∨ 0x810 ≤ n ∧ n ≤ 0x812 ∨ n = 0x820 ∨
    0x840 ≤ n ∧ n ≤ 0x877)

/-- The CSRs that no instruction writes (the chapters' Access columns). -/
def csrReadOnly (n : Nat) : Bool :=
  decide (n ∈ [0x004, 0x006, 0x007, 0x008, 0x009, 0x00A, 0x00B, 0x00D] ∨ 0x010 ≤ n ∧ n ≤ 0x017 ∨
    0x101 ≤ n ∧ n ≤ 0x104 ∨ n ∈ [0x303, 0x304, 0x313, 0x314, 0x315, 0x420, 0x422, 0x431, 0x455, 0x456])

/-- A CSR instruction's IMM: the number is assigned, the bits above it are zero (R103, R116). -/
def csrChks (imm : Nat) : List Chk :=
  [ck 7 5 (csrAssigned (imm % 4096) = false), ck 7 17 (imm / 4096 ≠ 0)]
/-- A write names no RO CSR (R103). -/
def csrWriteChk (imm : Nat) : List Chk := [ck 7 5 (csrReadOnly (imm % 4096) = true)]

/-- Elements per lane of a conversion type (R162). -/
def cvtCount : Nat → Nat
  | 1 | 2 | 8 | 9 => 2
  | 4 | 5 | 10 | 11 | 12 | 13 => 4
  | _ => 1
/-- The legal source and destination types of a conversion (R162). -/
def cvtPair (s d : Nat) : Bool :=
  decide (s ≠ d ∧ (s ≤ 13 ∧ d ≤ 13 ∨ s = 0 ∧ 14 ≤ d ∨ 14 ≤ s ∧ d = 0))
/-- Source and destination type codes of a conversion. -/
def cvtSrc (f : FmtA) : Nat := f.s2.toNat % 16
def cvtDst (f : FmtA) : Nat := f.s2.toNat / 16
/-- Destination operand of a conversion: a pair for `.f64`. -/
def cvtD (f : FmtA) (b : BitVec 8) (p : Nat) : List Chk := vdP (cvtDst f = 3) b p
/-- Source operand of a conversion: a pair for `.f64`. -/
def cvtS (f : FmtA) (b : BitVec 8) (p : Nat) : List Chk := vsP (cvtSrc f = 3) b p
/-- The immediate bytes of a conversion (R162). -/
def cvtChks (f : FmtA) : List Chk :=
  [ck 7 16 (cvtPair (cvtSrc f) (cvtDst f) = false), ck 7 12 (f.s3.toNat / 16 ≠ 0),
   ck 7 8 (cvtCount (cvtSrc f) ≤ f.s3.toNat % 4 ∨ cvtCount (cvtDst f) ≤ f.s3.toNat / 4 % 4)]

/-- How many elements `vunpack` of a kind counts (R166). -/
def unpackCount (md : Nat) : Nat := if md ≤ 1 then 2 else if md ≤ 3 then 4 else 8

/-- Destination of `ident`: a vector for `.lane` (R84). -/
def identD (md : BitVec 3) : BitVec 8 → Nat → List Chk := if md = 6 then vd else xd

/-- The illegal immediates of `lease` (R288). -/
def leaseBad (imm : Nat) : Bool :=
  let n := imm % 256; let fix := imm / 256 % 2; let meas := imm / 512 % 2
  decide (n = 0 ∧ meas = 0 ∨ 128 < n ∨ meas = 1 ∧ (n ≠ 0 ∨ fix ≠ 0))

/-- Every legality condition of an instruction, in no order. An autonomous step has no encoding and so none. -/
def checks : Instr → List Chk
  | .nop f => chkA f z z z z (mz f.md)
  | .br f => [ck 7 0 (f.g ≠ 0)]
  | .brc f => gA f.g
  | .brany f => gA f.g
  | .brall f => gA f.g
  | .brx f => chkA f z xs z z (mz f.md)
  | .jmpx f => chkA f z xs z z (mz f.md)
  | .call f => gA f.g
  | .ret f => chkA f z xs z z (mz f.md)
  | .rejoin f => z f.d 32 ++ z f.s1 24 ++ [ck 7 0 (f.g ≠ 0)]
  | .loop f => gA f.g
  | .exit f => chkA f z z z z (mz f.md)
  | .trap f => z f.d 32 ++ z f.s1 24 ++ gA f.g
  | .ipref f => chkA f z xs xs z (mo [0, 1, 2] f.md)
  | .elect f => chkA f pd z z z (mz f.md)
  | .yield f => chkA f z z z z (mz f.md)
  | .add f => chkA f xd xs xs z (mo [0] f.md)
  | .sub f => chkA f xd xs xs z (mo [0] f.md)
  | .mul f => chkA f xd xs xs z (mo [0] f.md)
  | .mulh f => chkA f xd xs xs z (mo [0, 1, 2] f.md)
  | .div f => chkA f xd xs xs z (mo [0, 1] f.md)
  | .rem f => chkA f xd xs xs z (mo [0, 1] f.md)
  | .and f => chkA f xd xs xs z (mo [0] f.md)
  | .or f => chkA f xd xs xs z (mo [0] f.md)
  | .xor f => chkA f xd xs xs z (mo [0] f.md)
  | .shl f => chkA f xd xs xs z (mo [0] f.md)
  | .shr f => chkA f xd xs xs z (mo [0] f.md)
  | .sar f => chkA f xd xs xs z (mo [0] f.md)
  | .min f => chkA f xd xs xs z (mo [0, 1] f.md)
  | .max f => chkA f xd xs xs z (mo [0, 1] f.md)
  | .bitc f => chkA f xd xs z z (mo [0, 1, 2] f.md)
  | .sel f => chkA f xd xs xs ps (mo [0] f.md)
  | .addi f => chkI f xd xs
  | .andi f => chkI f xd xs
  | .ori f => chkI f xd xs
  | .xori f => chkI f xd xs
  | .shi f => chkI f xd xs ++ [ck 7 11 (f.imm.toNat / 64 % 4 = 3), ck 7 13 (f.imm.toNat / 256 ≠ 0)]
  | .lim f _ => xd f.d 32 ++ z f.s1 24 ++ [ck 7 5 (f.imm ≠ 0)] ++ gA f.g
  | .mov f => chkA f xd xs z z (mo [0] f.md)
  | .movDomain f => chkA f xd dn z z (mo [1] f.md)
  | .lea f => chkA f xd xs xs im []
  | .cmp f => chkA f pd xs xs z []
  | .cmpi f => chkI f pd xs
  | .csrr f => chkI f xd z ++ (csrChks f.imm.toNat)
  | .csrw f => chkI f z xs ++ (csrChks f.imm.toNat ++ csrWriteChk f.imm.toNat)
  | .csrs f => chkI f xd xs ++ (csrChks f.imm.toNat ++ csrWriteChk f.imm.toNat)
  | .fmtset f => chkA f z xs z z (mo [0] f.md)
  | .fmtsetM f => chkA f z xs xs z (mo [1] f.md)
  | .dset f => chkA f dn xs z z (mz f.md)
  | .rdtime f => chkA f xd z z z (mz f.md)
  | .pand f => chkA f pd ps ps z (mo [0, 1] f.md)
  | .por f => chkA f pd ps ps z (mo [0, 1] f.md)
  | .pxor f => chkA f pd ps ps z (mo [0, 1] f.md)
  | .pnot f => chkA f pd ps z z (mo [0] f.md)
  | .pmov f => chkA f pd ps z z (mo [0] f.md)
  | .pcount f => chkA f xd ps z z (mz f.md)
  | .pfirst f => chkA f xd ps z z (mz f.md)
  | .vcmp f => chkA f pd vs vs z []
  | .vfcmp f => chkA f pd (vsT f.md) (vsT f.md) im (mo [0, 1, 2, 3, 4, 5] f.md) ++ [ck 7 11 (f.s3.toNat / 8 ≠ 0)]
  | .pset f => chkA f pd xs z z (mz f.md)
  | .pget f => chkA f xd ps z z (mz f.md)
  | .vadd f => chkA f vd vs vs z (mo [0, 1, 2] f.md)
  | .vsub f => chkA f vd vs vs z (mo [0, 1, 2] f.md)
  | .vmul f => chkA f vd vs vs z (mo [0, 1] f.md)
  | .vmulh f => chkA f vd vs vs z (mo [0, 1, 2] f.md)
  | .vmad f => chkA f vd vs vs vs (mo [0, 1] f.md)
  | .vand f => chkA f vd vs vs z (mo [0] f.md)
  | .vor f => chkA f vd vs vs z (mo [0] f.md)
  | .vxor f => chkA f vd vs vs z (mo [0] f.md)
  | .vshl f => chkA f vd vs vs z (mo [0] f.md)
  | .vshr f => chkA f vd vs vs z (mo [0] f.md)
  | .vsar f => chkA f vd vs vs z (mo [0] f.md)
  | .vmin f => chkA f vd vs vs z (mo [0, 1] f.md)
  | .vmax f => chkA f vd vs vs z (mo [0, 1] f.md)
  | .vabn f => chkA f vd vs z z (mo [0, 1, 2, 3] f.md)
  | .vsel f => chkA f vd vs vs ps (mo [0] f.md)
  | .vaddi f => chkI f vd vs
  | .fadd f => chkA f (vdT f.md) (vsT f.md) (vsT f.md) z (mo [0, 1, 2, 3] f.md)
  | .fsub f => chkA f (vdT f.md) (vsT f.md) (vsT f.md) z (mo [0, 1, 2, 3] f.md)
  | .fmul f => chkA f (vdT f.md) (vsT f.md) (vsT f.md) z (mo [0, 1, 2, 3] f.md)
  | .fma f => chkA f (vdT f.md) (vsT f.md) (vsT f.md) (vsT f.md) (mo [0, 1, 2, 3] f.md)
  | .fmin f => chkA f (vdT f.md) (vsT f.md) (vsT f.md) z (mo [0, 1, 2, 3] f.md)
  | .fmax f => chkA f (vdT f.md) (vsT f.md) (vsT f.md) z (mo [0, 1, 2, 3] f.md)
  | .fabn f => chkA f (vdT f.md) (vsT f.md) z im (mo [0, 1, 2, 3] f.md) ++ [ck 7 8 (f.s3.toNat % 4 = 3 ∨ f.s3.toNat / 4 ≠ 0)]
  | .fdiv f => chkA f (vdT f.md) (vsT f.md) (vsT f.md) z (mo [0, 1, 2, 3] f.md)
  | .fsqrt f => chkA f (vdT f.md) (vsT f.md) z z (mo [0, 1, 2, 3] f.md)
  | .fdot2 f => chkA f vd vs vs vs (mo [1, 2] f.md)
  | .fdot4 f => chkA f vd vs vs vs (mo [0, 1, 2, 3] f.md)
  | .vdot4 f => chkA f vd vs vs vs []
  | .fclass f => chkA f vd (vsT f.md) z z (mo [0, 1, 2, 3] f.md)
  | .frnd f => chkA f (vdT f.md) (vsT f.md) z z (mo [0, 1, 2, 3] f.md)
  | .cvt f => chkA f (cvtD f) (cvtS f) im im (mz f.md) ++ (cvtChks f)
  | .cvtsr f => chkA f (cvtD f) (cvtS f) im im (mz f.md) ++ (cvtChks f)
  | .vrcp f => chkA f vd vs z z (mo [0, 1, 2] f.md)
  | .vrsq f => chkA f vd vs z z (mo [0, 1, 2] f.md)
  | .vexp2 f => chkA f vd vs z z (mo [0, 1, 2] f.md)
  | .vlog2 f => chkA f vd vs z z (mo [0, 1, 2] f.md)
  | .vsin f => chkA f vd vs z z (mo [0, 1, 2] f.md)
  | .vcos f => chkA f vd vs z z (mo [0, 1, 2] f.md)
  | .vtanh f => chkA f vd vs z z (mo [0, 1, 2] f.md)
  | .vqnt f => chkA f vd vs vs vs (mo [0, 1, 2, 3, 4] f.md)
  | .vdeq f => chkA f vd vs vs vs (mo [0, 1, 2, 3, 4] f.md)
  | .vpack f => chkA f vd vs vs z (mo [0, 1, 2, 3, 4] f.md)
  | .vunpack f => chkA f vd vs z im (mo [0, 1, 2, 3, 4, 5] f.md) ++ [ck 7 8 (unpackCount f.md.toNat ≤ f.s3.toNat)]
  | .vmov f => chkA f (vdP (f.md = 1)) (vsP (f.md = 1)) z z (mo [0, 1] f.md)
  | .vbcast f => chkA f (vdP (f.md = 1)) xs z z (mo [0, 1, 2, 3] f.md)
  | .vext f => chkA f xd (vsP (f.md = 2)) xs z (mo [0, 1, 2] f.md)
  | .vins f => chkA f (vdP (f.md = 1)) xs xs z (mo [0, 1] f.md)
  | .vperm f => chkA f vd vs vs z (mo [0, 1] f.md)
  | .vshfl f => chkA f vd vs z im (mo [0, 1, 2, 3] f.md) ++ [ck 7 14 (f.s3.toNat / 64 ≠ 0)]
  | .vlane f => chkA f vd vs z im (mo [0, 1, 2, 3] f.md) ++ [if f.md = 3 then ck 7 10 (f.s3.toNat / 4 ≠ 0) else ck 7 8 (f.s3 ≠ 0)]
  | .vballot f => chkA f xd vs z z (mo [0, 1, 2] f.md)
  | .red f => chkA f xd vs z z []
  | .scan f => chkA f vd vs z im [] ++ [ck 7 9 (f.s3.toNat / 2 ≠ 0)]
  | .rrbset f => chkI f z z ++ [ck 7 11 (f.imm.toNat / 64 ≠ 0)]
  | .ld f => xd f.t 32 ++ xs f.b 24 ++ gA f.g ++ ldM f
  | .st f => xs f.t 32 ++ xs f.b 24 ++ gA f.g ++ stM f
  | .vld f => (vdP (f.wid = 5)) f.t 32 ++ xs f.b 24 ++ gA f.g ++ ldM f
  | .vst f => (vsP (f.wid = 5)) f.t 32 ++ xs f.b 24 ++ gA f.g ++ stM f
  | .vldg f => (vdP (f.wid = 5)) f.t 32 ++ vs2 f.b 24 ++ gA f.g ++ ldM f
  | .vstg f => (vsP (f.wid = 5)) f.t 32 ++ vs2 f.b 24 ++ gA f.g ++ stM f
  | .vlds f => (vdP (f.wid = 5)) f.t 32 ++ (xl 62) f.b 24 ++ gA f.g ++ ldM f
  | .vsts f => (vsP (f.wid = 5)) f.t 32 ++ (xl 62) f.b 24 ++ gA f.g ++ stM f
  | .spld f => (vdP (f.wid = 5)) f.t 32 ++ xs f.b 24 ++ gA f.g ++ spM f
  | .spst f => (vsP (f.wid = 5)) f.t 32 ++ xs f.b 24 ++ gA f.g ++ spM f
  | .dprf f => z f.t 32 ++ xs f.b 24 ++ gA f.g ++ [ck 3 13 (2 ≤ f.wid.toNat), ck 4 18 (f.scope ≠ 0), ck 10 16 (f.ord ≠ 0)]
  | .ldl f => (vdP (f.wid = 5)) f.t 32 ++ xs f.b 24 ++ gA f.g ++ spM f
  | .atom f => chkN f xd xs xs
  | .vatom f => chkN f (vdP (8 ≤ f.aop.toNat)) vs2 (vsP (8 ≤ f.aop.toNat))
  | .cas f => chkN f xd xs (xl 62) ++ [ck 7 4 (f.aop.toNat % 8 ≠ 0)]
  | .vcas f => chkN f (vdP (8 ≤ f.aop.toNat)) vs2 (fun b p => vsP (8 ≤ f.aop.toNat) b p ++ [rng (if 8 ≤ f.aop.toNat then 124 else 126) b p]) ++ [ck 7 4 (f.aop.toNat % 8 ≠ 0)]
  | .fence f => z f.t 32 ++ z f.b 24 ++ gA f.g ++ [ck 3 13 (f.wid ≠ 0), scopeM f, ck 10 16 (f.ord = 0), ck 7 21 (f.dom ≠ 0), ck 7 5 (f.off ≠ 0)]
  | .phase f => chkA f z z z sig (mz f.md)
  | .mfence f => chkI f z z ++ [ck 7 5 (f.imm.toNat % 16 = 0), ck 7 9 (f.imm.toNat / 16 ≠ 0)]
  | .mjoin f => chkA f z z z z (mz f.md)
  | .sstep f => chkI f z z ++ [ck 7 5 (256 < f.imm.toNat)]
  | .mwait f => (xl 62) f.t 32 ++ xs f.b 24 ++ gA f.g ++ [ck 3 13 (f.wid ≠ 4 ∧ f.wid ≠ 5), scopeM f, ck 10 16 (2 ≤ f.ord.toNat)]
  | .mzero f => chkA f tl z z sig (mz f.md)
  | .mmul f => chkA f tl (xl 61) (xl 61) sig [ck 2 5 (4 ≤ f.md.toNat)]
  | .mmull f => chkA f tl (xl 61) z sig [ck 2 5 (4 ≤ f.md.toNat)]
  | .mmulm f => chkA f tl z (xl 61) sig [ck 2 5 (4 ≤ f.md.toNat)]
  | .mplane f => chkA f z (xl 61) (xl 62) sig []
  | .mout f => chkA f tl xs z sig (mz f.md)
  | .mcfg f => chkI f im xs ++ [ck 7 35 (f.d.toNat / 8 ≠ 0)]
  | .tgive f => chkA f z tl xs z (mz f.md)
  | .ttake f => chkA f tl z z z (mz f.md)
  | .trow f => chkA f vd2 tl xs z (mz f.md)
  | .twrow f => chkA f tl xs vs2 z (mz f.md)
  | .spzero f => chkA f z xs xs z (mz f.md)
  | .qpush f => chkA f (qn [2]) xs z z (mz f.md)
  | .qpushv f => chkA f (qn [2]) vs2 z z (mz f.md)
  | .qpop f => chkA f xd (qn [1, 3, 7]) z z (mz f.md)
  | .qpopv f => chkA f vd2 (qn [1, 3, 7]) z z (mz f.md)
  | .qpeek f => chkA f xd (qn [1, 2, 3, 7]) z z (mz f.md)
  | .cpy f => chkA f z xs z z (mz f.md)
  | .cpyz f => chkA f z xs z z (mz f.md)
  | .wdq f => chkA f z xs z sig (mz f.md)
  | .launch f => chkA f xd xs z z []
  | .scall f => chkA f im (vl 120) vs2 sig []
  | .scallUp f => chkA f im (xl 60) z sig (mo [0] f.md)
  | .scallReply f => chkA f xd xs xs z (mo [1] f.md)
  | .scallLaunch f => chkA f xd xs dn xs (mo [2] f.md)
  | .fcall f => chkA f z z z z (mo [0] f.md)
  | .fcallDone f => chkA f z z z z (mo [1] f.md)
  | .bar f => chkA f z z z z (mz f.md)
  | .gbar f => chkI f z z ++ [ck 7 5 (256 < f.imm.toNat)]
  | .gred f => chkA f xd xs xs z []
  | .ident f => chkA f (identD f.md) z z z []
  | .lease f => chkI f z z ++ [ck 7 5 (leaseBad f.imm.toNat || f.imm.getLsbD 9), ck 7 15 (f.imm.toNat / 1024 ≠ 0)]
  | .leaseMeas f => chkI f z z ++ [ck 7 5 (leaseBad f.imm.toNat || !f.imm.getLsbD 9), ck 7 15 (f.imm.toNat / 1024 ≠ 0)]
  | .tleft f => chkA f z xs z z (mz f.md)
  | .clkreq f => chkA f z xs xs z (mo [0] f.md)
  | .clkreqArm f => chkA f z z z z (mo [1] f.md)
  | .sleep f => chkI f z z ++ [ck 7 5 (f.imm.toNat = 0 ∨ 2 ^ 18 ≤ f.imm.toNat)]
  | .eret f => chkA f z z z z (mo [0] f.md)
  | .eretSkip f => chkA f z z z z (mo [1] f.md)
  | .mapfp f => chkA f xd xs dn z (mz f.md)
  | .tlbinvAll f => chkA f z z z z (mo [0] f.md)
  | .tlbinvSpace f => chkA f z z dn z (mo [1] f.md)
  | .tlbinvPage f => chkA f z xs dn z (mo [2] f.md)
  | .tlbinvS2all f => chkA f z z z z (mo [3] f.md)
  | .tlbinvS2page f => chkA f z xs z z (mo [4] f.md)
  | .icinvMod f => chkA f z xs z z (mo [0] f.md)
  | .icinvRange f => chkA f z xs xs xs (mo [1] f.md)
  | .modreg f => chkA f xd xs dn z (mz f.md)
  | .modrel f => chkA f xd xs z z (mo [0] f.md)
  | .modrelNb f => chkA f xd xs z z (mo [1] f.md)
  | .frscrub f => chkA f z xs xs z (mo [0, 1] f.md)
  | .fotset f => chkA f z xs xs z (mo [0, 1] f.md)
  | .wmset f => chkA f z xs xs z (mz f.md)
  | .vfsave f => chkA f xd xs xs z (mz f.md)
  | .vfrest f => chkA f xd xs xs z (mz f.md)
  | .ctxsave f => chkA f xd xs z z (mo [0] f.md)
  | .ctxsaveKill f => chkA f xd xs z z (mo [1] f.md)
  | .ctxrest f => chkA f xd xs z z (mo [0] f.md)
  | .rdraw f => chkA f z xs z sig []
  | .pxout f => chkA f z (vl 124) (if f.md.toNat % 2 = 1 then vs else z) z [ck 7 6 (f.md.toNat / 2 ≠ 0)]
  | .tsample f => chkA f (vdl 124) (vl 126) xs z (mz f.md)
  | .tfetch f => chkA f (vdl 124) (vl 126) xs z (mz f.md)
  | .rtrace f => chkA f z (vl 120) (xl 62) sig []
  | .rhit f => chkA f (vdl 124) z z z (mz f.md)
  | .disc f => chkA f z z z z (mz f.md)
  | .attr f => chkA f vd z z im (mo [0, 1, 2] f.md) ++ [ck 7 12 (f.s3.toNat / 16 ≠ 0)]
  | .engineWordStart => []
  | .line => []
  | .box => []
  | .fill => []
  | .zpack => []
  | .zunpack => []
  | .copyCommandComplete => []
  | .engineCommandFault => []
  | .matrixChunkStart => []
  | .matrixCommandComplete => []
  | .freezeResume => []
  | .freezeConversion => []
  | .rayBatchComplete => []
  | .wdqService => []
  | .wdqAnswer => []
  | .markerArrival => []
  | .longLatencyWriteComplete => []
  | .fetchBlockArrival => []
  | .launchValidation => []
  | .teamPlacement => []
  | .teamStart => []
  | .neighbourBalancing => []
  | .teamRetirement => []
  | .launchCompletion => []
  | .moduleVerificationComplete => []
  | .moduleReleaseComplete => []
  | .phaseBoundaryStart => []
  | .phaseBoundaryComplete => []
  | .barrierRelease => []
  | .pisteArrivalForward => []
  | .groupRelease => []
  | .groupReleaseMessage => []
  | .barrierRefresh => []
  | .refusionMismatch => []
  | .lineEviction => []
  | .writebackArrival => []
  | .writebackAck => []
  | .loadRequestArrival => []
  | .atomicAtHome => []
  | .loamRefreshWindowStart => []
  | .loamRefreshWindowEnd => []
  | .pageWalkStart => []
  | .pageWalkComplete => []
  | .haltBroadcast => []
  | .handlerEntry => []
  | .asyncFaultDelivery => []
  | .handlerWatchdogExpiry => []
  | .blockedTeamEligible => []
  | .preemptionDecision => []
  | .drainWindowEnd => []
  | .restore => []
  | .measuringIntervalEnd => []
  | .warpRotation => []
  | .pathBoost => []
  | .greedyLimit => []
  | .powerForcedIssue => []
  | .slewWindowEnd => []
  | .droopTrip => []
  | .quantRestore => []
  | .sleepEnd => []
  | .arbiterRun => []
  | .clusterIdleRelease => []
  | .grantApply => []
  | .quiescenceTimeout => []
  | .railSettled => []
  | .relockComplete => []
  | .railLower => []
  | .mwaitWake => []
  | .mwaitPoll => []
  | .rasterBatchAccept => []
  | .splitFrameForward => []
  | .mergerPerform => []
  | .drawBatchComplete => []
  | .scallBatchComplete => []
  | .regulatorTick => []
  | .verticalBlank => []
  | .dhbaseWrite => []
  | .dhselClr => []
  | .scselClr => []
  | .rferrClear => []
  | .sperrClear => []
  | .l1errClear => []
  | .srseedWrite => []
  | .hmodWrite => []
  | .gkindWrite => []
  | .partitionCreate => []
  | .partitionDestroy => []
  | .vfqEnable => []
  | .vfqRunSet => []
  | .vfqRunClear => []
  | .skclkWrite => []
  | .registerWrite => []
  | .doorbell => []
  | .pcieInboundRequest => []
  | .flefinInboundRequest => []
  | .flefinResponse => []
  | .flefinTimeout => []
  | .flefinPortFailure => []
  | .ucieRetryFailure => []
  | .standbyWake => []
  | .powerOnReset => []
  | .temperatureReading => []
  | .thermalTrip => []
  | .scanOutLine => []
  | .droopWithholdEnd => []
  | .standbyEntry => []
  | .flefinPortTraining => []
  | .frscrubComplete => []
  | .icinvComplete => []

/-- The lower of two broken conditions: lowest reason, then lowest bit (R41). -/
def lowerChk (a b : Nat × Nat) : Nat × Nat :=
  if a.1 < b.1 then a else if b.1 < a.1 then b else if a.2 ≤ b.2 then a else b

/-- The condition that a list of checks reports (R41), none where all hold. -/
def reportOf : List Chk → Option (Nat × Nat)
  | [] => none
  | c :: l =>
    if c.broken then
      match reportOf l with
      | none => some (c.reason, c.pos)
      | some r => some (lowerChk (c.reason, c.pos) r)
    else reportOf l

/-- The reason and bit position under which an instruction's word is illegal (R41), none for a legal one. -/
def legality (i : Instr) : Option (Nat × Nat) := reportOf (checks i)

end Sys2Proof.Machine
end

