-- ==== Sys2Proof/Config.lean ====
section
/-!
DEFINITION. What the spec leaves open as a value: constants without a body, so that nothing can be proved about the
value itself (log 5). Each is applied to what the value may depend on, or to the counter `State.free`.
-/

namespace Sys2Proof.Config

/-- A byte that the part does not determine: what a PCIe host or a Flefin peer answers (R392, R395). -/
opaque freeByte : Nat → Byte

/-- An inexact special-function result before the bounds of R167 are applied: the function's OP, the type of R155 and
the element's bits. R167: a fixed function of the input bits. -/
opaque sfu : Nat → Nat → Nat → Nat

/-- The random bits of a key (R383); only whether a key is drawn shows in the model. -/
opaque freeKey : Nat → Word

/-- The order of the lanes of a call batch in its ring (R398: unspecified): a number that picks the next lane. -/
opaque laneChoice : Nat → Nat

/-- SHA-384 (R403, R406). The spec names the function and does not define it. -/
opaque sha384 : List Byte → List Byte

/-- HMAC-SHA-384 of a message under a key (R406). -/
opaque hmac384 : List Byte → List Byte → List Byte

/-- ECDSA P-384 verification of a signature over a digest under a key (R403). -/
opaque ecdsaOk : List Byte → List Byte → List Byte → Bool

/-- LMS verification of a signature over a message under a key (R403). -/
opaque lmsOk : List Byte → List Byte → List Byte → Bool

/-- CDI0 of the part: HMAC-SHA-384 of the fused UDS, which only the boot ROM reads (R406). -/
opaque cdi0 : List Byte

/-- Whether LPDDR trains on every channel, and whether the fuses lock (R404, R405). -/
opaque lpddrTrains : Nat → Bool
opaque fusesLock : Nat → Bool

/-- How many fragment outputs a merger holds beside those of the oldest team (R364). -/
opaque mergerRoom : Nat

/-- A lane value that the spec leaves open: an interpolation that divides by zero (R360). -/
opaque freeLane : Nat → Lane

/-- An information word that the spec does not give (R362). -/
opaque freeWord : Nat → Word

/-- The pair and the cluster whose registers a service core reaches: CSRs "per pair" and "per cluster" that a service
core, which is in none, may name (R103, R224, R294). -/
opaque svcPair : Nat → Nat
opaque svcCluster : Nat → Nat

end Sys2Proof.Config
end

