-- ==== Sys2Proof/Machine/State.lean ====
section
/-!
DEFINITION. Every piece of state the spec gives the part, as plain data, and the state right after reset. Sparse tables
have natural keys and a default, in the canonical form of `swf`; the default of a table of records is the record `{}`.
-/

namespace Sys2Proof.Machine

/-- Why the model stops. -/
inductive Fault where
  /-- The package has no power (R409): nothing executes. Raised by `step`; safe, since no rule gives an effect. -/
  | noPower
  deriving DecidableEq, Repr

/-- Why the model refuses an instruction. -/
inductive Refusal where
  /-- The instruction has no meaning in the model. Raised by an arm of `exec` only; safe. -/
  | notModelled (mnemonic : String)
  deriving DecidableEq, Repr

/-- The privilege levels (R9). -/
inductive Level where
  | user | supervisor | hypervisor | root
  deriving DecidableEq, Repr

/-- The rank of a level: a higher level may do what a lower one may. -/
def Level.rank : Level → Nat
  | .user => 0 | .supervisor => 1 | .hypervisor => 2 | .root => 3

/-- The stall causes of R292 that an issue attempt can end in. Cause 12 is two here: `queue` for a queue access, which R86
counts, and `token` for a tile token, `mjoin`, a call or the merger. -/
inductive Cause where
  | issue | parked | waiting | irdr | iblk | il2 | il3 | imem | gap | waitf | fe | flfull | queue | token | phase | mem | unit
  | power | arb
  deriving DecidableEq, Repr

/-- The counter number of a cause (R292). -/
def Cause.num : Cause → Nat
  | .issue => 0 | .parked => 1 | .waiting => 2 | .irdr => 3 | .iblk => 4 | .il2 => 5 | .il3 => 6 | .imem => 7
  | .gap => 8 | .waitf => 9 | .fe => 10 | .flfull => 11 | .queue => 12 | .token => 12 | .phase => 13 | .mem => 14 | .unit => 15
  | .power => 16 | .arb => 17

/-- A result on its way to a place of its warp (R95). Lane values are listed with their lane. -/
inductive Write where
  | x (n : Nat) (v : Word)
  | v (phys : Nat) (l : List (Nat × Lane))
  /-- Lanes of which only the granules `gr` are replaced whole (R174). -/
  | vn (phys gr : Nat) (l : List (Nat × Lane))
  | p (phys : Nat) (lanes val : Mask)
  | d (n : Nat) (v : BitVec 16)
  | fflags (v : Nat)
  | fmt (path : Nat) (v : Lane)
  | rrb (path n : Nat)
  | lc (n : Nat)
  | ec (n : Nat)
  | mp (n : Nat) (v : Word)
  | csr (n unit : Nat) (v : Word)
  deriving DecidableEq, Repr

/-- A fixed-latency result that lands at the start of vc `due`; results landing together land in order of issue, and
those of one vc in the order of R72. -/
structure Landing where
  due : Nat
  issued : Nat
  lane : Nat
  w : Write
  deriving DecidableEq, Repr

/-- A reconvergence-stack entry (R74). `id` names it to the paths that it created. -/
structure Entry where
  id : Nat
  tmask : Mask
  nmask : Mask
  fmt : Lane
  rrb : Nat
  token : Nat
  hnd : Bool := false
  arrived : Mask := 0
  parent : Option Nat := none
  deriving DecidableEq, Repr

/-- What a fetch-buffer block holds: its 64 bytes, a fault found while fetching it with its record (R325), or nothing
yet, the level that will supply it (1 L2I, 2 L3I, 3 memory), the vc before which it does not arrive, and whether the path
came to it in sequence. -/
inductive Block where
  | ready (bytes : List Byte)
  | faulted (cause : Nat) (info flinfo : Word)
  | pending (level due : Nat) (seq : Bool)
  deriving DecidableEq, Repr

/-- What an `mwait` waits for (R275): the word at a device-physical address, `w` bytes wide, in a page that may have the compression
attribute; condition and value; acquire, and whether the read is at the home; the reference time of the next poll where no monitor is held; the
operation that reads it at a link peer; and whether a store of the core wrote the line since it was read in the L1. -/
structure MWait where
  pa : Nat
  cmp : Bool := false
  w : Nat
  cond : Nat
  val : Word
  acq : Bool := false
  home : Bool := false
  poll : Option Nat := none
  op : Option Nat := none
  wrote : Bool := false
  deriving DecidableEq, Repr

/-- What an issuing path waits for after its instruction has taken effect in part. -/
inductive Wait where
  | none
  /-- At a re-fusion point whose word has this body (R75). -/
  | point (body : Nat)
  /-- At a `rejoin` that its entry does not yet satisfy (R75). -/
  | rejoin (token : Nat)
  /-- In `sleep` until this vc (R85). -/
  | sleep (until_ : Nat)
  /-- In `mwait` (R275). -/
  | mwait (m : MWait)
  /-- For release and acquire steps (R266, R267): write-backs still unacknowledged, and whether an acquire follows. -/
  | order (wbs : List Nat) (acquire pciOut : Bool)
  /-- For an operation numbered `id` that an autonomous step ends, charged to `c`. -/
  | op (id : Nat) (c : Cause)
  /-- For these call batches of the warp (R400). -/
  | calls (ids : List Nat)
  deriving DecidableEq, Repr

/-- Where a long-latency producer writes: a scalar, a vector or a pair, or nothing (x0, R89). -/
inductive Dest where
  | none
  | x (n : Nat)
  | v (phys : List Nat)
  deriving DecidableEq, Repr

/-- A path of a warp (R63). `cbase` and `csize` are the module's virtual code base and size in bytes, cached when the
path started; `replay` holds the offset, the faulted lanes and the still-empty destination of a vector load that R326
replays. -/
structure Path where
  id : Nat
  mask : Mask
  module : Nat := 0
  space : BitVec 16 := 0
  cbase : Word := 0
  csize : Nat := 0
  pc : Word := 0
  fmt : Lane := 0x00707000
  rrb : Nat := 0
  level : Level := .user
  entry : Option Nat := none
  buf : List (Nat × Block) := []
  lastIssue : Option Nat := none
  ready : Nat := 0
  wait : Wait := .none
  cand : Nat := 0
  boosted : Bool := false
  powerHeld : Nat := 0
  /-- In the vc under way the cluster's allowance did not admit it (R293). -/
  short : Bool := false
  forced : Bool := false
  yielded : Option Nat := none
  handler : Bool := false
  skid : Nat := 0
  last : Cause := .waiting
  /-- The vc that ended was charged to a WAIT field or a queue (R86). -/
  held : Bool := false
  replay : Option (Word × Mask × Dest) := none
  deriving DecidableEq, Repr

/-- One lane of a pending load: its virtual offset, device-physical address, whether its page is compressed, the bytes
it has (none while a byte is on its way), and whether one of them comes from a poisoned block (R243). -/
structure LaneLoad where
  lane : Nat
  off : Word
  pa : Nat
  cmp : Bool := false
  got : List (Option Byte)
  bad : Bool := false
  /-- Issued again: its offset is still to be translated, or the translation ended in a fault, its KIND and record (R325). -/
  todo : Bool := false
  flt : Option (Nat × Word) := none
  deriving DecidableEq, Repr

/-- What a pending long-latency producer still needs. -/
inductive Pending where
  /-- Nothing: these are its results and the flags it raises (R91, R145). -/
  | done (ws : List Write) (flags : Nat)
  /-- The bytes of its lanes (R234), `wid` wide; `acq` performs R267 step 2 at completion. -/
  | load (wid : Nat) (lanes : List LaneLoad) (acq : Bool)
  /-- Loam bytes (R194), `wid` wide: each lane's Loam address, and the reference time at which refresh lets them go. -/
  | loam (wid : Nat) (lanes : List (Nat × Nat)) (due : Nat)
  /-- Scratchpad bytes, `wid` wide, of a `spld` issued again (R427): each lane's physical address and the team's base. -/
  | spad (wid base : Nat) (lanes : List (Nat × Nat))
  /-- A turn of the tile order (R203), for this row: pair x 512 + tile x 64 + row. -/
  | tile (row : Nat)
  /-- An atomic on its way to its home (R240). -/
  | atomic
  /-- Texture reads (R368): the descriptor words, the texels each lane reads, one or four, and its two fractions. -/
  | tex (words : List Word) (taps : List LaneLoad) (frac : List (Nat × Nat × Nat))
  /-- Data that failed its check (R427): the results of the good lanes, the failed lanes, the information word, and what
  the failed lanes do when the producer is issued again. -/
  | bad (ws : List Write) (lanes : Mask) (info : Word) (again : Pending)
  deriving DecidableEq, Repr

/-- A long-latency producer of a core (R91). `word`, `pc` and `path` name the instruction, `space` and `level` its accesses,
for R427 and R344. -/
structure LongOp where
  id : Nat
  slot : Nat
  path : Nat
  issued : Nat
  /-- The vc by which its last request leaves later than it issued (R179, R232). -/
  late : Nat := 0
  pc : Word
  word : Word
  mask : Mask
  lanes : Mask
  dest : Dest
  kind : Pending
  space : Nat := 0
  level : Level := .user
  deriving DecidableEq, Repr

/-- What a halted warp keeps for the handler (R331 to R336). -/
structure Halt where
  cause : Nat
  async : Bool
  info : Word
  pc : Word
  path : Nat
  lanes : Mask
  seq : Nat := 0
  /-- The trapping instruction and its size in words. -/
  insn : Word := 0
  size : Nat := 1
  /-- The producer of a fault found at data arrival (R427), with its failed lanes. -/
  producer : Option LongOp := none
  deriving DecidableEq, Repr

/-- A handler that runs in a warp (R333): the cause it was entered for, the stack depth below its base entry, the
interrupted path, the value of `hpc` that the device saved, the vc at which its watchdog expires (R337), and whether lanes of
the handler have exited, which may complete a re-fusion of its own in the next vc (R75). -/
structure Handler where
  halt : Halt
  depth : Nat
  hpc : Word
  due : Nat
  settles : Bool := false
  deriving DecidableEq, Repr

/-- A warp slot (R63, R88). A compute core has 32, a service core one, which holds its thread (R50). `xe` and `ve` are
the empty bits. Names follow the rule that names the state. -/
structure Warp where
  live : Bool := false
  handle : Nat := 0
  team : Nat := 0
  widx : Nat := 0
  x : SMap Word := []
  v : SMap Lane := []
  p : SMap Mask := []
  xe : Mask := 0
  ve : BitVec 128 := 0
  d : SMap (BitVec 16) := []
  f : SMap Nat := []
  fprev : SMap Nat := []
  fflags : Nat := 0
  lc : Nat := 0
  ec : Nat := 0
  srseed : Nat := 1
  sr : SMap Lane := []
  vpoison : SMap Bool := []
  /-- Granules that hold a single-bit error, which a read corrects and counts in `rfcor` (R173, R175). Only the world outside makes one. -/
  vsingle : SMap Bool := []
  stack : List Entry := []
  nextEntry : Nat := 0
  paths : List Path := []
  nextPath : Nat := 1
  land : List Landing := []
  holdUntil : Nat := 0
  rank : Int := 0
  /-- Lease state (R279 to R287). -/
  units : Nat := 8
  decl : Bool := false
  fix : Bool := false
  loss : Nat := 0
  rot : Nat := 0
  victims : List Nat := []
  sampled : List Nat := []
  measSkip : Bool := false
  measPart : Bool := false
  parked : Nat := 0
  admitted : Bool := true
  /-- Let in by barrier priority, which it keeps until it stands or what gave it is over (R285). -/
  bprio : Bool := false
  /-- The CSR `lease` as the paths of the vc under way find it, before any issue of it (R72, R287). -/
  lease0 : Word := 0x408
  /-- Ratio events (R302, R305). -/
  evt : Bool := false
  ecnt : Nat := 0
  arms : Nat := 0
  /-- Handler state (R325, R335). -/
  fcause : Nat := 0
  fasync : Bool := false
  fcount : Nat := 0
  hcause : Word := 0
  hinfo : Word := 0
  hpc : Word := 0
  hmask : Mask := 0
  hseq : Nat := 0
  flsel : Nat := 0
  fladdr : SMap Word := []
  flinfo : SMap Word := []
  flmask : Mask := 0
  halt : Option Halt := none
  handler : Option Handler := none
  stopped : Bool := false
  /-- A save has stopped its handler path too (R349). -/
  paused : Bool := false
  skidUntil : Option Nat := none
  stsel : Nat := 0
  stalls : SMap Nat := []
  /-- The vc in which its last access in the lane-access queue is performed; until then it waits for a bank (R179). -/
  spWait : Nat := 0
  mp : SMap Word := []
  mflags : Nat := 0
  markers : SMap Nat := []
  epoch : Nat := 0
  /-- A path of the warp has issued in the vc under way (R292). -/
  issuedNow : Bool := false
  /-- The warp was resident when the paths of the vc under way were listed: the vc is charged to it (R292). -/
  counted : Bool := false
  /-- Lanes have exited, or a `phase` found its flag full: a re-fusion is tried in the next vc (R75, R97). -/
  settles : Bool := false
  /-- The group that the warp's last `gbar`, `gred` or `sstep` named. -/
  grp : Option Nat := none
  deriving DecidableEq, Repr

/-- A line of a core's L1 data cache (R225, R229): the device-physical line number, its byte-valid and dirty masks, its
bytes by offset, the warp slot that filled it, its last use, and the poisoned 64-byte blocks (R243). -/
structure L1Line where
  line : Nat
  valid : BitVec 128 := 0
  dirty : BitVec 128 := 0
  data : SMap Byte := []
  slot : Nat := 0
  used : Nat := 0
  bad : BitVec 2 := 0
  cmp : Bool := false
  /-- 8-byte words with an uncorrectable error, and with a single-bit one (R229, R182). -/
  werr : BitVec 16 := 0
  wsingle : BitVec 16 := 0
  deriving DecidableEq, Repr

/-- A write-back in flight (R258): `arrived` once it is performed at its home. `sent` is the vc at which it leaves the core. -/
structure Writeback where
  id : Nat
  sent : Nat := 0
  line : Nat
  dirty : BitVec 128
  valid : BitVec 128
  data : SMap Byte
  bad : BitVec 2
  werr : BitVec 16 := 0
  cmp : Bool := false
  arrived : Bool := false
  /-- Write-backs whose acknowledgement it waits for (R266 step 3), and whether an L1 copy of its line is updated. -/
  after : List Nat := []
  through : Bool := false
  deriving DecidableEq, Repr

/-- A prefetch of a line into the L1 on its way (R237), with the warp slot that made it. -/
structure LineReq where
  line : Nat
  slot : Nat
  cmp : Bool := false
  deriving DecidableEq, Repr

/-- A cached final translation (R314): the smaller of the two leaf pages, the intersected permissions, CMP, the GPA pages its
stage-2 part used, each as its number and size, and whether a stream has touched the page. -/
structure TlbEntry where
  vf : Nat
  part : Nat
  space : Nat
  page : Nat
  log2 : Nat
  dpa : Nat
  r : Bool
  w : Bool
  x : Bool
  u : Bool
  cmp : Bool
  gpas : List (Nat × Nat) := []
  touched : Bool := false
  deriving DecidableEq, Repr

/-- A page walk queued or in flight (R315). `held` marks one that waits for a hypervisor (R324); `spoiled` one whose
result a `tlbinv` must drop (R316). -/
structure Walk where
  id : Nat
  vf : Nat
  part : Nat
  space : Nat
  off : Word
  acc : Nat
  level : Level
  core : Nat
  started : Bool := false
  held : Option Nat := none
  spoiled : Bool := false
  /-- A prefetch for the stream TLB of this engine of the core (R314). -/
  pre : Option Nat := none
  deriving DecidableEq, Repr

/-- A walk that ended in a stage-1 fault, kept for the core that asked until its next attempt: KIND and LEVEL (R325). -/
structure WalkFault where
  vf : Nat
  space : Nat
  off : Word
  acc : Nat
  user : Bool
  kind : Nat
  lvl : Nat
  deriving DecidableEq, Repr

/-- A cause that an engine command met, until it is delivered (R330, R332): the command's number and warp, the cause, its
information word and the record for `flmask`. -/
structure AsyncFault where
  seq : Nat
  widx : Nat
  cause : Nat
  info : Word
  off : Word := 0
  flinfo : Word := 0
  deriving DecidableEq, Repr

/-- A matrix command's captured parameters (R206 to R219): its kind (0 mzero, 1 mmul, 2 mmull, 3 mmulm, 4 mplane,
5 mout), tile, MOD, the register words of its operands, `fmt` and mp0 to mp7 as captured at issue, and the space of the
A stream. -/
structure MatCmd where
  kind : Nat
  tile : Nat
  md : Nat
  a : List Word
  b : List Word
  fmt : Lane
  mp : List Word
  space : Nat := 0
  twin : Bool := false
  deriving DecidableEq, Repr

/-- A ray batch (R373): the lanes with the eight words of their ray, the root node and the flags. -/
structure RayCmd where
  lanes : List (Nat × List Lane)
  root : Word
  flags : Nat
  space : Nat
  deriving DecidableEq, Repr

/-- What an engine command does. -/
inductive Payload where
  /-- A copy command: its header and the argument words pushed so far, and d0 to d7 as the header's push read them (R250). -/
  | copy (words : List Word) (doms : List Nat)
  /-- A distributor query for the record at this team-relative address (R69). -/
  | query (addr : Nat)
  | ray (c : RayCmd)
  | matrix (c : MatCmd)
  deriving DecidableEq, Repr

/-- Where an engine command stands. -/
inductive CmdStage where
  /-- Its arguments are still being pushed (R248). -/
  | partly
  | queued
  /-- Waiting for the fork write-back (R270), with the write-backs still unacknowledged. -/
  | fork (wbs : List Nat)
  | running
  /-- Every repetition performed; completion is due. -/
  | finished
  | done
  deriving DecidableEq, Repr

/-- An engine command with its journal entry (R339). ENG is 0 matrix, 1 copy, 2 ray, 3 distributor. -/
structure Cmd where
  seq : Nat
  /-- When it was pushed, in reference time. -/
  at_ : Nat := 0
  eng : Nat
  slot : Nat
  handle : Nat
  team : Nat
  widx : Nat
  sig : Nat := 15
  wait : Nat := 0
  once : Bool := false
  pay : Payload
  stage : CmdStage := .queued
  started : Bool := false
  abnd : Bool := false
  mark : Bool := false
  comm : Bool := false
  rec_ : Bool := false
  rep : Nat := 0
  status : Nat := 0
  chunk : Nat := 0
  out : Nat := 0
  srcPos : Nat := 0
  dstPos : Nat := 0
  fault : Option AsyncFault := none
  pc : Word := 0
  level : Level := .user
  /-- A served query: when its answer may be written, in reference time. -/
  due : Nat := 0
  /-- A repetition of a copy whose Loam reads met a refresh window, and the reference time from which they go (R193). -/
  gate : Option (Nat × Nat) := none
  /-- The write-backs that an `mmulm` stream waits for before its first word (R270). -/
  fork : List Nat := []
  readDone : Bool := false
  deriving DecidableEq, Repr

/-- A marker in an engine queue (R271): the pushing warp's slot, the queue bit, and the commands that must have read their
sources. -/
structure Marker where
  slot : Nat
  queue : Nat
  covers : List Nat
  arrived : Bool := false
  deriving DecidableEq, Repr

/-- A record in a pop queue (R100): the queue, the warp slot that may pop it and the word. -/
structure PopRec where
  queue : Nat
  slot : Nat
  word : Word
  deriving DecidableEq, Repr

/-- A completed hit batch of q5 (R372, R374). -/
structure HitBatch where
  seq : Nat
  slot : Nat
  hits : List (Nat × List Lane)
  deriving DecidableEq, Repr

/-- What a request for a phase boundary came from (R260). -/
inductive Boundary where
  /-- A `phase`: the warp's slot, launch and team, its flag, and the operation that the path waits for. -/
  | phase (slot handle team sig op : Nat)
  | bar (handle team : Nat)
  | group (handle group : Nat)
  | retire (handle team : Nat)
  /-- The boundary of a checkpoint (R344 step 4). -/
  | save (handle team : Nat)
  deriving DecidableEq, Repr

/-- The phase boundary of a core (R260, R262): its requests, and its progress. -/
inductive BoundaryStage where
  | idle
  /-- Waiting for the L1 accesses issued before it. -/
  | drain
  /-- Writing back: unacknowledged write-backs. -/
  | writeback (wbs : List Nat)
  /-- Written back; waiting for the other member cores of a group (R263). -/
  | refresh
  deriving DecidableEq, Repr

/-- A lane of an atomic: its address, whether its page is compressed, its operand (for a compare-and-swap the compare
value), and the new value of a compare-and-swap. -/
structure AtomLane where
  lane : Nat
  pa : Nat
  cmp : Bool
  a : Word
  b : Word
  deriving DecidableEq, Repr

/-- An atomic on its way to its home (R240): its operation, 64-bit or 32-bit, and the write-backs that it waits for. -/
structure HomeAtomic where
  id : Nat
  slot : Nat
  path : Nat
  lanes : List AtomLane
  aop : Nat
  wide : Bool
  cas : Bool
  dest : Dest
  wbs : List Nat
  acq : Bool
  deriving DecidableEq, Repr

/-- A core: 0 to 255 are the compute cores (128 x die + number, R3), 256 to 279 the service cores (R379). `at_` is the
reference time of its next vc or kc edge, in units of `refUnit`. -/
structure Core where
  at_ : Nat := 0
  vc : Nat := 0
  warps : SMap Warp := []
  spad : SMap Byte := []
  spoison : SMap Bool := []
  /-- Words that hold a single-bit error, which a read corrects and counts in `rfcor` (R182). Only the world outside makes one. -/
  ssingle : SMap Bool := []
  /-- The lane-access queue (R179): the last vc that it uses so far, and the banks taken in it. -/
  laneQ : Nat × Nat := (0, 0)
  /-- The half vc from which the coalescer is free (R232). -/
  coal : Nat := 0
  l1 : List L1Line := []
  clock : Nat := 0
  reqs : List LineReq := []
  wbs : List Writeback := []
  nextId : Nat := 0
  longs : List LongOp := []
  atomics : List HomeAtomic := []
  bstage : BoundaryStage := .idle
  /-- The vc in which the running boundary began; a request made in it is served by it. -/
  bat : Nat := 0
  bserve : List Boundary := []
  bnext : List Boundary := []
  tlb : List TlbEntry := []
  streams : List (Nat × TlbEntry) := []
  wfaults : List WalkFault := []
  l1i : List (Nat × Nat × Block) := []
  /-- By pipe: the first vc in which the L1I may deliver another block (R25). -/
  delivers : SMap Nat := []
  cmds : List Cmd := []
  nextSeq : Nat := 0
  markers : List Marker := []
  pops : List PopRec := []
  hits : List HitBatch := []
  /-- Units busy until a vc: 0 divider, 1 tree, 2 and 3 SFU of pipes 0 and 1, 4 and 5 divide unit (R96, R149). -/
  busy : SMap Nat := []
  /-- Slices held by type-d work: 16 x pipe + slice, until a vc, by slot x 2^32 + path (R96). -/
  slices : SMap (Nat × Nat) := []
  /-- By pipe: the path that took decoder 0 (slot x 2^32 + path), in how many consecutive vc, and the last of them. -/
  greedy : SMap (Nat × Nat × Nat) := []
  rankTop : Int := 0
  budget : Nat := 115
  /-- The vc at which the running measuring interval ends (R280). -/
  measAt : Nat := 8192
  rferr : Word := 0
  rfcor : Nat := 0
  sperr : Word := 0
  l1err : Word := 0
  stlHits : Nat := 0
  stlWait : Nat := 0
  /-- Service cores: VF view, dispatch level, image code base and size, and whether the thread runs (R379, R407). -/
  svcLevel : Level := .hypervisor
  svcBusy : Option Nat := none
  /-- Operations that a path of the core waits for until an autonomous step ends them: number, kind (1 `frscrub` of
  memory, 2 of the Loam store, 3 `icinv`, 4 and more an operation that answers in a register) and the frame or register. -/
  ops : List (Nat × Nat × Nat) := []
  deriving DecidableEq, Repr

/-- Who holds a tile token (R202): nobody, or a warp of the leader twin (`half` 0) or the follower (`half` 1). -/
inductive Token where
  | free
  | held (half widx : Nat)
  deriving DecidableEq, Repr

/-- An access waiting in the tile order of a pair (R203). -/
inductive TileOp where
  | cmd (seq : Nat)
  | trow (core long_ row : Nat)
  | twrow (half row : Nat) (l : List (Nat × Lane × Lane))
  deriving DecidableEq, Repr

/-- A matrix command that a pair runs (R198, R199): the chunk in compute, the mc after its last (for a command whose
chunks have computed, the mc of its completion), the mc that a chunk computes and the eu that each debits (R293), and for a product the flags and the accumulators so far, as tile
elements by half x 8192 + row x 128 + column. -/
structure MatRun where
  seq : Nat
  chunk : Nat := 0
  endsAt : Nat := 0
  len : Nat := 0
  eu : Nat := 0
  flags : Nat := 0
  meta_ : Bool := false
  acc : SMap Lane := []
  deriving DecidableEq, Repr

/-- A freeze of a pair (R222): since when, and the miss it services. -/
structure Freeze where
  since : Nat
  seq : Nat
  loam : Bool
  off : Word
  /-- Why the service failed: the cause and the record for `flmask` (R325). -/
  failed : Option (Nat × Word) := none
  deriving DecidableEq, Repr

/-- A matrix pair (R195). Tile elements are keyed by half x 65536 + tile x 8192 + row x 128 + column. -/
structure Pair where
  twins : Option (Nat × Nat) := none
  /-- The commands in q0 with the mc before which they cannot start. -/
  q0 : List (Nat × Nat) := []
  run : Option MatRun := none
  /-- Commands whose last chunk has computed, with the mc of their completion. -/
  fin : List MatRun := []
  tiles : SMap Lane := []
  tpoison : SMap Bool := []
  tokens : SMap Token := []
  /-- Who waits for a token: tile, half, warp, and what orders the waiters (R205). -/
  waiters : List (Nat × Nat × Nat × Nat) := []
  /-- The accesses not yet performed, with their tiles, in tile order (R203). -/
  order : List (Nat × TileOp) := []
  /-- Operands of the next chunk came late: a Loam refresh window or a fork delays it (R199). -/
  late : Bool := false
  /-- The reference time from which its Loam reads, which met a refresh window, go (R193). -/
  loamAt : Option Nat := none
  /-- The next chunk with its operands in the buffers, and the first mc in which they were all there (R199). -/
  buffer : Option (MatRun × Nat) := none
  /-- The mc before which no new command starts: the last at which a grant waited for quiescence (R299). -/
  hold : Nat := 0
  permCache : List Nat := []
  freeze : Option Freeze := none
  mc : Nat := 0
  /-- The reference time of the next mc. -/
  mcAt : Nat := 0
  sup : Nat := 0
  loamStl : Nat := 0
  frz : Nat := 0
  frzTime : Nat := 0
  conv : Nat := 0
  tlat : Nat := 0
  l2i : List (Nat × Nat × Block) := []
  deriving DecidableEq, Repr

/-- A system-cache line that a die holds: the line, the way of its set that holds it, the class and VF that filled it,
and its last use (R230). -/
structure ScLine where
  line : Nat
  way : Nat
  cls : Nat
  vf : Option Nat
  used : Nat
  deriving DecidableEq, Repr

/-- What the walk cache holds (R314), by its partition, VF (none for stage 2), space and the place it was read from, with the GPA pages
used: a valid non-leaf entry of level `lvl`, a space entry as level 4, or as level 5 the stage-2 translation of the 64 KiB of a table page
at `index`: the address, CMP in bit 0 and the size of the stage-2 page above it. -/
structure WalkEntry where
  part : Nat
  vf : Option Nat
  space : Nat
  lvl : Nat
  index : Nat
  gpas : List (Nat × Nat)
  value : Word
  deriving DecidableEq, Repr

/-- A group counter of a die's Piste (R82). -/
structure GroupCtr where
  handle : Nat
  group : Nat
  home : Bool
  memb : Nat := 0
  arr : Nat := 0
  gen : Nat := 0
  op : Nat := 0
  acc : Word := 0
  forwarded : Bool := false
  /-- The overflow record that holds the state instead of a counter, if any. -/
  rec_ : Option Nat := none
  deriving DecidableEq, Repr

/-- An operating-class pool of a die (R295): its number, class, clusters, granted tuple and partition. -/
structure Pool where
  num : Nat
  part : Nat
  ocstep : Nat
  ocwt : Nat
  clusters : List Nat
  gm : Nat := 0
  gv : Nat := 0
  gn : Nat := 0
  gy : Nat := 0
  deriving DecidableEq, Repr

/-- A draw batch at a die's raster and merger (R352 to R366). `home` and `num` name it by the die that accepted it first;
`core`, `handle`, `team` and `widx` name the issuer. `wbs` are the fork's write-backs still unacknowledged, `launch` the
implicit launch, and `status` the STATUS word so far. -/
structure Batch where
  home : Nat
  num : Nat
  core : Nat
  handle : Nat
  team : Nat
  widx : Nat
  sig : Nat
  vf : Nat
  part : Nat
  space : Nat
  level : Level
  off : Word
  wbs : List Nat := []
  record : List Byte := []
  accepted : Bool := false
  launch : Option Nat := none
  ended : Bool := false
  split : Bool := false
  forwarded : Bool := false
  status : Nat := 0
  done : Bool := false
  deriving DecidableEq, Repr

/-- A fragment in a merger (R361 to R364), in primitive order: its batch by home die and number, its pixel, the lane that
makes it, its depth of R360, and the colour and depth that `pxout` sent. -/
structure Frag where
  id : Nat
  home : Nat
  batch : Nat
  px : Nat
  py : Nat
  handle : Nat
  team : Nat
  lane : Nat
  z : Lane
  out : Option (List Lane × Lane) := none
  deriving DecidableEq, Repr

/-- The footprint of a fragment team (R357 to R360): triangle, origin, facing, covered lanes, the snapped vertices after
R355, their q and attributes, the depth by lane, and the lanes that gave their output (R362). -/
structure Footprint where
  handle : Nat
  team : Nat
  tri : Nat
  ox : Nat
  oy : Nat
  front : Bool
  mask : Mask
  xs : List Int
  ys : List Int
  qs : List Lane
  attrs : List (List Lane)
  z : SMap Lane := []
  sent : Mask := 0
  deriving DecidableEq, Repr

/-- A call batch at a die's call unit (R398, R399). -/
structure CallBatch where
  handle : Nat
  team : Nat
  batch : Nat
  widx : Nat
  sig : Nat
  epoch : Nat
  left : Nat
  status : Nat := 0
  lane : Nat := 0
  svc : Option Nat := none
  deriving DecidableEq, Repr

/-- A die (R1). -/
structure Die where
  handleSeq : Nat := 1
  wdthr : Nat := 4
  clusterQ : SMap (List (Nat × Nat)) := []
  loamOff : Nat := 0
  refresh : List Nat := []
  scsel : Nat := 0
  sc : List ScLine := []
  capev : SMap Nat := []
  xev : SMap Nat := []
  tlb : List TlbEntry := []
  walkCache : List WalkEntry := []
  walks : List Walk := []
  nextWalk : Nat := 0
  l3i : List (Nat × Nat × Block) := []
  groups : List GroupCtr := []
  an : Nat := 0
  ay : Nat := 0
  pools : List Pool := []
  arbAt : Nat := 0
  balAt : Nat := 0
  batches : List Batch := []
  nextBatch : Nat := 0
  frags : List Frag := []
  nextFrag : Nat := 0
  calls : List CallBatch := []
  deriving DecidableEq, Repr

/-- A cluster (R293 to R300, R409). Cluster k is k mod 16 of die k div 16. -/
structure Cluster where
  quant : Nat := 0
  /-- What a droop took from QUANT until it is given back (R294). -/
  lost : Nat := 0
  pamax : Nat := 4096
  count : Int := 0
  pwith : Nat := 0
  /-- The reference time of its next vc, and whether the allowance withheld a path in the vc under way (R293). -/
  at_ : Nat := 0
  short : Bool := false
  gm : Nat := 0
  gv : Nat := 0
  pending : Option (Nat × Nat × Nat) := none
  relockUntil : Option Nat := none
  idleSince : Nat := 0
  cap : Nat := 496
  hot : Bool := false
  veryHot : Bool := false
  deriving DecidableEq, Repr

/-- A rail, which feeds two clusters (R294, R301): its voltage, the rises and falls under way with the time at which each
settles, the clusters that a droop withholds until a time, and until when they have half their QUANT. -/
structure Rail where
  volt : Nat := 0
  rises : List (Nat × Nat) := []
  falls : List (Nat × Nat) := []
  withheld : List (Nat × Nat) := []
  halfUntil : Option Nat := none
  deriving DecidableEq, Repr

/-- A partition (R380 to R382) with its CSRs. `desc` is its descriptor as read at create. -/
structure Part where
  valid : Bool := false
  desc : List Byte := []
  keyed : Bool := false
  s2base : Word := 0
  s2fq : Word := 0
  s2tail : Nat := 0
  modtab : Word := 0
  /-- Per module, the VF whose stage-1 tables its registration used (R23), plus one. -/
  modVf : SMap Nat := []
  /-- Per module, the frames that its registration code-locked (R350), and the operations that wait for one: module, core, number. -/
  modFrames : SMap (List Nat) := []
  modOps : List (Nat × Nat × Nat) := []
  ctxpool : Word := 0
  slotsUsed : List Nat := []
  tevq : Word := 0
  tevTail : Nat := 0
  tevWait : List (List Word) := []
  pmctl : Word := 0x0032FFFF00000064
  callq : Word := 0
  callTail : Nat := 0
  vfsel : Nat := 0
  hmod : Word := 0
  pstov : Word := 0
  slew : Nat := 2048
  trips : Nat := 0
  swith : Nat := 0
  d0 : Nat := 0
  d1 : Nat := 0
  slewAt : Nat := 0
  withheld : Bool := false
  /-- A droop has withheld issue in the window under way (R294). -/
  drooped : Bool := false
  dhsel : Word := 0
  deriving DecidableEq, Repr

/-- A virtual function (R384, R389, R395). -/
structure Vf where
  spbase : Word := 0
  fpool : Word := 0
  vfq : Word := 0
  ways : Nat := 0xFFFFFF
  dbSpace : BitVec 16 := 0
  dbHandle : Nat := 0
  /-- The VF is being saved or has been saved (R349), and while it is, the operation that waits and the image area. -/
  saving : Bool := false
  saveOp : Option (Nat × Nat × Nat) := none
  deriving DecidableEq, Repr

/-- Where a team stands (R343). -/
inductive TeamState where
  | placed | running | halted | inHandler | suspended | saving | checkpointed | retiring
  deriving DecidableEq, Repr

/-- What a team was halted for: to be saved (R344) or killed (R345), and the operation of a core that waits for it. -/
structure SaveReq where
  kill : Bool := false
  /-- The team may be placed again without a `ctxrest`: the distributor pre-empted it. -/
  auto : Bool := false
  op : Option (Nat × Nat) := none
  deriving DecidableEq, Repr

/-- What a checkpoint keeps (R344, R349). The slot in memory holds the same; a restore takes from it what a hypervisor may have
edited and the stores (log 40). Slot numbers in it are warp indices; a handler's `due` is what its watchdog has left. -/
structure Saved where
  warps : SMap Warp := []
  cmds : List Cmd := []
  pops : List PopRec := []
  hits : List HitBatch := []
  markers : List Marker := []
  longs : List LongOp := []
  areas : List (Nat × List Byte) := []
  tokens : SMap Token := []
  tpoison : SMap Bool := []
  /-- The die and the fields [27:0] of `clkgrant` that the team left (R302). -/
  grant : Nat × Nat := (0, 0)
  /-- The state to come back to. -/
  back : TeamState := .running
  deriving DecidableEq, Repr

/-- A system-call reply that found its team checkpointed (R347): warp, flag and notification. -/
structure CallReply where
  widx : Nat
  sig : Nat
  note : Nat
  deriving DecidableEq, Repr

/-- A team (R59, R80, R343). `half` is 0 for a leader twin, 1 for a follower. -/
structure Team where
  handle : Nat
  idx : Nat
  core : Nat
  state : TeamState := .placed
  wpt : Nat
  slots : List Nat
  ended : List Nat := []
  half : Option Nat := none
  base : Nat
  size : Nat
  spb : Nat
  vf : Nat
  part : Nat
  startAt : Nat := 0
  cslot : Nat := 0
  barMask : Nat := 0
  barGen : Nat := 0
  arrived : List Nat := []
  gredVals : Option Word := none
  gredPending : Option Word := none
  est : Nat := 0
  estAt : Nat := 0
  batchCtr : Nat := 0
  heldAsync : List AsyncFault := []
  blockedSince : Option Nat := none
  eligible : Bool := false
  drainUntil : Option Nat := none
  saveFor : Option SaveReq := none
  saved : Option Saved := none
  replies : List CallReply := []
  /-- Groups released while the team was out (R346), and whether an operation of it has joined meanwhile (R269). -/
  freed : List Nat := []
  joined : Bool := false
  haltWarp : Option Nat := none
  broadcastAt : Option Nat := none
  placeable : Bool := false
  exited : Bool := false
  deriving DecidableEq, Repr

/-- Where a launch stands (R65). -/
inductive LaunchState where
  | queued | accepted | refused (status : Nat) | complete
  deriving DecidableEq, Repr

/-- A launch (R62 to R69). `lpb` is the block as read at acceptance; `launcher` names handle, team and warp index of the
launching warp, for a service core 0 and its number. `count` is its team count, `next` the next team to enter a cluster
queue, `started` the next to be placed on a core. `batch` names the draw batch of an implicit launch (R354). -/
structure Launch where
  handle : Nat
  die : Nat
  vf : Nat
  part : Nat
  level : Level
  space : BitVec 16
  addr : Word
  doms : List (BitVec 16)
  csig : Nat
  launcher : Option (Nat × Nat × Nat) := none
  batch : Option (Nat × Nat) := none
  lpb : List Byte := []
  state : LaunchState := .queued
  entry : Word := 0
  count : Nat := 0
  next : Nat := 0
  started : Nat := 0
  retired : Nat := 0
  killed : Bool := false
  tileCtr : Nat := 0
  /-- When the distributor may serve the next query of the launch, in reference time (R69). -/
  tileAt : Nat := 0
  ocstep : Nat := 0
  ocwt : Nat := 0
  groups : List (List Nat) := []
  /-- Since when its next team has waited for room (R342), and the cores kept from it for the launch named (R342). -/
  waitSince : Option Nat := none
  drained : List (Nat × Nat) := []
  deriving DecidableEq, Repr

/-- A display head (R375 to R377). -/
structure Head where
  dhctl : Word := 0
  dhbase : Word := 0
  dhbaseNext : Option Word := none
  dhgeom : Word := 0
  dhwm : Word := 0x0000000000400100
  cnt0 : Word := 0
  cnt1 : Word := 0
  /-- The FIFO, the next pixel to fetch and the next line to send, the bytes of the line sent last, and the next tick. -/
  fifo : List Byte := []
  fetchAt : Nat := 0
  line : Nat := 0
  scanned : List Byte := []
  tickAt : Nat := 0
  /-- Mismatched blocks that were sent as zeros (R243). -/
  mismatches : Nat := 0
  deriving DecidableEq, Repr

/-- An outbound Flefin transaction (R393). -/
structure FleTxn where
  id : Nat
  core : Nat
  /-- The warp that made it, 32 for a unit that is no warp's. -/
  slot : Nat
  long_ : Option Nat
  write : Bool
  off : Nat
  size : Nat
  sentAt : Nat
  data : List Byte := []
  /-- Sent with the poison marking (R243). -/
  poison : Bool := false
  deriving DecidableEq, Repr

/-- A Flefin port (R392, R393). -/
structure Port where
  txns : List FleTxn := []
  nextId : Nat := 0
  window : Nat := 0
  down : Bool := false
  errored : List Nat := []
  answers : List (Nat × List Byte × Bool) := []
  deriving DecidableEq, Repr

/-- An entry of the attestation log (R406). -/
structure AttEntry where
  type : Nat
  svn : Nat
  hash : List Byte
  deriving DecidableEq, Repr

/-- An entry of the root monitor's event log: a kind and the unit it concerns (R294, R390, R409). -/
structure LogEntry where
  kind : Nat
  unit : Nat
  deriving DecidableEq, Repr

/-- A memory request that arrives from outside (R392, R395): the VF and space it names, the offset, a write's bytes
(none for a read) and how many bytes a read asks for. -/
structure InboundReq where
  vf : Nat
  space : BitVec 16
  off : Word
  wr : Option (List Byte)
  len : Nat
  deriving DecidableEq, Repr

/-- The package (R119, R381, R396, R402 to R409). -/
structure Package where
  /-- Reference time in units of 1 / 16062686640 ns. -/
  now : Nat := 0
  powered : Bool := true
  standby : Bool := false
  bootStage : Nat := 0
  bootCode : Nat := 0
  bootSvn : Nat := 0
  flashA : List Byte := []
  flashB : List Byte := []
  keyBlock : List Byte := []
  fuseSvn : SMap Nat := []
  fuseHash : List Byte := []
  fusesLocked : Bool := false
  cdi1 : List Byte := []
  attLog : List AttEntry := []
  events : List LogEntry := []
  tripCause : Option LogEntry := none
  pdbase : Word := 0
  pctlPart : Nat := 0
  pctlBusy : Bool := false
  pctlStatus : Nat := 0
  pctlOp : Nat := 0
  gran : Nat := 0
  gkErr : Bool := false
  kinds : SMap Nat := []
  qsel : Word := 0
  /-- By class + 2048 x die. -/
  qcfg : SMap Word := []
  qways : SMap Nat := []
  rcallq : Word := 0
  rcallTail : Nat := 0
  skclk : SMap Nat := []
  upBatch : SMap Nat := []
  /-- Inbound requests held behind a stage-2 fault (R324), with the port, 8 for PCIe, and their number. -/
  inbound : List (Nat × Nat × InboundReq) := []
  pciOut : SMap Byte := []
  pciPoison : SMap Bool := []
  /-- LPDDR packages at or above 85 °C, as 1, and 95 °C, as 2. -/
  lpddrHot : SMap Nat := []
  deriving DecidableEq, Repr

/-- An autonomous step to take: which, at which unit (`a`, `b`, `c`, in the order its meaning names them), with the
value that a register write or an outside reading carries. -/
structure Ev where
  step : Instr
  a : Nat := 0
  b : Nat := 0
  c : Nat := 0
  w : Word := 0
  data : List Byte := []
  req : Option InboundReq := none
  deriving DecidableEq, Repr

/-- The path whose instruction is executing: core, slot, path, its word and size, and what the attempt ended in. -/
structure Cur where
  core : Nat := 0
  slot : Nat := 0
  path : Nat := 0
  word : Word := 0
  size : Nat := 1
  /-- none: not attempted yet; the cause `issue` also for an attempt that ended in a trap. -/
  res : Option Cause := none
  deriving DecidableEq, Repr

/-- A path still to be tried in the current vc of a core, or already chosen to issue in it. -/
structure Turn where
  core : Nat
  slot : Nat
  path : Nat
  /-- A lane access to the scratchpad, which R180 orders among its like. -/
  spad : Bool := false
  deriving DecidableEq, Repr

/-- The whole part. The last fields are the model's own: the autonomous steps to take next, the one under way, the core whose vc has
begun and whose paths have yet to be listed, with whether its admission is decided, the paths to try and to issue in that vc (log 3), the path that is executing, and the counter of free values (log 5). -/
structure State where
  pkg : Package := {}
  cores : SMap Core := []
  pairs : SMap Pair := []
  dies : SMap Die := []
  clusters : SMap Cluster := []
  rails : SMap Rail := []
  parts : SMap Part := []
  vfs : SMap Vf := []
  heads : SMap Head := []
  ports : SMap Port := []
  teams : List Team := []
  launches : List Launch := []
  foots : List Footprint := []
  mem : SMap Byte := []
  memPoison : SMap Bool := []
  memCmp : SMap Bool := []
  loam : SMap Byte := []
  loamPoison : SMap Bool := []
  fot : SMap (BitVec 32) := []
  loamFot : SMap (BitVec 32) := []
  agenda : List Ev := []
  ev : Ev := { step := .powerOnReset }
  opened : Option (Nat × Bool) := none
  turns : List Turn := []
  chosen : List Turn := []
  taken : List (Nat × Nat × Nat) := []
  cur : Cur := {}
  free : Nat := 0
  deriving DecidableEq, Repr

/-- A FOT entry nobody has written: OWNER 0, KEYP 31 (R319). -/
def fotReset : BitVec 32 := 0x001F0000

/-- The memory's canonical form. -/
abbrev Memory.wf (m : SMap Byte) : Prop := swf 0 m = true

/-- The part right after power-on reset: every register at the reset value of its table, memory with nothing listed,
no launch, no team, boot not begun (R404). `skclk` is 15 for the root monitor core (R408). -/
def State.reset : State := { pkg := { skclk := [(0, 15)] } }

end Sys2Proof.Machine
end

