-- ==== Sys2Proof/Machine/Access.lean ====
section
/-!
DEFINITION. Reading and changing one piece of State: cores, warps, paths, registers, teams, bytes of the stores, and
the numbering of cores, dies, clusters, pairs and clock periods (R1, R3, R5, R6).
-/

namespace Sys2Proof.Machine

/-! ### Numbering -/

/-- Core numbers from 256 are service cores (R3, R379). -/
def isSvc (c : Nat) : Bool := decide (256 ≤ c)
/-- The die of a core. -/
def dieOf (c : Nat) : Nat := if c < 256 then c / 128 else (c - 256) / 12
/-- The cluster of a compute core: eight cores to a cluster, sixteen clusters to a die (R1). -/
def clusterOf (c : Nat) : Nat := c / 8
/-- The issue pipe of a warp slot (R60). -/
def pipeOf (slot : Nat) : Nat := slot % 2
/-- The model's number of service core `i` of die `d`. -/
def svcCore (d i : Nat) : Nat := 256 + 12 * d + i
/-- One ns in units of the reference time: 3 x lcm(1..24), so that every clock period is a whole number of units. -/
def refUnit : Nat := 16062686640
/-- A vc at vector step `g`: (900 + 100 g) MHz (R6). -/
def vcPeriod (g : Nat) : Nat := refUnit * 10 / (9 + g)
/-- An mc at matrix step `g`: (600 + 100 g) MHz (R6). -/
def mcPeriod (g : Nat) : Nat := refUnit * 10 / (6 + g)
/-- An nc at network step `g`: (1,000 + 100 g) MHz (R6). -/
def ncPeriod (g : Nat) : Nat := refUnit * 10 / (10 + g)
/-- A kc at service step `g`: (600 + 200 g) MHz (R5). -/
def kcPeriod (g : Nat) : Nat := refUnit * 5 / (3 + g)

/-! ### Units -/

def State.core (s : State) (c : Nat) : Core := sget {} s.cores c
def State.setCore (s : State) (c : Nat) (k : Core) : State := { s with cores := sput {} s.cores c k }
def State.modCore (s : State) (c : Nat) (f : Core → Core) : State := s.setCore c (f (s.core c))
def State.pair (s : State) (p : Nat) : Pair := sget {} s.pairs p
def State.setPair (s : State) (p : Nat) (k : Pair) : State := { s with pairs := sput {} s.pairs p k }
def State.modPair (s : State) (p : Nat) (f : Pair → Pair) : State := s.setPair p (f (s.pair p))
def State.die (s : State) (d : Nat) : Die := sget {} s.dies d
def State.modDie (s : State) (d : Nat) (f : Die → Die) : State := { s with dies := sput {} s.dies d (f (s.die d)) }
def State.cluster (s : State) (c : Nat) : Cluster := sget {} s.clusters c
def State.modCluster (s : State) (c : Nat) (f : Cluster → Cluster) : State :=
  { s with clusters := sput {} s.clusters c (f (s.cluster c)) }
def State.rail (s : State) (r : Nat) : Rail := sget {} s.rails r
def State.modRail (s : State) (r : Nat) (f : Rail → Rail) : State := { s with rails := sput {} s.rails r (f (s.rail r)) }
def State.part (s : State) (p : Nat) : Part := sget {} s.parts p
def State.modPart (s : State) (p : Nat) (f : Part → Part) : State := { s with parts := sput {} s.parts p (f (s.part p)) }
def State.vf (s : State) (v : Nat) : Vf := sget {} s.vfs v
def State.modVf (s : State) (v : Nat) (f : Vf → Vf) : State := { s with vfs := sput {} s.vfs v (f (s.vf v)) }
def State.head (s : State) (h : Nat) : Head := sget {} s.heads h
def State.modHead (s : State) (h : Nat) (f : Head → Head) : State := { s with heads := sput {} s.heads h (f (s.head h)) }
def State.port (s : State) (p : Nat) : Port := sget {} s.ports p
def State.modPort (s : State) (p : Nat) (f : Port → Port) : State := { s with ports := sput {} s.ports p (f (s.port p)) }
def State.modPkg (s : State) (f : Package → Package) : State := { s with pkg := f s.pkg }

/-- Reference time in whole ns (R119). -/
def State.ns (s : State) : Nat := s.pkg.now / refUnit

/-! ### Warps and paths -/

def Core.warp (k : Core) (slot : Nat) : Warp := sget {} k.warps slot
def Core.setWarp (k : Core) (slot : Nat) (w : Warp) : Core := { k with warps := sput {} k.warps slot w }
def State.warp (s : State) (c slot : Nat) : Warp := (s.core c).warp slot
def State.setWarp (s : State) (c slot : Nat) (w : Warp) : State := s.modCore c (fun k => k.setWarp slot w)
def State.modWarp (s : State) (c slot : Nat) (f : Warp → Warp) : State := s.setWarp c slot (f (s.warp c slot))

/-- The path of a warp with this number. -/
def Warp.path (w : Warp) (id : Nat) : Option Path := w.paths.find? (fun p => p.id == id)
/-- Change the path with this number. -/
def Warp.modPath (w : Warp) (id : Nat) (f : Path → Path) : Warp :=
  { w with paths := modWhere (fun p => p.id == id) f w.paths }
def State.modPath (s : State) (c slot id : Nat) (f : Path → Path) : State :=
  s.modWarp c slot (fun w => w.modPath id f)
/-- The live lanes of a warp. -/
def Warp.lanes (w : Warp) : Mask := w.paths.foldl (fun m p => m ||| p.mask) 0
/-- Every warp slot of a core with its number. -/
def Core.slots (k : Core) : List Nat := (k.warps.filter (fun p => p.2.live)).map (fun p => p.1)
/-- The cores with something in them. -/
def State.coreIds (s : State) : List Nat := s.cores.map (fun p => p.1)

/-! ### Registers (R88 to R90) -/

/-- Scalar register `n`: x0 reads as zero (R89). -/
def Warp.xr (w : Warp) (n : Nat) : Word := if n = 0 then 0 else sget 0 w.x n
/-- Write scalar register `n`: a write to x0 is discarded (R89). -/
def Warp.xw (w : Warp) (n : Nat) (v : Word) : Warp := if n = 0 then w else { w with x := sput 0 w.x n v }
/-- The physical vector register of a logical name (R90). -/
def physV (rrb n : Nat) : Nat := if n < 64 then n else 64 + (n - 64 + rrb) % 64
/-- The physical predicate of a logical name (R90). -/
def physP (rrb n : Nat) : Nat := if n < 8 then n else 8 + (n - 8 + rrb % 8) % 8
/-- Lane `l` of physical vector register `n`. -/
def Warp.vr (w : Warp) (n l : Nat) : Lane := sget 0 w.v (n * 64 + l)
def Warp.vw (w : Warp) (n l : Nat) (x : Lane) : Warp := { w with v := sput 0 w.v (n * 64 + l) x }
/-- A granule is replaced whole: no error is left in it (R174). -/
def Warp.renew (w : Warp) (k : Nat) : Warp := { w with vpoison := sput false w.vpoison k false, vsingle := sput false w.vsingle k false }
/-- Every granule of the vector registers is free of errors. -/
def Warp.sound (w : Warp) : Bool := w.vpoison.isEmpty && w.vsingle.isEmpty
/-- Write listed lanes of a physical vector register; a whole lane replaces both granules (R174). -/
def Warp.vws (w : Warp) (n : Nat) : List (Nat × Lane) → Warp
  | [] => w
  | (l, x) :: r =>
    (((w.vw n l x).renew ((n * 64 + l) * 2)).renew ((n * 64 + l) * 2 + 1)).vws n r
/-- Write listed lanes of which only the granules `gr` (1 low, 2 high) are replaced whole: the other keeps its mark. -/
def Warp.vwn (w : Warp) (n gr : Nat) : List (Nat × Lane) → Warp
  | [] => w
  | (l, x) :: r =>
    let w := w.vw n l x
    let k := (n * 64 + l) * 2
    let w := if gr % 2 = 1 then w.renew k else w
    (if 2 ≤ gr then w.renew (k + 1) else w).vwn n gr r
/-- Physical predicate `n`: p0 reads as 1 in every lane (R89). -/
def Warp.pr (w : Warp) (n : Nat) : Mask := if n = 0 then BitVec.allOnes 64 else sget 0 w.p n
/-- Write the lanes `m` of physical predicate `n`; p0 is never written. -/
def Warp.pw (w : Warp) (n : Nat) (m v : Mask) : Warp :=
  if n = 0 then w else { w with p := sput 0 w.p n ((sget 0 w.p n &&& ~~~m) ||| (v &&& m)) }
/-- Domain register `n` (R102). -/
def Warp.dr (w : Warp) (n : Nat) : BitVec 16 := sget 0 w.d n
def Warp.dw (w : Warp) (n : Nat) (v : BitVec 16) : Warp := { w with d := sput 0 w.d n v }
/-- Completion-flag counter `n` (R97). -/
def Warp.fr (w : Warp) (n : Nat) : Nat := sget 0 w.f n
def Warp.fw (w : Warp) (n v : Nat) : Warp := { w with f := sput 0 w.f n v }
/-- Matrix parameter `n` (R206). -/
def Warp.mpr (w : Warp) (n : Nat) : Word := sget 0 w.mp n

/-- The SR lane states that a write of `seed` to `srseed` gives (R140). -/
def srSeeded (seed : Nat) : SMap Lane :=
  (List.range 64).foldl
    (fun m l =>
      let v : Lane := BitVec.ofNat 32 seed ^^^ BitVec.ofNat 32 (l * 0x9E3779B9)
      sput 0 m l (if v = 0 then 1 else v)) []

/-! ### Teams, launches and partitions -/

def State.team (s : State) (h i : Nat) : Option Team := s.teams.find? (fun t => t.handle == h && t.idx == i)
def State.modTeam (s : State) (h i : Nat) (f : Team → Team) : State :=
  { s with teams := modWhere (fun t => t.handle == h && t.idx == i) f s.teams }
def State.launch (s : State) (h : Nat) : Option Launch := s.launches.find? (fun l => l.handle == h)
def State.modLaunch (s : State) (h : Nat) (f : Launch → Launch) : State :=
  { s with launches := modWhere (fun l => l.handle == h) f s.launches }
/-- The team that a warp belongs to. -/
def State.teamOf (s : State) (w : Warp) : Option Team := s.team w.handle w.team

/-- A little-endian field of `n` bytes at an offset of a block of bytes (R12). -/
def fieldAt (b : List Byte) (off n : Nat) : Nat := ofBytes ((b.drop off).take n)

/-- The service core of a partition's descriptor (R380). -/
def Part.svc (p : Part) : Nat :=
  let w := fieldAt p.desc 0 8
  svcCore (w / 2 ^ 12 % 2) (w / 2 ^ 8 % 16)
/-- The pairs of a die in a partition's descriptor, as a mask. -/
def Part.pairs (p : Part) (d : Nat) : Nat := fieldAt p.desc (8 + 8 * d) 8
def Part.loam (p : Part) (d : Nat) : Nat := fieldAt p.desc (0x18 + 8 * d) 8
def Part.ways (p : Part) : Nat := fieldAt p.desc 0x38 3
def Part.vfBase (p : Part) : Nat := fieldAt p.desc 0x40 4 % 512
def Part.vfCount (p : Part) : Nat := fieldAt p.desc 0x40 4 / 512 % 1024
def Part.headMask (p : Part) : Nat := fieldAt p.desc 0x48 1 % 16
def Part.portMask (p : Part) : Nat := fieldAt p.desc 0x49 1
/-- A VF is one of the partition's (R380). -/
def Part.hasVf (p : Part) (v : Nat) : Bool := p.valid && decide (p.vfBase ≤ v ∧ v < p.vfBase + p.vfCount)
/-- The partition that runs its kernel on a service core. -/
def State.partOfSvc (s : State) (c : Nat) : Option Nat :=
  (s.parts.find? (fun q => q.2.valid && q.2.svc == c)).map (fun q => q.1)
/-- The partition of a VF. -/
def State.partOfVf (s : State) (v : Nat) : Option Nat := (s.parts.find? (fun q => q.2.hasVf v)).map (fun q => q.1)
/-- A compute core belongs to a partition. -/
def State.coreIn (s : State) (p c : Nat) : Bool := Nat.testBit ((s.part p).pairs (c / 128)) (c % 128 / 2)
/-- The partition of a compute core. -/
def State.partOfCore (s : State) (c : Nat) : Option Nat :=
  (s.parts.find? (fun q => q.2.valid && Nat.testBit (q.2.pairs (c / 128)) (c % 128 / 2))).map (fun q => q.1)

/-! ### Bytes -/

/-- The bytes of device-physical memory (R308): 720 GiB from 0. -/
def memTop : Nat := 0xB400000000
/-- Byte `a` of memory at its home. An unlisted byte reads 0 (log 1). -/
def State.byte (s : State) (a : Nat) : Byte := sget 0 s.mem a
def State.bytes (s : State) (a n : Nat) : List Byte := sgets 0 s.mem a n
def State.setBytes (s : State) (a : Nat) (l : List Byte) : State := { s with mem := sputs 0 s.mem a l }
/-- A little-endian number of `n` bytes at its home (R12). -/
def State.num (s : State) (a n : Nat) : Nat := ofBytes (s.bytes a n)
def State.setNum (s : State) (a n v : Nat) : State := s.setBytes a (leBytes v n)

/-- Scratchpad bytes of a core at a physical address (R176). -/
def Core.sp (k : Core) (a n : Nat) : List Byte := sgets 0 k.spad a n
/-- Clear the poison of every 8-byte word that `n` bytes from `a` cover whole (R182). -/
def clearWords (m : SMap Bool) (a n : Nat) : SMap Bool :=
  (List.range (n / 8 + 1)).foldl
    (fun m i => let w := (a + 7) / 8 + i; if 8 * w + 8 ≤ a + n then sput false m w false else m) m
/-- Write scratchpad bytes. -/
def Core.setSp (k : Core) (a : Nat) (l : List Byte) : Core :=
  { k with spad := sputs 0 k.spad a l, spoison := clearWords k.spoison a l.length }
/-- A poisoned word among those that hold `n` bytes from `a`: the first. -/
def Core.spBad (k : Core) (a n : Nat) : Option Nat :=
  ((List.range ((a + n - 1) / 8 + 1 - a / 8)).map (fun i => a / 8 + i)).find? (fun w => sget false k.spoison w)

/-- A Loam address as one number: die, region and offset (R190). -/
def loamKey (a : Nat) : Nat := a % 2 ^ 31
/-- Bytes of the Loam store at a Loam address. -/
def State.loamBytes (s : State) (a n : Nat) : List Byte := sgets 0 s.loam (loamKey a) n
def State.setLoam (s : State) (a : Nat) (l : List Byte) : State :=
  { s with loam := sputs 0 s.loam (loamKey a) l,
           loamPoison := (List.range (l.length / 64 + 2)).foldl
             (fun m i => let b := (loamKey a + 63) / 64 + i
                         if 64 * b + 64 ≤ loamKey a + l.length then sput false m b false else m) s.loamPoison }

/-- A fresh number for a model free value (log 5). -/
def State.tickFree (s : State) : State := { s with free := s.free + 1 }

/-- Take a fresh operation number of a core. -/
def State.newId (s : State) (c : Nat) : Nat × State :=
  let k := s.core c
  (k.nextId, s.setCore c { k with nextId := k.nextId + 1 })

end Sys2Proof.Machine
end

