-- ==== Sys2Proof/Machine/Codec.lean ====
section
/-!
DEFINITION. Check words and block encodings (R241, R244 to R246, R256): CRC-32C, the encoder and the decoder of a
256-byte block of 64 words.
-/

namespace Sys2Proof.Machine

open Sys2Proof

/-! ### CRC-32C (R241) -/

/-- Eight steps of the reflected polynomial. -/
def crcByte : Nat → BitVec 32 → BitVec 32
  | 0, c => c
  | n + 1, c => crcByte n (if c.getLsbD 0 then (c >>> 1) ^^^ 0x82F63B78 else c >>> 1)

/-- CRC-32C of bytes in ascending order. -/
def crc32c (l : List Byte) : BitVec 32 :=
  (l.foldl (fun c b => crcByte 8 (c ^^^ b.setWidth 32)) 0xFFFFFFFF) ^^^ 0xFFFFFFFF

/-! ### Words of a block -/

/-- Little-endian 32-bit words of a list of bytes, `n` of them. -/
def wordsOf : Nat → List Byte → List Lane
  | 0, _ => []
  | n + 1, b => BitVec.ofNat 32 (ofBytes (b.take 4)) :: wordsOf n (b.drop 4)

/-- Bytes of 32-bit words. -/
def laneBytes (l : List Lane) : List Byte := l.flatMap (fun w => leBytes w.toNat 4)

/-- Values of `ob` bits as one stream of `n` bytes, the first value lowest. -/
def packBits (ob : Nat) (vs : List Nat) (n : Nat) : List Byte :=
  leBytes (vs.foldr (fun v a => v + 2 ^ ob * a) 0) n

/-- `n` values of `ob` bits of a stream. -/
def unpackBits (ob : Nat) : Nat → Nat → List Nat
  | 0, _ => []
  | n + 1, x => x % 2 ^ ob :: unpackBits ob n (x / 2 ^ ob)

/-- The least number of bits at most 31 in which `fits` holds, if any. -/
def leastBits (fits : Nat → Bool) : Option Nat := (List.range 32).find? fits

/-! ### Encoding (R245, R246) -/

/-- The 4-byte header. -/
def zHeader (kind ob len : Nat) : List Byte := leBytes (kind + ob * 4 + len % 256 * 256) 4

/-- Differences of successive words. -/
def zDeltas : List Lane → List Lane
  | a :: b :: l => (b - a) :: zDeltas (b :: l)
  | _ => []

/-- The zero-run form. -/
def zEnc1 (ws : List Lane) : List Byte :=
  let mask := (ws.zipIdx.filter (fun q => q.1 == 0)).foldl (fun a q => a + 2 ^ q.2) 0
  let nz := ws.filter (fun w => w != 0)
  zHeader 1 0 (12 + 4 * nz.length) ++ leBytes mask 8 ++ laneBytes nz

/-- The delta form, where every delta fits. -/
def zEnc2 (ws : List Lane) : Option (List Byte) :=
  let ds := zDeltas ws
  (leastBits (fun ob => ds.all (fun d => if ob = 0 then d == 0 else decide (sextN d.toNat ob = d.toInt)))).map (fun ob =>
    let n := cdiv (63 * ob) 8
    zHeader 2 ob (8 + n) ++ leBytes ((ws.headD 0).toNat) 4 ++ packBits ob (ds.map (fun d => d.toNat % 2 ^ ob)) n)

/-- The base-plus-offset form, where every offset fits. -/
def zEnc3 (ws : List Lane) : Option (List Byte) :=
  let base := ws.foldl (fun m w => if w.toNat < m then w.toNat else m) (ws.headD 0).toNat
  (leastBits (fun ob => ws.all (fun w => decide (w.toNat - base < 2 ^ ob)))).map (fun ob =>
    let n := cdiv (64 * ob) 8
    zHeader 3 ob (8 + n) ++ leBytes base 4 ++ packBits ob (ws.map (fun w => w.toNat - base)) n)

/-- The shortest encoding of KIND 1 to 3, the lower KIND on a tie. -/
def zEncode (block : List Byte) : List Byte :=
  let ws := wordsOf 64 block
  let pick := fun (a : List Byte) (b : Option (List Byte)) => match b with
    | some b => if b.length < a.length then b else a
    | none => a
  pick (pick (zEnc1 ws) (zEnc2 ws)) (zEnc3 ws)

/-- The form of a block in a packed stream: raw where the encoding is over 256 bytes (R256). -/
def zStream (block : List Byte) : List Byte :=
  let e := zEncode block
  if 256 < e.length then zHeader 0 0 260 ++ block.take 256 else e

/-! ### Decoding (R246) -/

/-- The words whose ZMASK bit is clear, in order, from a list. -/
def zFill (mask : Nat) : Nat → Nat → List Lane → List Lane
  | 0, _, _ => []
  | n + 1, k, l => if Nat.testBit mask k then 0 :: zFill mask n (k + 1) l else l.headD 0 :: zFill mask n (k + 1) l.tail

/-- Running sums of signed deltas. -/
def zSum (w : Lane) : List Int → List Lane
  | [] => []
  | d :: l => let x := w + BitVec.ofInt 32 d
              x :: zSum x l

/-- The length of the encoding that begins `b`, by its header. -/
def zLen (b : List Byte) : Nat := let h := ofBytes (b.take 4); if h % 4 = 0 then 260 else h / 256 % 256

/-- Decode one block, none where the decoder rejects it. Padding up to a multiple of `pad` bytes must be zero. -/
def zDecode (b : List Byte) (inMem : Bool) : Option (List Byte) :=
  let h := ofBytes (b.take 4)
  let kind := h % 4
  let ob := h / 4 % 32
  let len := h / 256 % 256
  let body := b.drop 4
  if h / 2 ^ 16 ≠ 0 ∨ h / 128 % 2 ≠ 0 then none
  else if inMem && (decide (kind = 0) || decide (192 < len)) then none
  else match kind with
  | 0 => if ob ≠ 0 ∨ body.length < 256 then none else some (body.take 256)
  | 1 =>
    let mask := ofBytes (body.take 8)
    if ob ≠ 0 ∨ len ≠ 12 + 4 * (64 - popc mask 64) ∨ b.length < len then none
    else some (laneBytes (zFill mask 64 0 (wordsOf (64 - popc mask 64) (body.drop 8))))
  | 2 =>
    let n := cdiv (63 * ob) 8
    if len ≠ 8 + n ∨ b.length < len then none
    else
      let x := ofBytes ((body.drop 4).take n)
      if 2 ^ (63 * ob) ≤ x then none
      else
        let w0 : Lane := BitVec.ofNat 32 (ofBytes (body.take 4))
        some (laneBytes (w0 :: zSum w0 ((unpackBits ob 63 x).map (fun v => if ob = 0 then 0 else sextN v ob))))
  | _ =>
    let n := cdiv (64 * ob) 8
    if len ≠ 8 + n ∨ b.length < len then none
    else
      let base := ofBytes (body.take 4)
      some (laneBytes ((unpackBits ob 64 (ofBytes ((body.drop 4).take n))).map (fun v => BitVec.ofNat 32 (base + v))))

/-! ### Memory at its home, through a page with or without the compression attribute (R244) -/

/-- The 64-byte block that holds `a` fails its check word (R242), as a plain reader sees it. -/
def State.plainBad (s : State) (a : Nat) : Bool :=
  sget false s.memPoison (a / 64) || (sget false s.memCmp (a / 256) && decide (a / 64 % 4 = 0))

/-- The 256 bytes of a block and which of its four sectors are poisoned. -/
def State.homeBlock (s : State) (a : Nat) (cmp : Bool) : List Byte × Nat :=
  let b := a / 256 * 256
  let raw := s.bytes b 256
  let bad := fun (n : Nat) => (List.range n).foldl (fun m i => if sget false s.memPoison (b / 64 + i) then m + 2 ^ i else m) 0
  if cmp && sget false s.memCmp (b / 256) then
    let n := zLen raw
    if bad (min 4 (cdiv n 64)) ≠ 0 then (raw, 15)
    else
      let pad := (raw.take (cdiv n 64 * 64)).drop n
      match zDecode raw true with
      | some d => if pad.all (fun x => x == 0) then (d, 0) else (raw, 15)
      | none => (raw, 15)
  else if cmp then (raw, bad 4)
  else (raw, (List.range 4).foldl (fun m i => if s.plainBad (b + 64 * i) then m + 2 ^ i else m) 0)

/-- Bytes at their home that lie in one 256-byte block. -/
def State.homeBytes (s : State) (a n : Nat) (cmp : Bool) : List Byte := ((s.homeBlock a cmp).1.drop (a % 256)).take n

/-- The 64-byte block at `a` is poisoned, as a reader through such a page sees it. -/
def State.homeBad (s : State) (a : Nat) (cmp : Bool) : Bool := Nat.testBit (s.homeBlock a cmp).2 (a / 64 % 4)

/-- Bytes listed with their addresses become part of a block: the new value of `old` at `base`. -/
def overlay (base : Nat) (old : List Byte) (ws : List (Nat × Byte)) : List Byte :=
  let m : SMap (Option Byte) := ws.foldl (fun m q => sput none m q.1 (some q.2)) []
  old.zipIdx.map (fun q => (sget none m (base + q.2)).getD q.1)

/-- Which 64-byte blocks of `base` to `base + 255` the listed bytes cover whole. -/
def coversBlock (base : Nat) (ws : List (Nat × Byte)) (i : Nat) : Bool :=
  let m : SMap Bool := ws.foldl (fun m q => sput false m q.1 true) []
  (List.range 64).all (fun k => sget false m (base + 64 * i + k))

/-- Write bytes into one 256-byte block at its home, with check words made again (R242, R244): whole blocks lose their
poison, partial ones keep it. A block that cannot be read keeps its stored form poisoned. -/
def State.homeWriteBlock (s : State) (base : Nat) (ws : List (Nat × Byte)) (cmp : Bool) : State :=
  let (old, bad) := s.homeBlock base cmp
  let new := overlay base old ws
  let left := (List.range 4).foldl (fun m i => if Nat.testBit bad i && !coversBlock base ws i then m + 2 ^ i else m) 0
  let mark := fun (s : State) (m : Nat) => { s with memPoison := (List.range 4).foldl (fun p i => sput false p (base / 64 + i) (Nat.testBit m i)) s.memPoison }
  if cmp then
    let e := zEncode new
    if left = 0 ∧ e.length ≤ 192 then
      mark { (s.setBytes base (e ++ List.replicate (cdiv e.length 64 * 64 - e.length) 0)) with memCmp := sput false s.memCmp (base / 256) true } 0
    else mark { (s.setBytes base new) with memCmp := sput false s.memCmp (base / 256) false } left
  else
    let plain := !(sget false s.memCmp (base / 256)) || coversBlock base ws 0
    let touched := fun (i : Nat) => ws.any (fun q => q.1 / 64 == base / 64 + i)
    let s := { (s.setBytes base new) with memCmp := if plain || touched 0 then sput false s.memCmp (base / 256) false else s.memCmp }
    { s with memPoison := (List.range 4).foldl (fun p i => if touched i then sput false p (base / 64 + i) (Nat.testBit left i) else p) s.memPoison }

/-- Write listed bytes at their homes. -/
def State.homeWrite (s : State) (ws : List (Nat × Byte)) (cmp : Bool) : State :=
  let blocks := ws.foldl (fun (l : List Nat) q => if l.contains (q.1 / 256) then l else l ++ [q.1 / 256]) []
  blocks.foldl (fun s b => s.homeWriteBlock (256 * b) (ws.filter (fun q => q.1 / 256 == b)) cmp) s

/-- The granule kind of an address: whether it is interleaved, and its home die (R226). -/
def State.homeDie (s : State) (a : Nat) : Nat :=
  let k := sget 0 s.pkg.kinds (a / 2 ^ 30)
  if k % 2 = 1 then k / 2 % 2 else a / 4096 % 2

end Sys2Proof.Machine
end

