-- ==== Sys2Proof/Machine/Translate.lean ====
section
/-!
DEFINITION. Address translation and frame ownership (R307 to R320, R324): table entries, the two-stage walk, the
translation caches, the walk queue, and the check of the frame owner table.
-/

namespace Sys2Proof.Machine

/-! ### Identity and the frame owner table (R318 to R320) -/

/-- On whose behalf an access is made (R320). -/
structure Ident where
  vf : Option Nat
  part : Option Nat
  level : Level
  deriving DecidableEq, Repr

/-- The root monitor's identity. -/
def Ident.root : Ident := ⟨none, none, .root⟩
/-- A partition's hypervisor. -/
def Ident.hyp (p : Nat) : Ident := ⟨none, some p, .hypervisor⟩

/-- The FOT entry of the memory frame that holds a DPA. -/
def State.fotOf (s : State) (dpa : Nat) : BitVec 32 := sget fotReset s.fot (dpa / 65536)
/-- The FOT entry of the Loam frame at a Loam address. -/
def State.loamFotOf (s : State) (a : Nat) : BitVec 32 := sget fotReset s.loamFot (loamKey a / 65536)
/-- The partition that an owner ID belongs to (R318). -/
def State.ownerPart (s : State) (o : Nat) : Option Nat :=
  if 1 ≤ o ∧ o ≤ 0x200 then s.partOfVf (o - 1) else if 0xE00 ≤ o ∧ o ≤ 0xE13 then some (o - 0xE00) else none

/-- The four grounds of R320 on which an entry admits a requester. -/
def State.ownerAdmits (s : State) (id : Ident) (e : BitVec 32) : Bool :=
  let o := bits e 11 0
  decide (id.level = .root) ||
    (match id.vf with | some v => decide (o = v + 1) | none => false) ||
    (match id.part with
      | some p => decide (o = 0xE00 + p) && bit e 12 ||
          decide (id.level = .hypervisor) && decide (o ≠ 0) && decide (s.ownerPart o = some p)
      | none => false)

/-- R320: the entry admits the requester, and no write reaches a code-locked frame. Windows have no entries (R308); an
unbacked address has no frame, and nobody is admitted (log 51). -/
def State.fotAllows (s : State) (id : Ident) (dpa : Nat) (write : Bool) : Bool :=
  if memTop ≤ dpa then decide (2 ^ 49 ≤ dpa)
  else s.ownerAdmits id (s.fotOf dpa) && !(write && bit (s.fotOf dpa) 13)

/-! ### Table entries (R310, R311) -/

/-- The access that a walk is for: read, write, fetch (R312). ACC codes as in `flinfo` (R325). -/
def accNeeds (acc : Nat) : Bool × Bool × Bool :=
  match acc with
  | 1 | 5 => (false, true, false)
  | 2 => (true, true, false)
  | 3 => (false, false, true)
  | _ => (true, false, false)

/-- ADDR of an entry. -/
def entAddr (e : Word) : Nat := bits e 49 15 * 2 ^ 15
/-- Reserved bits of an entry are set. -/
def entReserved (e : Word) : Bool := decide (bits e 14 8 ≠ 0 ∨ bits e 63 50 ≠ 0)
/-- The page size of a leaf at level `l`, as a power of two (R307). -/
def leafLog (l : Nat) : Nat := 16 + 12 * l

/-- A malformed stage-1 entry with V = 1 at level `l` (R311). -/
def bad1 (e : Word) (l : Nat) : Bool :=
  entReserved e || bit e 6 || (if bit e 1 then decide (l = 3) || decide (entAddr e % 2 ^ leafLog l ≠ 0)
    else decide (l = 0) || decide (bits e 5 2 ≠ 0))

/-- A malformed stage-2 entry with V = 1 at level `l` (R311). -/
def bad2 (e : Word) (l : Nat) : Bool :=
  let a := entAddr e
  entReserved e || bit e 5 || bit e 7 || decide (memTop ≤ a ∧ a < 2 ^ 49) ||
    (if bit e 1 then decide (a % 2 ^ leafLog l ≠ 0) || (bit e 6 && decide (2 ^ 49 ≤ a))
     else decide (l = 0) || bit e 6 || decide (bits e 4 2 ≠ 0) || decide (memTop ≤ a))

/-! ### The walk (R312) -/

/-- What stage 2 gives. -/
inductive S2Res where
  | ok (dpa log2 : Nat) (r w x cmp : Bool)
  | bad (kind : Nat)
  deriving DecidableEq, Repr

/-- What a walk ends in. -/
inductive WalkRes where
  | ok (e : TlbEntry)
  | s1 (kind lvl : Nat)
  | s2 (gpa kind lvl : Nat)
  deriving DecidableEq, Repr

/-- Find a walk-cache entry (R314). -/
def wcFind (c : List WalkEntry) (part : Nat) (vf : Option Nat) (space lvl index : Nat) : Option Word :=
  (c.find? (fun e => e.part == part && e.vf == vf && e.space == space && e.lvl == lvl && e.index == index)).map
    (fun e => e.value)

/-- Install a walk-cache entry, the newest first, 1,024 in all. -/
def wcAdd (c : List WalkEntry) (e : WalkEntry) : List WalkEntry :=
  if c.contains e then c else (e :: c).take 1024

/-- Stage 2 from level `l` with the table at `t`, `n` levels to go (R312). The walk cache is threaded through. An entry with V = 0 above L0
must not say FT = 1 (R311). -/
def State.s2walk (s : State) (p g : Nat) (nr nw nx : Bool) (t : Nat) : Nat → List WalkEntry → S2Res × List WalkEntry
  | 0, c => (.bad 5, c)
  | l + 1, c =>
    let index := g / 2 ^ leafLog l
    let a := t + 8 * (index % 4096)
    let hit := wcFind c p none 0 l index
    if hit.isNone && (decide (memTop ≤ a) || !s.fotAllows (.hyp p) a false) then (.bad 6, c)
    else
      let e := match hit with | some e => e | none => BitVec.ofNat 64 (s.num a 8)
      if !bit e 0 then (.bad (if bit e 7 && decide (l ≠ 0) then 5 else 2), c)
      else if bad2 e l then (.bad 5, c)
      else if bit e 1 then
        if (nr && !bit e 2) || (nw && !bit e 3) || (nx && !bit e 4) then (.bad 4, c)
        else (.ok (entAddr e + g % 2 ^ leafLog l) (leafLog l) (bit e 2) (bit e 3) (bit e 4) (bit e 6), c)
      else
        s.s2walk p g nr nw nx (entAddr e) l (wcAdd c ⟨p, none, 0, l, index, [], e⟩)

/-- Stage 2 of a GPA (R308): three levels from `s2base`. -/
def State.s2 (s : State) (p g : Nat) (nr nw nx : Bool) (c : List WalkEntry) : S2Res × List WalkEntry :=
  s.s2walk p (g % 2 ^ 50) nr nw nx (entAddr (s.part p).s2base) 3 c

/-- A GPA page by its number and size, as translations and walk-cache entries note it (R316). -/
def gpaPage (g log2 : Nat) : Nat × Nat := (g / 2 ^ log2, log2)

/-- An entry of a table at an address, in a page with or without the compression attribute (R244). -/
def State.tableWord (s : State) (a : Nat) (cmp : Bool) : Word := BitVec.ofNat 64 (ofBytes (s.homeBytes a 8 cmp))

/-- Where a table entry at a GPA lies: its address, CMP and the size of the stage-2 page. The walk cache keeps stage-2 translations of
table pages (R314). -/
def State.tableAt (s : State) (p gpa : Nat) (c : List WalkEntry) : Except Nat (Nat × Bool × Nat) × List WalkEntry :=
  let g := gpa % 2 ^ 50
  match wcFind c p none 0 5 (g / 65536) with
  | some v => (.ok (entAddr v / 65536 * 65536 + g % 65536, bit v 0, bits v 7 1), c)
  | none => match s.s2 p gpa true false false c with
    | (.bad k, c) => (.error k, c)
    | (.ok a log2 _ _ _ cmp, c) =>
      (.ok (a, cmp, log2), wcAdd c ⟨p, none, 0, 5, g / 65536, [gpaPage g log2], BitVec.ofNat 64 (a / 65536 * 65536 + cmp.toNat + 2 * log2)⟩)

/-- A walk's reading of one stage-1 entry at a GPA, at the VF's identity: the entry with the size of the stage-2 page it lies in, or how
the walk ends. -/
inductive EntRes where
  | ent (e : Word) (log2 : Nat)
  | stop (r : WalkRes)
  deriving DecidableEq, Repr

def State.readEnt (s : State) (p vf gpa lvl : Nat) (c : List WalkEntry) : EntRes × List WalkEntry :=
  match s.tableAt p gpa c with
  | (.error k, c) => (.stop (.s2 gpa k lvl), c)
  | (.ok (a, cmp, log2), c) =>
    if decide (memTop ≤ a) || !s.fotAllows ⟨some vf, some p, .supervisor⟩ a false then (.stop (.s1 6 lvl), c)
    else (.ent (s.tableWord a cmp) log2, c)

/-- The entry of one level, from the walk cache or memory, with the GPA pages that its reading used. -/
def State.levelEnt (s : State) (p vf space gpa lvl index : Nat) (c : List WalkEntry) : (EntRes × List (Nat × Nat)) × List WalkEntry :=
  match c.find? (fun e => e.part == p && e.vf == some vf && e.space == space && e.lvl == lvl && e.index == index) with
  | some e => ((.ent e.value 16, e.gpas), c)
  | none =>
    let (r, c) := s.readEnt p vf gpa lvl c
    ((r, match r with | .ent _ log2 => [gpaPage (gpa % 2 ^ 50) log2] | .stop _ => []), c)

/-- Stage 1 from level `l` (`n` = l + 1) with the table at GPA `t` (R312). -/
def State.s1walk (s : State) (p vf space : Nat) (off : Word) (acc : Nat) (user : Bool) (gpas : List (Nat × Nat)) (t : Nat) :
    Nat → List WalkEntry → WalkRes × List WalkEntry
  | 0, c => (.s1 5 0, c)
  | l + 1, c =>
    let index := off.toNat / 2 ^ leafLog l
    let gpa := t + 8 * (index % 4096)
    let ((r, used), c) := s.levelEnt p vf space gpa l index c
    match r with
    | .stop r => (r, c)
    | .ent e _ =>
      if !bit e 0 then (.s1 (if !bit e 7 then 2 else if l = 0 then 1 else 5) l, c)
      else if bad1 e l then (.s1 5 l, c)
      else if bit e 1 then
        let (nr, nw, nx) := accNeeds acc
        if (nr && !bit e 2) || (nw && !bit e 3) || (nx && !bit e 4) || (user && !bit e 5) then (.s1 4 l, c)
        else
          let g := entAddr e + off.toNat % 2 ^ leafLog l
          match s.s2 p g nr nw nx c with
          | (.bad k, c) => (.s2 g k 7, c)
          | (.ok a log2 r2 w2 x2 cmp, c) =>
            let lg := min (leafLog l) log2
            (.ok { vf := vf, part := p, space := space, page := off.toNat / 2 ^ lg, log2 := lg,
                   dpa := a - a % 2 ^ lg, r := bit e 2 && r2, w := bit e 3 && w2, x := bit e 4 && x2,
                   u := bit e 5, cmp := cmp, gpas := gpaPage (g % 2 ^ 50) log2 :: used ++ gpas }, c)
      else
        s.s1walk p vf space off acc user (used ++ gpas) (entAddr e) l (wcAdd c ⟨p, some vf, space, l, index, used, e⟩)

/-- The whole translation of R312, with the walk cache of a die. -/
def State.walkCached (s : State) (p vf space : Nat) (off : Word) (acc : Nat) (user : Bool) (c : List WalkEntry) :
    WalkRes × List WalkEntry :=
  let sb := (s.vf vf).spbase
  if !bit sb 0 then (.s1 3 4, c)
  else
    let gpa := bits sb 49 19 * 2 ^ 19 + 8 * space
    let ((r, used), c) := s.levelEnt p vf space gpa 4 0 c
    match r with
    | .stop r => (r, c)
    | .ent e _ =>
      if !bit e 0 then (.s1 3 4, c)
      else if decide (bits e 14 1 ≠ 0 ∨ bits e 63 50 ≠ 0) then (.s1 5 4, c)
      else
        s.s1walk p vf space off acc user used (entAddr e) 4 (wcAdd c ⟨p, some vf, space, 4, 0, used, e⟩)

/-- A walk without any cache: the tables as they stand at their homes (R313). -/
def State.walk (s : State) (p vf space : Nat) (off : Word) (acc : Nat) (user : Bool) : WalkRes :=
  (s.walkCached p vf space off acc user []).1

/-! ### Translation caches and the walk queue (R314, R315) -/

/-- A cached translation serves an access: right page, and permissions that suffice. A hit that does not permit the
access walks, so that the fault it ends in is the walk's own. -/
def TlbEntry.serves (e : TlbEntry) (vf space : Nat) (off : Word) (acc : Nat) (user : Bool) : Bool :=
  let (nr, nw, nx) := accNeeds acc
  decide (e.vf = vf ∧ e.space = space ∧ e.page = off.toNat / 2 ^ e.log2) &&
    !((nr && !e.r) || (nw && !e.w) || (nx && !e.x) || (user && !e.u))

/-- The device-physical address that an entry gives. -/
def TlbEntry.pa (e : TlbEntry) (off : Word) : Nat := e.dpa + off.toNat % 2 ^ e.log2

/-- Two entries translate one page for one space. -/
def TlbEntry.same (a b : TlbEntry) : Bool := a.vf == b.vf && a.space == b.space && a.page == b.page && a.log2 == b.log2

/-- Put an entry at the front of a translation cache of `n` entries, the last falling out. -/
def tlbAdd (n : Nat) (l : List TlbEntry) (e : TlbEntry) : List TlbEntry := (e :: l.filter (fun x => !x.same e)).take n

/-- Put an entry into a die's shared TLB: 4,096 sets of 8 ways, the set being the page number modulo 4,096, the one put in first falling out
(R314, log 56). -/
def tlbAddShared (l : List TlbEntry) (e : TlbEntry) : List TlbEntry :=
  let same := fun (x : TlbEntry) => x.page % 4096 == e.page % 4096
  let rest := l.filter (fun x => !x.same e)
  e :: (rest.filter same).take 7 ++ rest.filter (fun x => !same x)

/-- What asking for a translation gives: an address with its compression attribute, a wait, or a stage-1 fault. -/
inductive Trans where
  | ok (pa : Nat) (cmp : Bool)
  | miss
  | fault (kind lvl : Nat)
  deriving DecidableEq, Repr

/-- Queue a walk, or join one of the VF, space and 64 KiB page (R315). A full queue holds the requester. -/
def Die.queueWalk (d : Die) (w : Walk) : Die :=
  if d.walks.any (fun x => x.vf == w.vf && x.space == w.space && x.off.toNat / 65536 == w.off.toNat / 65536) then d
  else if 256 ≤ (d.walks.filter (fun x => !x.started)).length then d
  else { d with walks := d.walks ++ [{ w with id := d.nextWalk }], nextWalk := d.nextWalk + 1 }

/-- Entries of the stream TLB of a core's engine (R314): 1 copy, 2 texture, 3 ray. -/
def streamCap (eng : Nat) : Nat := if eng = 1 then 64 else 16

/-- The end of a walk that answers an access to its 64 KiB page. -/
def WalkFault.here (f : WalkFault) (vf space : Nat) (off : Word) (acc : Nat) (user : Bool) : Bool :=
  f.vf == vf && f.space == space && decide (f.off.toNat / 65536 = off.toNat / 65536) && f.acc == acc && f.user == user

/-- An engine's stream TLB holds a translation that serves an access. -/
def State.streamHas (s : State) (c eng : Nat) (vf space : Nat) (off : Word) (acc : Nat) (user : Bool) : Bool :=
  (s.core c).streams.any (fun q => q.1 == eng && q.2.serves vf space off acc user)

/-- The entries of a core's stream TLB for one engine, the most recently used first. -/
def Core.stream (k : Core) (eng : Nat) : List TlbEntry := (k.streams.filter (fun q => q.1 == eng)).map (fun q => q.2)

/-- Put an entry at the front of a stream TLB, the least recently used falling out (R254, R314). -/
def State.useStream (s : State) (c eng : Nat) (e : TlbEntry) : State :=
  s.modCore c (fun k => { k with
    streams := ((tlbAdd (streamCap eng) (k.stream eng) e).map (fun x => (eng, x))) ++ k.streams.filter (fun q => q.1 != eng) })

/-- On the first touch of a page a stream asks for the next one, or for the one before where the stream's last page was the next (R254, R314). What the
prefetch finds is used by nobody yet; a fault ends it (log 56). -/
def State.prefetchPage (s : State) (c eng : Nat) (was : Option TlbEntry) (e : TlbEntry) (acc : Nat) (lv : Level) : State :=
  let down := match was with | some x => x.vf == e.vf && x.space == e.space && x.log2 == e.log2 && x.page == e.page + 1 | none => false
  if down && e.page == 0 then s
  else
    let page := if down then e.page - 1 else e.page + 1
    let off := BitVec.ofNat 64 (page * 2 ^ e.log2)
    let user := decide (lv = .user)
    if 2 ^ 64 ≤ page * 2 ^ e.log2 || s.streamHas c eng e.vf e.space off acc user then s
    else match (s.die (dieOf c)).tlb.find? (fun x => x.serves e.vf e.space off acc user) with
      | some x => (s.useStream c eng { x with touched := false }).useStream c eng e
      | none => s.modDie (dieOf c) (fun d => d.queueWalk
          { id := 0, vf := e.vf, part := e.part, space := e.space, off := off, acc := acc, level := lv, core := c, pre := some eng })

/-- A stream uses an entry of its TLB. -/
def State.touchStream (s : State) (c eng : Nat) (e : TlbEntry) (acc : Nat) (lv : Level) : State :=
  let was := ((s.core c).stream eng).head?
  let t := s.useStream c eng { e with touched := true }
  if e.touched then t else t.prefetchPage c eng was { e with touched := true } acc lv

/-- Find a translation for a requester of core `c`; engine 0 is the lanes' data TLB, others the engine's stream TLB.
A hit of the die's shared TLB is installed in the requester's own; a miss enters the walk queue. A fault that a walk ended in is
reported where the tables still say it: no cache holds a fault (R314). -/
def State.translate (s : State) (c eng p vf space : Nat) (off : Word) (acc : Nat) (lv : Level) : Trans × State :=
  let user := decide (lv = .user)
  let k := s.core c
  let own := if eng = 0 then k.tlb else k.stream eng
  match own.find? (fun e => e.serves vf space off acc user) with
  | some e => (.ok (e.pa off) e.cmp, if eng = 0 then s else s.touchStream c eng e acc lv)
  | none =>
    let d := s.die (dieOf c)
    match d.tlb.find? (fun e => e.serves vf space off acc user) with
    | some e =>
      (.ok (e.pa off) e.cmp, if eng = 0 then s.setCore c { k with tlb := tlbAdd (if isSvc c then 2048 else 64) k.tlb e }
        else s.touchStream c eng { e with touched := false } acc lv)
    | none =>
      let walk := fun (s : State) => s.modDie (dieOf c) (fun d => d.queueWalk
        { id := 0, vf := vf, part := p, space := space, off := off, acc := acc, level := lv, core := c })
      match k.wfaults.find? (fun f => f.here vf space off acc user) with
      | some f =>
        let s := s.setCore c { k with wfaults := k.wfaults.filter (fun f => !f.here vf space off acc user) }
        if s.walk p vf space off acc user = .s1 f.kind f.lvl then (.fault f.kind f.lvl, s) else (.miss, walk s)
      | none => (.miss, walk s)

/-- A walker takes the next queued miss (R315). -/
def State.startWalk (s : State) (d : Nat) : State :=
  let k := s.die d
  if 32 ≤ (k.walks.filter (fun w => w.started && w.held.isNone)).length then s
  else match k.walks.find? (fun w => !w.started) with
    | none => s
    | some w => s.modDie d (fun k => { k with walks := modWhere (fun x => x.id == w.id) (fun x => { x with started := true }) k.walks })

/-- A slot of a ring of 2^LOG2N records of `size` bytes at a CSR's BASE (R324, R338, R396). -/
def ringSlot (csr : Word) (size i : Nat) : Nat :=
  bits csr 49 12 * 4096 + size * (i % 2 ^ (min (bits csr 7 0) 12))

/-- VALID of a record: bit 63 of its last word. -/
def State.ringValid (s : State) (a size : Nat) : Bool := Nat.testBit (s.num (a + size - 8) 8) 63

/-- The stage-2 fault record of R324. -/
def s2record (w : Walk) (gpa kind lvl : Nat) : List Nat :=
  [gpa, w.off.toNat,
   w.space + w.vf * 2 ^ 16 + lvl * 2 ^ 25 + kind * 2 ^ 28 + w.acc * 2 ^ 32,
   (if isSvc w.core then 511 else w.core) + 2 ^ 63]

/-- Bytes of little-endian 64-bit words. -/
def wordsBytes (l : List Nat) : List Byte := l.flatMap (fun w => leBytes w 8)

/-- A walk in flight ends (R312): its translation is installed, its stage-1 fault is kept for the core that asked, or
its stage-2 fault holds it and goes to the partition's ring once the ring's next slot is free (R324). A prefetch that faults ends there. -/
def State.endWalk (s : State) (d id : Nat) : State :=
  let k := s.die d
  match k.walks.find? (fun w => w.id == id && w.started && w.held.isNone) with
  | none => s
  | some w =>
    let rest := k.walks.filter (fun x => x.id != id)
    let (r, wc) := s.walkCached w.part w.vf w.space w.off w.acc (decide (w.level = .user)) k.walkCache
    if w.spoiled then
      s.modDie d (fun k => { k with walks := rest ++ [{ w with started := false, spoiled := false }] })
    else match r with
      | .ok e =>
        let s := s.modDie d (fun k => { k with walks := rest, walkCache := wc, tlb := tlbAddShared k.tlb e })
        match w.pre with
        | some eng =>
          let first := ((s.core w.core).stream eng).head?
          let s := s.useStream w.core eng e
          first.elim s (s.useStream w.core eng)
        | none => s
      | .s1 kind lvl =>
        if w.pre.isSome then s.modDie d (fun k => { k with walks := rest, walkCache := wc })
        else (s.modDie d (fun k => { k with walks := rest, walkCache := wc })).modCore w.core (fun c =>
          { c with wfaults := c.wfaults ++ [⟨w.vf, w.space, w.off, w.acc, decide (w.level = .user), kind, lvl⟩] })
      | .s2 gpa kind lvl =>
        if w.pre.isSome then s.modDie d (fun k => { k with walks := rest, walkCache := wc })
        else
        let p := s.part w.part
        let a := ringSlot p.s2fq 32 p.s2tail
        if s.ringValid a 32 then s
        else
          ((s.setBytes a (wordsBytes (s2record w gpa kind lvl))).modPart w.part
            (fun p => { p with s2tail := p.s2tail + 1 })).modDie d
            (fun k => { k with walkCache := wc, walks := modWhere (fun x => x.id == id) (fun x => { x with held := some gpa }) k.walks })

/-- Drop translations and walk-cache entries, on both dies and in every core, and spoil the walks in flight that could
install one (R316). -/
def State.dropTranslations (s : State) (t : TlbEntry → Bool) (wc : WalkEntry → Bool) (wk : Walk → Bool)
    (restart : Nat → Bool) : State :=
  let keepT := fun e => !t e
  let dieF := fun (d : Die) =>
    { d with tlb := d.tlb.filter keepT, walkCache := d.walkCache.filter (fun e => !wc e),
             walks := d.walks.map (fun w =>
               match w.held with
               | some g => if restart g && wk w then { w with held := none, started := false } else w
               | none => if wk w && w.started then { w with spoiled := true } else w) }
  { s with dies := smapv {} dieF s.dies,
           cores := smapv {} (fun k => { k with tlb := k.tlb.filter keepT, streams := k.streams.filter (fun e => keepT e.2) })
             s.cores }

end Sys2Proof.Machine
end

