-- ==== Sys2Proof/Machine/Ops.lean ====
section
/-!
DEFINITION. The shared operations: results on their way, advancing and redirecting a path, waits, stalls; taking a
trap, halting a team, entering a lane handler, returning from one and escalating (R329 to R338, R427).
-/

namespace Sys2Proof.Machine

open Sys2Proof

/-! ### The issuing context -/

/-- What an instruction sees of the path that issues it, as it stands at issue. -/
structure Ctx where
  core : Nat
  slot : Nat
  k : Core
  w : Warp
  p : Path
  word : Word
  size : Nat
  deriving DecidableEq, Repr

/-- How an issue attempt ends without effect: a stall, with what the attempt itself set in motion (a queued walk), or a
trap with its cause, information word and handler lanes (`none`: the lowest active lane, R333), and the fault record of
each faulted lane (R325). -/
inductive Stop where
  | stall (c : Cause) (s : State)
  | trap (cause : Nat) (info : Word) (lanes : Option Mask) (fl : List (Nat × Word × Word))
  deriving DecidableEq, Repr

/-- An issue attempt. -/
abbrev Try (α : Type) := Except Stop α

/-- A trap whose handler lane is the lowest active lane. -/
def trapS {α : Type} (cause : Nat) (info : Word) : Try α := .error (.trap cause info none [])
/-- A trap of a vector instruction: the handler lanes are the guarded active lanes (R333). -/
def trapV {α : Type} (cause : Nat) (info : Word) (m : Mask) : Try α := .error (.trap cause info (some m) [])
/-- A stall that leaves everything as it was. -/
def stall {α : Type} (c : Cause) (s : State) : Try α := .error (.stall c s)
/-- The information word of illegal-instruction (R41). -/
def illegalInfo (reason pos : Nat) : Word := BitVec.ofNat 64 (reason + 256 * pos)

/-- The vc of the attempt. -/
def Ctx.vc (c : Ctx) : Nat := c.k.vc
/-- The issue is on a service core. -/
def Ctx.svc (c : Ctx) : Bool := isSvc c.core
/-- The active lanes: one lane on a service core (R50). -/
def Ctx.active (c : Ctx) : Mask := c.p.mask
/-- The path's number of home slices (R70, R149). -/
def Ctx.slices (c : Ctx) : Nat := (slicesOf c.p.mask).length

/-- The context of `cur`. -/
def State.ctx (s : State) : Option Ctx :=
  let k := s.core s.cur.core
  let w := k.warp s.cur.slot
  match w.path s.cur.path with
  | some p => some { core := s.cur.core, slot := s.cur.slot, k := k, w := w, p := p, word := s.cur.word, size := s.cur.size }
  | none => none

/-! ### Results on their way (R95) -/

/-- Insert a result in landing order: by issue vc, then by the lowest lane of the issuing path (R72). -/
def landInsert (l : List Landing) (e : Landing) : List Landing :=
  match l with
  | [] => [e]
  | a :: r =>
    if a.issued < e.issued ∨ a.issued = e.issued ∧ a.lane ≤ e.lane then a :: landInsert r e else e :: a :: r

/-- Send a fixed-latency result of the issuing path on its way: readable `lat` vc after issue. -/
def State.land (s : State) (c : Ctx) (lat : Nat) (w : Write) : State :=
  let e : Landing := { due := c.vc + lat, issued := c.vc, lane := lowestLane c.p.mask, w := w }
  s.modWarp c.core c.slot (fun x => { x with land := landInsert x.land e })

/-- A scalar result; a write to x0 is discarded (R89). -/
def State.landX (s : State) (c : Ctx) (lat n : Nat) (v : Word) : State :=
  if n = 0 then s else s.land c lat (.x n v)

/-- Lane results of a physical vector register. -/
def State.landV (s : State) (c : Ctx) (lat phys : Nat) (l : List (Nat × Lane)) : State :=
  if l.isEmpty then s else s.land c lat (.v phys l)

/-- Flags raised by lanes, or-ed into `fflags` when they land (R145). -/
def State.landFlags (s : State) (c : Ctx) (lat flags : Nat) : State :=
  if flags = 0 then s else s.land c lat (.fflags flags)

/-! ### Moving a path -/

/-- Change the issuing path. -/
def State.modCur (s : State) (c : Ctx) (f : Path → Path) : State := s.modPath c.core c.slot c.p.id f

/-- The path continues at the next word. -/
def State.advance (s : State) (c : Ctx) : State :=
  s.modCur c (fun p => { p with pc := p.pc + BitVec.ofNat 64 (8 * c.size) })

/-- The block base of a path's program counter (R19). -/
def blockBase (pc : Word) : Word := pc &&& ~~~63

/-- The path goes on at a target after a redirect of 2 vc; what it then waits for is the target, be it requested already as
the block after the present one (R25). -/
def Path.redirect (p : Path) (target : Word) (vc : Nat) : Path :=
  { p with pc := target, ready := vc + 3, buf := p.buf.map (fun b => match b with
      | (o, .pending l d _) => (o, .pending l d (o != target.toNat))
      | b => b) }

/-- A control transfer to a byte offset: fetch-alignment and fetch-bounds on the transferring instruction (R20, R22);
otherwise the path goes on there after a redirect of 2 vc (R25). -/
def State.jump (s : State) (c : Ctx) (target : Word) : Try State :=
  if target.toNat % 64 ≠ 0 then trapS 0x03 target
  else if c.p.csize ≤ target.toNat then trapS 0x04 target
  else .ok (s.modCur c (fun p => p.redirect target c.vc))

/-- The path waits. -/
def State.park (s : State) (c : Ctx) (w : Wait) : State := s.modCur c (fun p => { p with wait := w })

/-! ### The scratchpad's save area (R177, R333) -/

/-- Physical address of the handler save area of a slot. -/
def saveArea (slot : Nat) : Nat := 0xFE000 + 256 * slot

/-- The saved set as bytes (R333). -/
def Warp.saveBytes (w : Warp) : List Byte :=
  (List.range 15).flatMap (fun i => leBytes (w.xr (i + 1)).toNat 8) ++ leBytes w.fflags 8 ++
    (List.range 7).flatMap (fun i => leBytes (sget 0 w.p (i + 1)).toNat 8) ++
    (List.range 4).flatMap (fun i => leBytes (w.dr (i + 4)).toNat 2)

/-- Put back the saved set from its bytes. -/
def Warp.restoreSet (w : Warp) (b : List Byte) : Warp :=
  let w := (List.range 15).foldl (fun w i => w.xw (i + 1) (BitVec.ofNat 64 (fieldAt b (8 * i) 8))) w
  let w := { w with fflags := fieldAt b 0x78 8 % 32 }
  let w := (List.range 7).foldl (fun w i => { w with p := sput 0 w.p (i + 1) (BitVec.ofNat 64 (fieldAt b (0x80 + 8 * i) 8)) }) w
  (List.range 4).foldl (fun w i => w.dw (i + 4) (BitVec.ofNat 16 (fieldAt b (0xB8 + 2 * i) 2))) w

/-- The result is flags, which land after any other write of its vc (R145). -/
def Write.isFlags : Write → Bool
  | .fflags _ => true
  | _ => false

/-- A write that lands in the saved set. -/
def Write.inSaved : Write → Bool
  | .x n _ => decide (1 ≤ n ∧ n ≤ 15)
  | .p ph _ _ => decide (ph ≤ 7)
  | .d n _ => decide (4 ≤ n ∧ n ≤ 7)
  | .fflags _ => true
  | .csr n _ _ => n == 0x001
  | _ => false

/-- A pending producer of a register of the saved set; one that waits with failed data was issued before the handler. -/
def LongOp.inSaved (o : LongOp) (slot : Nat) : Bool :=
  o.slot == slot && (match o.kind, o.dest with
    | .bad .., _ => false
    | _, .x n => decide (1 ≤ n ∧ n ≤ 15)
    | _, _ => false)

/-- The producer completes without writing a register; its flags are raised all the same. -/
def LongOp.unwritten (o : LongOp) : LongOp :=
  { o with dest := .none, kind := (match o.kind with | .done _ fl => .done [] fl | k => k) }

/-- Put the saved set back at the end of a handler (R336, R338): what the handler's own instructions have yet to write there
is not written (log entry 41), but the flags that it has yet to raise are (R145), and the registers are full. -/
def Core.putBack (k : Core) (slot : Nat) (w : Warp) : Core :=
  let left := k.longs.filter (fun o => o.inSaved slot)
  let xe := left.foldl (fun (m : Mask) o => match o.dest with | .x n => m &&& ~~~(laneBit n) | _ => m) w.xe
  let w := (w.restoreSet (k.sp (saveArea slot) 256))
  { k.setWarp slot { w with xe := xe, land := w.land.filter (fun e => !e.w.inSaved || e.w.isFlags) } with
    longs := k.longs.map (fun o => if o.inSaved slot then o.unwritten else o) }

/-! ### Stalls and the end of an attempt -/

/-- Record the cause of a stall on the path (R292). -/
def State.stalled (s : State) (c : Ctx) (k : Cause) : State :=
  { s.modCur c (fun p => { p with last := k }) with cur := { s.cur with res := some k } }

/-- What an issue in `vc` leaves on its path: the GAP count starts, the counts of R290 and R293 restart, `yield` ends (R33). -/
def Path.marked (p : Path) (vc : Nat) : Path :=
  { p with lastIssue := some vc, cand := 0, boosted := false, powerHeld := 0, forced := false,
           yielded := if p.yielded = some vc then p.yielded else none, last := .issue }

/-- The issues that a warp has made in its skid. -/
def Warp.skids (w : Warp) : Nat := w.paths.foldl (fun n p => n + p.skid) 0

/-- A path has issued; a warp in its skid stops after three instructions (R331). The path that issued may have fused into
another, which has then counted its issue. -/
def State.issued (s : State) (c : Ctx) : State :=
  let sk := c.w.skidUntil.isSome
  let s := s.modCur c (fun p => { p.marked c.vc with skid := if sk then c.p.skid + 1 else p.skid })
  let skidded := sk && decide (3 ≤ (s.warp c.core c.slot).skids)
  let s := s.modWarp c.core c.slot (fun w => { w with issuedNow := true })
  let s := if skidded then s.modWarp c.core c.slot (fun w => { w with stopped := true, skidUntil := none }) else s
  { s with cur := { s.cur with res := some .issue } }

/-! ### Halting a team (R331) -/

/-- The cores and slots of a team's warps, and for twins of both teams (R331: the halt reaches both). -/
def State.haltSet (s : State) (t : Team) : List Team :=
  match t.half with
  | none => [t]
  | some h =>
    match s.team t.handle (if h = 0 then t.idx + 1 else t.idx - 1) with
    | some o => [t, o]
    | none => [t]

/-- The module table entry of a module ID: STATE, SPACE, RES, CBASE, CSIZE, ETAB (R28). -/
structure ModEntry where
  state : Nat
  space : Nat
  res : Nat
  cbase : Word
  csize : Nat
  etab : Word
  deriving DecidableEq, Repr

/-- DPA of a module's table entry (R28, R350). -/
def State.modAddr (s : State) (p m : Nat) : Nat := bits (s.part p).modtab 49 17 * 2 ^ 17 + 32 * (m % 4096)

def State.modEntry (s : State) (p m : Nat) : ModEntry :=
  let a := s.modAddr p m
  let w0 := BitVec.ofNat 64 (s.num a 8)
  { state := bits w0 1 0, space := bits w0 31 16, res := bits w0 63 32, cbase := BitVec.ofNat 64 (s.num (a + 8) 8),
    csize := s.num (a + 16) 8, etab := BitVec.ofNat 64 (s.num (a + 24) 8) }

/-- The VF whose stage-1 tables a module's registration used (R23). -/
def State.modCtxVf (s : State) (p m : Nat) : Nat := sget 0 (s.part p).modVf m - 1

/-- Read bytes at a virtual offset of a module's space at the hypervisor's identity, none where a walk or the frame
owner table refuses (R23). -/
def State.readModule (s : State) (p m : Nat) (off : Word) (n : Nat) : Option (List Byte) :=
  match s.walk p (s.modCtxVf p m) (s.modEntry p m).space off 0 false with
  | .ok e => if s.fotAllows (.hyp p) (e.pa off) false && !s.homeBad (e.pa off) e.cmp then some (s.homeBytes (e.pa off) n e.cmp) else none
  | _ => none

/-- The offset of an entry of a live module (R28, R58), none where the module is not live, has no such entry, or its table cannot be read. An entry
that the table, changed since `modreg` checked it, gives is used as it is read (log 55). -/
def State.entryOf (s : State) (p m i : Nat) : Option Word :=
  let e := s.modEntry p m
  if e.state ≠ 2 then none
  else match s.readModule p m (e.cbase - 0x10000 + 0x18) 4 with
    | none => none
    | some b =>
      if ofBytes b ≤ i then none
      else (s.readModule p m (e.etab + BitVec.ofNat 64 (8 * i)) 8).map (fun b => BitVec.ofNat 64 (ofBytes b))

/-- The handler module of a partition: its ID and the block of its entry 0, where `hmod` names one (R334). An entry that the table, changed since
`modreg` checked it, gives and that is no block of the module is none (log 55). -/
def State.handlerModule (s : State) (p : Nat) : Option (Nat × Word) :=
  let h := (s.part p).hmod
  if !bit h 12 then none
  else
    let m := bits h 11 0
    match s.entryOf p m 0 with
    | none => none
    | some off => if off.toNat % 64 ≠ 0 ∨ (s.modEntry p m).csize ≤ off.toNat then none else some (m, off)

/-- The vc in which a halt that begins now reaches a core's warps: its next one, and for a core whose vc of this moment is
still to come, the one after that. -/
def State.broadcastVc (s : State) (c : Nat) : Nat :=
  let k := s.core c
  k.vc + (if k.at_ ≤ s.pkg.now then 2 else 1)

/-- Mark a team halted, with the halt reaching its sibling warps in the next vc. -/
def State.startHalt (s : State) (t : Team) (st : TeamState) (warp : Option Nat) : State :=
  (s.haltSet t).foldl (fun s u => s.modTeam u.handle u.idx (fun x =>
    { x with state := st, haltWarp := if u.idx = t.idx then warp else x.haltWarp,
             broadcastAt := some (s.broadcastVc u.core), blockedSince := none })) s

/-- Stop every path of a warp with the skid it has. -/
def State.stopWarp (s : State) (c slot : Nat) : State :=
  s.modWarp c slot (fun w => { w with stopped := true, skidUntil := none })

/-! ### Escalation (R338) -/

/-- Write a record into a partition's team event ring, or hold it while the next slot's VALID bit is set. -/
def State.postEvent (s : State) (p : Nat) (words : List Nat) : State :=
  let q := s.part p
  let a := ringSlot q.tevq 64 q.tevTail
  if s.ringValid a 64 || !q.tevWait.isEmpty then
    s.modPart p (fun q => { q with tevWait := q.tevWait ++ [words.map (BitVec.ofNat 64)] })
  else (s.setBytes a (wordsBytes words)).modPart p (fun q => { q with tevTail := q.tevTail + 1 })

/-- The event record of an escalation (R338). -/
def escalationRecord (t : Team) (cause orig widx : Nat) (info nested hpc : Word) : List Nat :=
  [t.handle + t.idx * 2 ^ 32, cause + orig * 256 + widx * 2 ^ 16, info.toNat, nested.toNat, hpc.toNat, t.core, 0, 2 ^ 63]

/-- Escalate a team: put back the saved set where a handler ran, discard the handler path, suspend the team (both
twins), and write the event record (R338). -/
def State.escalate (s : State) (t : Team) (c slot : Nat) (cause : Nat) (nested : Word) : State :=
  let w := s.warp c slot
  let (orig, info, hpc) := match w.handler, w.halt with
    | some h, _ => (h.halt.cause, h.halt.info, h.hpc)
    | none, some h => (h.cause, h.info, h.pc)
    | none, none => (0, 0, 0)
  let s := match w.handler with
    | some h =>
      (s.modCore c (fun k => k.putBack slot w)).modWarp c slot (fun x => { x with
        paths := w.paths.filter (fun p => !p.handler), stack := w.stack.take h.depth, handler := none,
        halt := some h.halt, stopped := true })
    | none => s.stopWarp c slot
  let s := (s.haltSet t).foldl (fun s u => s.modTeam u.handle u.idx (fun x => { x with state := .suspended, broadcastAt := none })) s
  s.postEvent t.part (escalationRecord t cause orig w.widx info nested hpc)

/-! ### Taking a trap (R330, R331) -/

/-- The resume offset that a trap saves: the next block after `trap`, else the trapping instruction (R21, R335). -/
def resumeOf (cause : Nat) (pc : Word) : Word := if cause = 0x10 then blockBase pc + 64 else pc

/-- The root monitor's log gains an entry: 1 a droop trip of a rail, 2 a UCIe retry failure on a block, 3 and 4 a thermal trip of a
cluster and of an LPDDR package, 5 a mismatched block sent over a link from a die, 6 one that a display head read (R243, R294, R390, R409; log 59). -/
def State.logEvent (s : State) (kind unit : Nat) : State := s.modPkg (fun k => { k with events := k.events ++ [{ kind := kind, unit := unit }] })

/-- A write of a warp to a link peer has ended in error (R393). -/
def State.linkError (s : State) (core slot : Nat) : Bool := s.ports.any (fun p => p.2.errored.contains (64 * core + slot))

/-- A link error is reported once (R393). -/
def State.clearLinkError (s : State) (core slot : Nat) : State :=
  { s with ports := smapv {} (fun p => { p with errored := p.errored.filter (fun k => k != 64 * core + slot) }) s.ports }

/-- Blocks that turned out faulted leave the fetch buffer once the fault is raised (R26). -/
def Path.dropFaults (p : Path) : Path :=
  { p with buf := p.buf.filter (fun b => match b.2 with | .faulted .. => false | _ => true) }

/-- The lanes of a record of faults. -/
def faultedLanes (fl : List (Nat × Word × Word)) : Mask := maskOf (fl.map (fun q => q.1))

/-- A warp with the record of an access that faulted (R325). -/
def Warp.record (w : Warp) (fl : List (Nat × Word × Word)) : Warp :=
  { w with flmask := faultedLanes fl, fladdr := fl.foldl (fun m q => sput 0 m q.1 q.2.1) [], flinfo := fl.foldl (fun m q => sput 0 m q.1 q.2.2) [] }

/-- Of two numbers of engine commands of a core, the first is the older: the distance counts modulo 2^32 from the next number (R339, R340). -/
def Core.older (k : Core) (a b : Nat) : Bool := decide ((a + 2 ^ 32 - k.nextSeq) % 2 ^ 32 < (b + 2 ^ 32 - k.nextSeq) % 2 ^ 32)

/-- Hold a cause for its team, the oldest command's first (R332). -/
def State.holdAsync (s : State) (h i : Nat) (a : AsyncFault) : State :=
  s.modTeam h i (fun t =>
    let (newer, rest) := t.heldAsync.partition (fun x => (s.core t.core).older a.seq x.seq)
    { t with heldAsync := rest ++ a :: newer })

/-- A warp whose cause another warp's trap of the same vc takes the place of stops precisely (R331): its `trap` is still to be executed, the cause of a
command is held again, and a producer's failed data waits to be reported again. -/
def State.displace (s : State) (u : Team) (o : Nat) : State :=
  let slot := u.slots.getD o 32
  let w := s.warp u.core slot
  let s := (s.modWarp u.core slot (fun w => { w with halt := none })).modTeam u.handle u.idx (fun x => { x with haltWarp := none })
  match w.halt with
  | none => s
  | some h =>
    if h.async then
      s.holdAsync u.handle u.idx
        { seq := h.seq, widx := o, cause := h.cause, info := h.info, off := sget 0 w.fladdr 0, flinfo := sget 0 w.flinfo 0 }
    else match h.producer with
      | some q => s.modCore u.core (fun k => { k with longs := k.longs ++ [if h.cause = 0x14 then { q with kind := .bad [] q.lanes h.info q.kind } else q] })
      | none => if h.cause = 0x10 then s.modPath u.core slot h.path (fun p => { p with pc := h.insn }) else s

/-- Take a trap on the issuing instruction. On a compute core the warp stops every path with skid 0, the halt of its
team begins, and cause, information word, resume offset and handler lanes are kept until the handler is entered
(R331, R333). Of two traps in one vc, of a team or of twins, the lower warp index takes its own; the other warp only stops. In a skid the
instruction does not take effect and its warp stops at it. Inside a handler the trap escalates (R337). A service core
has no handler: its thread stops, with cause, information and offset in its handler CSRs. -/
def State.takeTrap (s : State) (c : Ctx) (cause : Nat) (info : Word) (lanes : Option Mask)
    (fl : List (Nat × Word × Word)) : State :=
  let s := { s.modCur c Path.dropFaults with cur := { s.cur with res := some .issue } }
  let s := if cause = 0x14 ∧ info = 0 then s.clearLinkError c.core c.slot else s
  let low := laneBit (lowestLane c.p.mask)
  let h : Halt := { cause := cause, async := false, info := info, pc := resumeOf cause c.p.pc, path := c.p.id,
                    lanes := lanes.getD low, insn := c.p.pc, size := c.size }
  if c.svc then
    s.modWarp c.core c.slot (fun w =>
      { w with stopped := true, halt := some h, fcause := cause, fcount := satInc w.fcount (2 ^ 32 - 1) 1,
               hcause := BitVec.ofNat 64 cause, hinfo := info, hpc := c.p.pc, hmask := c.p.mask })
  else match s.teamOf c.w with
    | none => s.stopWarp c.core c.slot
    | some t =>
      if c.p.handler then s.escalate t c.core c.slot 0x20 info
      else if c.w.skidUntil.isSome then s.stopWarp c.core c.slot
      else
        let other := (s.haltSet t).findSome? (fun u => if u.state = .halted then u.haltWarp.map (fun o => (u, o)) else none)
        let take := match other with
          | none => true
          | some (u, o) => decide (c.w.widx < o ∨ c.w.widx = o ∧ t.idx < u.idx)
        if !take then s.stopWarp c.core c.slot
        else
          let s := match other with
            | some (u, o) => s.displace u o
            | none => s
          let s := s.modWarp c.core c.slot (fun w =>
            { w with stopped := true, halt := some h, paths := w.paths.map (fun p => { p with skid := 0 }) })
          let s := if fl.isEmpty then s else s.modWarp c.core c.slot (fun w => w.record fl)
          -- a software trap has completed: the trapping path resumes at the next block
          let s := if cause = 0x10 then s.modCur c (fun p => { p with pc := h.pc }) else s
          s.startHalt t .halted (some c.w.widx)

/-! ### Entering a lane handler (R333, R334) -/

/-- Every register of the saved set is full, but for one whose data failed its check and whose fault waits (R427). -/
def Core.savedFull (k : Core) (slot : Nat) (w : Warp) : Bool :=
  let failed := k.longs.foldl (fun (m : Mask) o => match o.kind, o.dest with
    | .bad .., .x n => if o.slot = slot then m ||| laneBit n else m
    | _, _ => m) 0
  decide (w.xe &&& 0xFFFE &&& ~~~failed = 0)

/-- Every warp of the team (of both twins) has stopped or ended. -/
def State.teamStopped (s : State) (t : Team) : Bool :=
  (s.haltSet t).all (fun u => u.broadcastAt.isNone &&
    u.slots.all (fun sl => let w := s.warp u.core sl; !w.live || w.stopped))

/-- Enter the handler of the warp that took the cause: saved set to the save area, the HND base entry pushed, the
handler path started at entry 0 of the handler module with the handler lanes, and the handler CSRs written. It waits for
what has yet to land in the saved set (R331). With no
handler module the team is suspended with cause 0x23 (R334). -/
def State.enterHandler (s : State) (t : Team) : State :=
  match t.haltWarp with
  | none => s
  | some wi =>
    let slot := t.slots.getD wi 32
    let w := s.warp t.core slot
    match w.halt with
    | none => s
    | some h =>
      match s.handlerModule t.part with
      | none => s.escalate t t.core slot 0x23 0
      | some (m, off) =>
        if !(s.core t.core).savedFull slot w || w.land.any (fun e => e.w.inSaved) then s
        else
          let e := s.modEntry t.part m
          let k := s.core t.core
          let mid := match w.path h.path with | some p => p | none => { id := 0, mask := 0 }
          let entry : Entry := { id := w.nextEntry, tmask := h.lanes, nmask := 0, fmt := 0x00707000, rrb := 0, token := 0, hnd := true }
          let hp : Path := { id := w.nextPath, mask := h.lanes, module := m, space := BitVec.ofNat 16 e.space, cbase := e.cbase,
                             csize := e.csize, pc := off, level := .supervisor, handler := true,
                             ready := k.vc + 24 }
          let w1 : Warp := { w with
            stack := w.stack ++ [entry], nextEntry := w.nextEntry + 1, paths := w.paths ++ [hp], nextPath := w.nextPath + 1,
            fcause := h.cause, fasync := h.async, fcount := satInc w.fcount (2 ^ 32 - 1) 1,
            hcause := BitVec.ofNat 64 (h.cause + (if h.async then 256 else 0) + w.skids * 2 ^ 9 + mid.module * 2 ^ 12),
            hinfo := h.info, hpc := h.pc, hmask := mid.mask, hseq := h.seq,
            handler := some { halt := h, depth := w.stack.length, hpc := h.pc, due := k.vc + 2 ^ 20 }, halt := none }
          let k := (k.setSp (saveArea slot) w.saveBytes).setWarp slot w1
          (s.setCore t.core k).modTeam t.handle t.idx (fun x => { x with state := .inHandler })

/-! ### Returning from a handler (R336) -/

/-- A resumed path: GAP satisfied; a `sleep` has ended (R85), and an `mwait` is issued again (R326). -/
def Path.resume (p : Path) : Path :=
  { p with lastIssue := none, skid := 0, wait := (match p.wait with | .sleep _ | .mwait .. => .none | w => w) }

/-- The team's warps resume at their recorded program counters (R336). -/
def State.resumeTeam (s : State) (t : Team) : State :=
  (s.haltSet t).foldl (fun s u =>
    let s := s.modTeam u.handle u.idx (fun x => { x with state := .running, haltWarp := none, broadcastAt := none })
    u.slots.foldl (fun s sl => if (s.warp u.core sl).live then
      s.modWarp u.core sl (fun w => { w with stopped := false, skidUntil := none, paths := w.paths.map Path.resume }) else s) s) s

/-- Put a long-latency destination full. -/
def Warp.full (w : Warp) : Dest → Warp
  | .none => w
  | .x n => { w with xe := w.xe &&& ~~~(laneBit n) }
  | .v l => { w with ve := l.foldl (fun m n => m &&& ~~~(BitVec.ofNat 128 (2 ^ n))) w.ve }

/-- Mark a long-latency destination empty (R91). -/
def Warp.empty (w : Warp) : Dest → Warp
  | .none => w
  | .x n => { w with xe := w.xe ||| laneBit n }
  | .v l => { w with ve := l.foldl (fun m n => m ||| BitVec.ofNat 128 (2 ^ n)) w.ve }

/-- `eret` and `eret.skip` (R336): the checks that make it a nested fault, the saved set put back, the HND base entry
popped, the interrupted path resumed at `hpc` (or after the trapping instruction), and the team resumed. What a producer of
R427 and the journal do then is in the meaning of `eret`. -/
def State.returnFromHandler (s : State) (c : Ctx) (skip : Bool) : State :=
  match c.w.handler, s.teamOf c.w with
  | some h, some t =>
    let others := c.w.stack.drop (h.depth + 1)
    if c.p.mask ≠ h.halt.lanes ∨ !others.isEmpty then s.escalate t c.core c.slot 0x20 0
    else if c.w.hpc.toNat % 64 ≠ 0 ∧ c.w.hpc ≠ h.hpc then s.escalate t c.core c.slot 0x20 c.w.hpc
    else
      let past := h.halt.producer.isNone && skip && !h.halt.async
      let target := if past then h.halt.insn + BitVec.ofNat 64 (8 * h.halt.size) else c.w.hpc
      let s := s.modCore c.core (fun k => k.putBack c.slot c.w)
      let w := s.warp c.core c.slot
      let w := { w with paths := (w.paths.filter (fun p => !p.handler)), stack := w.stack.take h.depth, handler := none }
      let w := w.modPath h.halt.path (fun p => { p with pc := target })
      (s.setWarp c.core c.slot w).resumeTeam t
  | _, _ => s

/-! ### Running one attempt -/

/-- The weight of an instruction and whether the allowance admits it are judged after the attempt succeeds; see
`State.powerOk` below. -/
def Ctx.prio (s : State) (c : Ctx) : Nat :=
  match s.launch c.w.handle with
  | some l => fieldAt l.lpb 0x0A 1 / 16 % 4
  | none => 0

/-- The energy weight of a word in a path with `n` home slices (R293). -/
def weight (w : Word) (n : Nat) : Nat :=
  let op := bits w 47 40
  let md := bits w 7 5
  let q := (n + 3) / 4
  if op = 0x00 ∨ op = 0x0F ∨ op = 0xD7 then 0
  else if op ≤ 0x3F then 2
  else if op / 16 = 4 ∨ op = 0x6B ∨ op = 0x6C then 8 * q
  else if op = 0x57 ∨ op = 0x58 then (if md = 3 then 48 else 32) * q
  else if op = 0x59 ∨ op = 0x5A ∨ op = 0x5B then 16 * q
  else if op / 16 = 5 then (if md = 3 ∧ op ≠ 0x5D then 48 else 16) * q
  else if op = 0x60 ∨ op = 0x61 ∨ op = 0x69 ∨ op = 0x6A then 16 * q
  else if 0x62 ≤ op ∧ op ≤ 0x68 then 32 * q
  else if op = 0x77 ∨ op = 0x78 then 16 * q
  else if 0x70 ≤ op ∧ op ≤ 0x79 then 8 * q
  else if op = 0x80 ∨ op = 0x81 then 2
  else if 0x82 ≤ op ∧ op ≤ 0x89 ∨ op = 0x8B then 24 * q
  else if op = 0x91 ∨ op = 0x93 then 24 * q
  else if op = 0x96 then 16
  else if 0xA0 ≤ op ∧ op ≤ 0xA5 then 16
  else if op = 0xB2 ∨ op = 0xB3 ∨ op = 0xB4 then 8 * q
  else if op = 0xC0 ∨ op = 0xC1 ∨ op = 0xC5 ∨ op = 0xC6 ∨ op = 0xC7 ∨ op = 0xC8 ∨ op = 0xC9 then 16
  else if op = 0xF0 ∨ op = 0xF2 ∨ op = 0xF3 ∨ op = 0xF4 then 16
  else if 0xE0 ≤ op then 16 * q
  else 2

/-- R293: the cluster's allowance admits the instruction, or the path has been withheld for 4,096 vc in which it was otherwise
a candidate. -/
def State.allowance (s : State) (c : Ctx) : Bool :=
  let m := match s.launch c.w.handle with | some l => l.ocstep % 16 | none => 0
  let need : Int := (weight c.word c.slices + 256 * (3 - Ctx.prio s c) + 8 * m : Nat)
  decide (need ≤ (s.cluster (clusterOf c.core)).count) || c.p.forced

/-- R294: the slew budget of the core's partition is spent, or a droop withholds the cluster. -/
def State.slewHolds (s : State) (c : Ctx) : Bool :=
  (match s.partOfCore c.core with | some p => (s.part p).withheld | none => false) ||
    (s.rail (clusterOf c.core / 2)).withheld.any (fun q => q.1 == clusterOf c.core)

/-- R293 and R294 let the instruction issue. Service cores are outside (R408). -/
def State.powerOk (s : State) (c : Ctx) : Bool := c.svc || (s.allowance c && !s.slewHolds c)

/-- A path withheld by R293 or R294 (R292); the allowance counts those that R293 withholds. -/
def State.heldBack (s : State) (c : Ctx) : State :=
  let s := if s.allowance c then s
    else (s.modCur c (fun p => { p with short := true })).modCluster (clusterOf c.core) (fun k => { k with short := true })
  s.stalled c .power

/-- Debit the weight at issue and count it in the partition's slew window (R293, R294). -/
def State.debit (s : State) (c : Ctx) : State :=
  if c.svc then s
  else
    let e := weight c.word c.slices
    let s := s.modCluster (clusterOf c.core) (fun k => { k with count := k.count - e })
    match s.partOfCore c.core with
    | none => s
    | some p => s.modPart p (fun q => let d := q.d1 + e
        { q with d1 := d, withheld := q.withheld || decide (q.d0 + q.slew < d) })

/-- A word of rows 0x4 to 0x7, which uses the slice datapaths (R149). -/
def laneWord (w : Word) : Bool := decide (4 ≤ bits w 47 44 ∧ bits w 47 44 ≤ 7)

/-- Type-d work holds slices that the path needs, or a stack spill or fill withholds it: no other path issues on those
slices, and no lane instruction of the path itself (R74, R96, R149). -/
def Ctx.blocked (c : Ctx) : Bool :=
  decide (c.vc < c.w.holdUntil) ||
    (slicesOf c.p.mask).any (fun l =>
      let (u, o) := sget (0, 0) c.k.slices (16 * pipeOf c.slot + l)
      decide (c.vc < u) && (laneWord c.word || decide (o ≠ c.slot * 2 ^ 32 + c.p.id)))

/-- The cause charged to an attempt that busy slices or a spill hold back: another stall comes first (R292). -/
def stallCause {α : Type} : Try α → Cause
  | .error (.stall k _) => k
  | _ => .unit

/-- Run an issue attempt: a stall or a trap is taken in its place; a success is debited and the path has issued. A
state whose `cur` names no path is left as it is. -/
def State.run (s : State) (f : Ctx → Try State) : Host.Outcome State Fault Refusal :=
  match s.ctx with
  | none => .next s
  | some c =>
    if c.blocked then .next (s.stalled c (stallCause (f c)))
    else match f c with
      | .error (.stall k t) => .next (t.stalled c k)
      | .error (.trap cause info lanes fl) => .next (s.takeTrap c cause info lanes fl)
      | .ok t => if s.powerOk c then .next ((t.issued c).debit c) else .next (s.heldBack c)

end Sys2Proof.Machine
end

