-- ==== Sys2Proof/Machine/Operands.lean ====
section
/-!
DEFINITION. Operand forms: guards (R38), sources through full/empty bits (R92), destinations that must be full (R93),
poisoned granules (R173, R174), and the values of scalar, vector, predicate and immediate operands.
-/

namespace Sys2Proof.Machine

open Sys2Proof

/-! ### Guards (R38) -/

/-- The active lanes in which guard `g` (negate bit 4, predicate 3 to 0) holds. -/
def Ctx.guard (c : Ctx) (g : BitVec 5) : Mask :=
  let p := c.w.pr (physP c.p.rrb (g.toNat % 16))
  (if g.getLsbD 4 then ~~~p else p) &&& c.p.mask
/-- The guard of format N, which has no negate bit (R36). -/
def Ctx.guardN (c : Ctx) (g : BitVec 4) : Mask := c.guard (BitVec.ofNat 5 g.toNat)
/-- The scalar rule: the guard holds in at least one active lane. -/
def Ctx.on (c : Ctx) (g : BitVec 5) : Bool := decide (c.guard g ≠ 0)
def Ctx.onN (c : Ctx) (g : BitVec 4) : Bool := decide (c.guardN g ≠ 0)

/-! ### Registers of the path -/

/-- The physical vector register of a logical one under the path's `rrb` (R90). -/
def Ctx.phys (c : Ctx) (n : Nat) : Nat := physV c.p.rrb (n % 128)
/-- The physical predicate of an operand byte. -/
def Ctx.predPhys (c : Ctx) (b : BitVec 8) : Nat := physP c.p.rrb (opIdx b % 16)
/-- The value of a scalar source. -/
def Ctx.xv (c : Ctx) (b : BitVec 8) : Word := c.w.xr (opIdx b)
/-- Lane `l` of a vector source. -/
def Ctx.vv (c : Ctx) (b : BitVec 8) (l : Nat) : Lane := c.w.vr (c.phys (opIdx b)) l
/-- Lane `l` of the register pair that a vector source names: the even register holds the low half (R89). -/
def Ctx.vv2 (c : Ctx) (b : BitVec 8) (l : Nat) : Word :=
  c.w.vr (c.phys (opIdx b + 1)) l ++ c.w.vr (c.phys (opIdx b)) l
/-- A predicate source. -/
def Ctx.pv (c : Ctx) (b : BitVec 8) : Mask := c.w.pr (c.predPhys b)

/-! ### Full/empty bits (R91 to R93) -/

/-- A register operand that full/empty bits govern: its byte, the lowest bit of its field, and how many consecutive
registers it names. `gr` says which granules of a lane a vector source consumes (1 low, 2 high, 3 both). -/
inductive Opnd where
  | xs (b : BitVec 8) (pos n : Nat)
  | vs (b : BitVec 8) (pos n gr : Nat)
  | xd (b : BitVec 8)
  | vd (b : BitVec 8) (n : Nat)
  deriving DecidableEq, Repr

/-- A register of the warp that another path's producer has emptied in this vc: a source still reads as before it (R72). -/
def Ctx.justEmptied (c : Ctx) (p : Dest → Bool) : Bool :=
  c.k.longs.any (fun o => o.slot == c.slot && o.issued == c.vc && p o.dest)

/-- The registers of the operand are not all full. x0 is always full (R89). A source is judged as the vc found it (R72). -/
def Ctx.isEmpty (c : Ctx) : Opnd → Bool
  | .xs b _ n => (List.range n).any (fun i => decide (opIdx b + i ≠ 0) && c.w.xe.getLsbD (opIdx b + i) &&
      !c.justEmptied (fun d => match d with | .x m => m == opIdx b + i | _ => false))
  | .vs b _ n _ => (List.range n).any (fun i => c.w.ve.getLsbD (c.phys (opIdx b + i)) &&
      !c.justEmptied (fun d => match d with | .v l => l.contains (c.phys (opIdx b + i)) | _ => false))
  | .xd b => decide (opIdx b ≠ 0) && c.w.xe.getLsbD (opIdx b)
  | .vd b n => (List.range n).any (fun i => c.w.ve.getLsbD (c.phys (opIdx b + i)))

/-- The byte and position of a source that asks for the register-empty trap. -/
def Opnd.trapping : Opnd → Option (BitVec 8 × Nat)
  | .xs b p _ | .vs b p _ _ => if opFe b then some (b, p) else none
  | _ => none

/-- Of two sources, the one whose field lies lower in the word (R92). -/
def lowerSrc (a b : BitVec 8 × Nat) : BitVec 8 × Nat := if a.2 ≤ b.2 then a else b

/-- `read_fe` of every source and R93 for every destination: an empty source with FE set raises register-empty with
the lowest such field; otherwise anything empty stalls. -/
def Ctx.feCheck (c : Ctx) (s : State) (m : Option Mask) (ops : List Opnd) : Try Unit :=
  let e := ops.filter c.isEmpty
  match e.filterMap Opnd.trapping with
  | q :: r =>
    let (b, p) := r.foldl lowerSrc q
    .error (.trap 0x08 (BitVec.ofNat 64 (b.toNat + 256 * p)) m [])
  | [] => if e.isEmpty then .ok () else stall .fe s

/-! ### Poisoned granules (R173, R174) -/

/-- The marked granules of a physical register: lane and granule. -/
def Warp.marks (w : Warp) (phys : Nat) : List (Nat × Nat) :=
  (w.vpoison.filter (fun q => decide (q.1 / 128 = phys))).map (fun q => (q.1 / 2 % 64, q.1 % 2))

/-- The information word of a register-file error (R174). -/
def rfInfo (phys lane gran : Nat) : Word := BitVec.ofNat 64 (1 + phys * 2 ^ 8 + lane * 2 ^ 15 + gran * 2 ^ 21)

/-- Log a latent register-file error (R175). -/
def rfLog (old : Word) (slot phys lane gran : Nat) : Word :=
  let n := if bit old 0 then satInc (bits old 31 24) 255 1 else 1
  BitVec.ofNat 64 (1 + slot * 2 + phys * 2 ^ 6 + lane * 2 ^ 13 + gran * 2 ^ 19 + n * 2 ^ 24)

/-- The marked granules that the vector sources of an instruction read: register, lane, granule and whether the granule
is consumed by a lane of `m`. -/
def Ctx.poisonRead (c : Ctx) (m : Mask) (ops : List Opnd) : List (Nat × Nat × Nat × Bool) :=
  ops.flatMap (fun o => match o with
    | .vs b _ n gr => (List.range n).flatMap (fun i =>
        let ph := c.phys (opIdx b + i)
        (c.w.marks ph).map (fun q => (ph, q.1, q.2, m.getLsbD q.1 && Nat.testBit gr q.2)))
    | _ => [])

/-- How many granules of the vector sources hold a single-bit error. -/
def Ctx.singles (c : Ctx) (ops : List Opnd) : Nat :=
  ops.foldl (fun a o => match o with
    | .vs b _ n _ => (List.range n).foldl (fun a i =>
        a + (c.w.vsingle.filter (fun q => decide (q.1 / 128 = c.phys (opIdx b + i)))).length) a
    | _ => a) 0

/-- A consumed marked granule raises the integrity fault on the instruction; one that is only read is logged, each time (log 57). Of several consumed the first in the order of
operands, lanes and granules is reported, of several logged the last (log 57). Corrected errors are counted (R175). `used` are the source lanes whose bits the instruction uses, `lanes` the handler lanes of the fault. -/
def Ctx.poisonCheck (c : Ctx) (s : State) (lanes : Option Mask) (used : Mask) (ops : List Opnd) : Try State :=
  let l := c.poisonRead used ops
  match l.find? (fun q => q.2.2.2) with
  | some (ph, lane, gr, _) => .error (.trap 0x14 (rfInfo ph lane gr) lanes [])
  | none => .ok (s.modCore c.core (fun k => { k with
      rferr := l.foldl (fun r q => rfLog r c.slot q.1 q.2.1 q.2.2.1) k.rferr, rfcor := satInc k.rfcor (2 ^ 32 - 1) (c.singles ops) }))

/-- What every instruction does before its own effect: full/empty bits, then poisoned granules. `m` is the guarded
active lanes of a vector instruction, none for a scalar one. -/
def Ctx.begin (c : Ctx) (s : State) (m : Option Mask) (ops : List Opnd) : Try State :=
  match c.feCheck s m ops with
  | .error e => .error e
  | .ok () => if c.w.sound then .ok s else c.poisonCheck s m (m.getD c.p.mask) ops

/-- `begin` for an instruction that uses other source lanes than its own (R173). -/
def Ctx.beginFrom (c : Ctx) (s : State) (m : Option Mask) (used : Mask) (ops : List Opnd) : Try State :=
  match c.feCheck s m ops with
  | .error e => .error e
  | .ok () => if c.w.sound then .ok s else c.poisonCheck s m used ops

/-! ### Shapes of meanings -/

/-- A fixed-latency scalar result under the scalar guard rule. -/
def scalarOp (s : State) (g : BitVec 5) (ops : List Opnd) (lat : Nat) (d : BitVec 8) (v : Ctx → Word) :
    Host.Outcome State Fault Refusal :=
  s.run fun c => do
    let s ← c.begin s none (ops ++ [.xd d])
    .ok ((if c.on g then s.landX c lat (opIdx d) (v c) else s).advance c)

/-- A scalar instruction with an effect of its own under the scalar guard rule. -/
def scalarDo (s : State) (g : BitVec 5) (ops : List Opnd) (f : Ctx → State → Try State) :
    Host.Outcome State Fault Refusal :=
  s.run fun c => do
    let s ← c.begin s none ops
    if c.on g then do
      let s ← f c s
      .ok (s.advance c)
    else .ok (s.advance c)

/-- A fixed-latency lane result in one vector register under the per-lane guard. -/
def laneOp (s : State) (g : BitVec 5) (ops : List Opnd) (lat : Nat) (d : BitVec 8) (v : Ctx → Nat → Lane) :
    Host.Outcome State Fault Refusal :=
  s.run fun c => do
    let m := c.guard g
    let s ← c.begin s (some m) (ops ++ [.vd d 1])
    .ok ((s.landV c lat (c.phys (opIdx d)) ((lanesOf m).map (fun l => (l, v c l)))).advance c)

/-- A fixed-latency predicate result in the guarded active lanes. -/
def predOp (s : State) (g : BitVec 5) (ops : List Opnd) (vec : Bool) (lat : Nat) (d : BitVec 8) (v : Ctx → Mask) :
    Host.Outcome State Fault Refusal :=
  s.run fun c => do
    let m := c.guard g
    let s ← c.begin s (if vec then some m else none) ops
    .ok ((if m = 0 then s else s.land c lat (.p (c.predPhys d) m (v c))).advance c)

end Sys2Proof.Machine
end

