-- ==== Sys2Proof/Machine/Flags.lean ====
section
/-!
DEFINITION. Flags: the condition codes of compares (R115), the exception bits of `fflags` and `mflags` (R145, R208),
and the completion-flag counters (R97).
-/

namespace Sys2Proof.Machine

open Sys2Proof

/-- A condition code of R115 on `n`-bit values. -/
def condHolds {n : Nat} (code : Nat) (a b : BitVec n) : Bool :=
  match code with
  | 0 => decide (a = b)
  | 1 => decide (a ≠ b)
  | 2 => decide (a.toInt < b.toInt)
  | 3 => decide (a.toInt ≤ b.toInt)
  | 4 => decide (a.toNat < b.toNat)
  | 5 => decide (a.toNat ≤ b.toNat)
  | 6 => decide (a &&& b ≠ 0)
  | _ => decide (a &&& b = 0)

/-- The exception bits (R145, R208). -/
def flNX : Nat := 1
def flUF : Nat := 2
def flOF : Nat := 4
def flDZ : Nat := 8
def flNV : Nat := 16

/-- `flag_inc` (R97, R106): 15 names no flag; a counter that would pass 63 stalls the instruction. -/
def Ctx.flagInc (c : Ctx) (s : State) (f : Nat) : Try State :=
  if f = 15 then .ok s
  else
    let n := (s.warp c.core c.slot).fr f
    if 63 ≤ n then stall .flfull s else .ok (s.modWarp c.core c.slot (fun w => w.fw f (n + 1)))

/-- `flag_dec` for the warp of a team (R97, R106): discarded where that warp has ended. -/
def State.flagDec (s : State) (core slot handle team f : Nat) : State :=
  let w := s.warp core slot
  if f = 15 ∨ !w.live ∨ w.handle ≠ handle ∨ w.team ≠ team then s
  else s.modWarp core slot (fun w => w.fw f (w.fr f - 1))

/-- The SIG value of an operand byte (R40). -/
def sigOf (b : BitVec 8) : Nat := b.toNat % 16

end Sys2Proof.Machine
end

