-- ==== Sys2Proof/Machine/Floats.lean ====
section
/-!
DEFINITION. Number formats (R126 to R142): decoding an element exactly, rounding an exact value under a mode, and the
exact operations of R156 to R161 on elements given as numbers.
-/

namespace Sys2Proof.Machine

open Sys2Proof

/-- A floating-point format (R126): fraction bits, exponent bits, and whether it is E4M3, which has no infinities. -/
structure Ffmt where
  fb : Nat
  eb : Nat
  e4m3 : Bool := false
  deriving DecidableEq, Repr

def f64 : Ffmt := { fb := 52, eb := 11 }
def f32 : Ffmt := { fb := 23, eb := 8 }
def f16 : Ffmt := { fb := 10, eb := 5 }
def bf16 : Ffmt := { fb := 7, eb := 8 }
def e5m2 : Ffmt := { fb := 2, eb := 5 }
def e4m3 : Ffmt := { fb := 3, eb := 4, e4m3 := true }

namespace Ffmt

def width (F : Ffmt) : Nat := 1 + F.eb + F.fb
def bias (F : Ffmt) : Nat := 2 ^ (F.eb - 1) - 1
/-- Exponent of the min normal. -/
def emin (F : Ffmt) : Int := 1 - (F.bias : Int)
/-- The max finite value is `maxM` x 2^`maxQ`. -/
def maxM (F : Ffmt) : Nat := if F.e4m3 then 14 else 2 ^ (F.fb + 1) - 1
def maxQ (F : Ffmt) : Int := if F.e4m3 then 5 else (F.bias : Int) - F.fb
def signBit (F : Ffmt) (neg : Bool) : Nat := if neg then 2 ^ (F.width - 1) else 0
/-- The canonical NaN (R128). -/
def nan (F : Ffmt) : Nat := if F.e4m3 then 0x7F else (2 ^ F.eb - 1) * 2 ^ F.fb + 2 ^ (F.fb - 1)
def inf (F : Ffmt) (neg : Bool) : Nat := F.signBit neg + (2 ^ F.eb - 1) * 2 ^ F.fb
def zero (F : Ffmt) (neg : Bool) : Nat := F.signBit neg
/-- ±M. -/
def maxFinite (F : Ffmt) (neg : Bool) : Nat :=
  F.signBit neg + (if F.e4m3 then 0x7E else (2 ^ F.eb - 1) * 2 ^ F.fb - 1)

end Ffmt

/-- An element's value: a NaN, an infinity, or a signed `m` x 2^`e` (a zero when `m` is 0). -/
inductive Fv where
  | nan (signalling : Bool)
  | inf (neg : Bool)
  | num (neg : Bool) (m : Nat) (e : Int)
  deriving DecidableEq, Repr

/-- The value of an element, without FTZ. -/
def Ffmt.decode (F : Ffmt) (bits : Nat) : Fv :=
  let neg := Nat.testBit bits (F.width - 1)
  let e := bits / 2 ^ F.fb % 2 ^ F.eb
  let f := bits % 2 ^ F.fb
  if F.e4m3 && decide (e = 15 ∧ f = 7) then .nan false
  else if !F.e4m3 && decide (e = 2 ^ F.eb - 1) then
    (if f = 0 then .inf neg else .nan (!Nat.testBit f (F.fb - 1)))
  else if e = 0 then .num neg f (F.emin - F.fb)
  else .num neg (f + 2 ^ F.fb) ((e : Int) - F.bias - F.fb)

/-- The bits are a subnormal. -/
def Ffmt.isSub (F : Ffmt) (bits : Nat) : Bool :=
  decide (bits / 2 ^ F.fb % 2 ^ F.eb = 0 ∧ bits % 2 ^ F.fb ≠ 0)

/-- The value of an element as an operation reads it: under FTZ a subnormal is a zero of its sign (R139). -/
def Ffmt.read (F : Ffmt) (ftz : Bool) (bits : Nat) : Fv :=
  if ftz && F.isSub bits then .num (Nat.testBit bits (F.width - 1)) 0 0 else F.decode bits

/-! ### Exact magnitudes -/

/-- An exact positive magnitude: `m` x 2^`e`, `a` / `b` x 2^`e`, or the square root of `m` x 2^`e`. -/
inductive Mag where
  | dy (m : Nat) (e : Int)
  | quo (a b : Nat) (e : Int)
  | root (m : Nat) (e : Int)
  deriving DecidableEq, Repr

/-- The integer square root below 2^n. -/
def isqrtN (m : Nat) : Nat → Nat → Nat
  | 0, r => r
  | n + 1, r => isqrtN m n (if (r + 2 ^ n) * (r + 2 ^ n) ≤ m then r + 2 ^ n else r)
def isqrt (m : Nat) : Nat := isqrtN m (Nat.log2 m / 2 + 1) 0

/-- 2^max(i, 0). -/
def pw (i : Int) : Nat := 2 ^ i.toNat

/-- floor(x / 2^k), and whether that is exact. -/
def Mag.floorAt (x : Mag) (k : Int) : Nat × Bool :=
  match x with
  | .dy m e => let d := pw (k - e); (m * pw (e - k) / d, decide (m * pw (e - k) % d = 0))
  | .quo a b e => let d := b * pw (k - e); (a * pw (e - k) / d, decide (a * pw (e - k) % d = 0))
  | .root m e =>
    let n := m * pw (e - 2 * k)
    let d := pw (2 * k - e)
    let r := isqrt (n / d)
    (r, decide (r * r * d = n))

/-- floor(log2 x). -/
def Mag.log2 (x : Mag) : Int :=
  match x with
  | .dy m e => (Nat.log2 m : Int) + e
  | .quo a b e =>
    let c := (Nat.log2 a : Int) - Nat.log2 b + e
    if ((Mag.quo a b e).floorAt c).1 = 0 then c - 1 else c
  | .root m e => ((Nat.log2 m : Int) + e) / 2

/-! ### Rounding (R136 to R140) -/

/-- How an instruction rounds: the mode, FTZ, and whether it is a narrowing conversion with SAT. -/
structure Rm where
  mode : Nat
  ftz : Bool := false
  sat : Bool := false
  deriving DecidableEq, Repr

/-- The next state of a lane's xorshift generator (R140). -/
def srNext (s : Lane) : Lane :=
  let s := s ^^^ (s <<< 13)
  let s := s ^^^ (s >>> 17)
  s ^^^ (s <<< 5)

/-- The magnitude rounds up at spacing 2^q. `r` is the draw under SR. -/
def roundUp (mode : Nat) (neg : Bool) (x : Mag) (q : Int) (r : Nat) : Bool :=
  let (n, ex) := x.floorAt q
  if ex then false
  else match mode with
    | 0 => let (h, hex) := x.floorAt (q - 1); decide (h % 2 = 1) && (!hex || decide (n % 2 = 1))
    | 1 => false
    | 2 => !neg
    | 3 => neg
    | _ =>
      let (h, hex) := x.floorAt (q - 32)
      let fr := h % 2 ^ 32
      if neg then !decide (2 ^ 32 ≤ (2 ^ 32 - fr - (if hex then 0 else 1)) + r) else decide (2 ^ 32 ≤ fr + r)

/-- `overflow_result` for a finite value (R138): bits and flags (NX 1, UF 2, OF 4, NV 16). -/
def Ffmt.overflow (F : Ffmt) (rm : Rm) (neg : Bool) : Nat × Nat :=
  let toInf := decide (rm.mode = 0 ∨ rm.mode = 4) || decide (rm.mode = 2) && !neg || decide (rm.mode = 3) && neg
  if rm.sat || !toInf then (F.maxFinite neg, 5)
  else if F.e4m3 then (F.nan, 21) else (F.inf neg, 5)

/-- `rnd` of a nonzero finite value (R137). -/
def Ffmt.rndMag (F : Ffmt) (rm : Rm) (neg : Bool) (x : Mag) (r : Nat) : Nat × Nat :=
  let e := x.log2
  if rm.ftz && decide (e < F.emin) then (F.zero neg, 3)
  else
    let q := (if e < F.emin then F.emin else e) - F.fb
    let (n, ex) := x.floorAt q
    let n' := if roundUp rm.mode neg x q r then n + 1 else n
    if F.maxM * pw (F.maxQ - q) < n' * pw (q - F.maxQ) then F.overflow rm neg
    else
      let fl := if ex then 0 else if n' < 2 ^ F.fb then 3 else 1
      (F.signBit neg + (((q + F.fb + F.bias).toNat) * 2 ^ F.fb + n' - 2 ^ F.fb), fl)

/-- `rnd` of an infinite value (R137, R138). -/
def Ffmt.rndInf (F : Ffmt) (rm : Rm) (neg : Bool) : Nat × Nat :=
  if rm.sat then (F.maxFinite neg, 0) else if F.e4m3 then (F.nan, 16) else (F.inf neg, 0)

/-- An exact result before rounding: a NaN, an infinity, a zero or a magnitude, with flags already raised. -/
inductive Ex where
  | nan (fl : Nat)
  | inf (neg : Bool) (fl : Nat)
  | zero (neg : Bool)
  | mag (neg : Bool) (x : Mag)
  deriving DecidableEq, Repr

/-- `rnd` into a format. -/
def Ffmt.rnd (F : Ffmt) (rm : Rm) (x : Ex) (r : Nat) : Nat × Nat :=
  match x with
  | .nan fl => (F.nan, fl)
  | .inf n fl => let (b, g) := F.rndInf rm n; (b, g ||| fl)
  | .zero n => (F.zero n, 0)
  | .mag n x => F.rndMag rm n x r

/-- `rnd` to an integer under a mode: the value and whether it is exact (R141). -/
def rndInt (mode : Nat) (neg : Bool) (x : Mag) (r : Nat) : Int × Bool :=
  let (n, ex) := x.floorAt 0
  let n' := if roundUp mode neg x 0 r then n + 1 else n
  (if neg then -(n' : Int) else n', ex)

/-! ### Exact arithmetic (R156, R161) -/

/-- A finite value: sign, magnitude m x 2^e. -/
structure Fin2 where
  neg : Bool
  m : Nat
  e : Int
  deriving DecidableEq, Repr

/-- The exact sum; a zero sum has sign + but under RDN, unless both operands are zeros of one sign (IEEE 754). -/
def Fin2.add (rdn : Bool) (a b : Fin2) : Fin2 :=
  if a.m = 0 ∧ b.m = 0 then ⟨if a.neg == b.neg then a.neg else rdn, 0, 0⟩
  else if a.m = 0 then b
  else if b.m = 0 then a
  else
    let e := if a.e < b.e then a.e else b.e
    let x : Int := (a.m * pw (a.e - e) : Nat)
    let y : Int := (b.m * pw (b.e - e) : Nat)
    let t := (if a.neg then -x else x) + (if b.neg then -y else y)
    if t = 0 then ⟨rdn, 0, 0⟩ else ⟨decide (t < 0), t.natAbs, e⟩

/-- The exact product. -/
def Fin2.mul (a b : Fin2) : Fin2 := ⟨a.neg != b.neg, a.m * b.m, if a.m * b.m = 0 then 0 else a.e + b.e⟩

def Fin2.ex (a : Fin2) : Ex := if a.m = 0 then .zero a.neg else .mag a.neg (.dy a.m a.e)

/-- An input is a signalling NaN. -/
def Fv.snan : Fv → Bool
  | .nan s => s
  | _ => false
def Fv.isNan : Fv → Bool
  | .nan _ => true
  | _ => false
def Fv.sign : Fv → Bool
  | .nan _ => false
  | .inf n => n
  | .num n _ _ => n
def Fv.negate : Fv → Fv
  | .nan s => .nan s
  | .inf n => .inf (!n)
  | .num n m e => .num (!n) m e

/-- NV when any of the inputs is signalling. -/
def nvIf (l : List Fv) : Nat := if l.any Fv.snan then 16 else 0

/-- A term of an exact sum. -/
inductive Term where
  | bad
  | inf (neg : Bool)
  | fin (x : Fin2)
  deriving DecidableEq, Repr

/-- The exact product of two values that are no NaN; `bad` is 0 x inf. -/
def mulTerm (a b : Fv) : Term :=
  match a, b with
  | .num n m e, .num n' m' e' => .fin (Fin2.mul ⟨n, m, e⟩ ⟨n', m', e'⟩)
  | .inf n, .num n' m _ | .num n' m _, .inf n => if m = 0 then .bad else .inf (n != n')
  | .inf n, .inf n' => .inf (n != n')
  | _, _ => .bad
def valTerm : Fv → Term
  | .num n m e => .fin ⟨n, m, e⟩
  | .inf n => .inf n
  | .nan _ => .bad

/-- The exact sum of terms: a NaN for a `bad` term or infinities of both signs. -/
def sumTerms (rdn : Bool) : List Term → Ex
  | [] => .zero false
  | t :: l =>
    let all := t :: l
    if all.any (fun t => t == .bad) then .nan 16
    else if all.any (fun t => t == .inf true) && all.any (fun t => t == .inf false) then .nan 16
    else if all.any (fun t => t == .inf true) then .inf true 0
    else if all.any (fun t => t == .inf false) then .inf false 0
    else
      let fin := fun (t : Term) => match t with | .fin x => x | _ => ⟨false, 0, 0⟩
      ((l.map fin).foldl (Fin2.add rdn) (fin t)).ex

/-- fadd, fsub, fmul, fma, fdiv, fsqrt on values (R156). -/
def fvAdd (rm : Rm) (a b : Fv) : Ex :=
  if a.isNan || b.isNan then .nan (nvIf [a, b]) else sumTerms (rm.mode == 3) [valTerm a, valTerm b]
def fvMul (a b : Fv) : Ex :=
  if a.isNan || b.isNan then .nan (nvIf [a, b]) else sumTerms false [mulTerm a b]
def fvFma (rm : Rm) (a b c : Fv) : Ex :=
  if a.isNan || b.isNan || c.isNan then .nan (nvIf [a, b, c]) else sumTerms (rm.mode == 3) [mulTerm a b, valTerm c]
def fvDiv (a b : Fv) : Ex :=
  match a, b with
  | .nan _, _ | _, .nan _ => .nan (nvIf [a, b])
  | .inf _, .inf _ => .nan 16
  | .inf n, .num n' _ _ => .inf (n != n') 0
  | .num n _ _, .inf n' => .zero (n != n')
  | .num n m e, .num n' m' e' =>
    if m = 0 ∧ m' = 0 then .nan 16
    else if m' = 0 then .inf (n != n') 8
    else if m = 0 then .zero (n != n')
    else .mag (n != n') (.quo m m' (e - e'))
def fvSqrt : Fv → Ex
  | .nan s => .nan (if s then 16 else 0)
  | .inf n => if n then .nan 16 else .inf false 0
  | .num n m e => if m = 0 then .zero n else if n then .nan 16 else .mag false (.root m e)

/-- The exact order of two values that are no NaN: -1, 0 or 1; zeros compare equal. -/
def fvCmp (a b : Fv) : Int :=
  let key := fun (v : Fv) (o : Fin2) => match v with
    | .inf n => if n then (-1 : Int) else 1
    | .num n m e => let d := Fin2.add false ⟨n, m, e⟩ ⟨!o.neg, o.m, o.e⟩; if d.m = 0 then 0 else if d.neg then -1 else 1
    | .nan _ => 0
  match a, b with
  | .inf n, .inf n' => if n = n' then 0 else if n then -1 else 1
  | .num _ _ _, .num n' m' e' => key a ⟨n', m', e'⟩
  | .inf _, _ => key a ⟨false, 0, 0⟩
  | _, .inf n' => if n' then 1 else -1
  | _, _ => 0

end Sys2Proof.Machine
end

