-- ==== Sys2Proof/Machine/FpLanes.lean ====
section
/-!
DEFINITION. Shapes shared by the lane instructions: pairs, occupied slices and units (R96, R149), long-latency results
(R91, R152), and element-wise floating-point work with its stochastic-rounding states and flags (R127, R140, R144).
-/

namespace Sys2Proof.Machine

open Sys2Proof

/-- The rounding that the path's `fmt` selects. -/
def Ctx.rm (c : Ctx) : Rm := { mode := bits c.p.fmt 2 0, ftz := bit c.p.fmt 3 }

/-- The format and the number of elements of a type (R155). -/
def typeOf (md : Nat) : Ffmt × Nat :=
  match md with
  | 0 => (f32, 1)
  | 1 => (f16, 2)
  | 2 => (bf16, 2)
  | _ => (f64, 1)

/-- A lane's source of a type as a number: a pair for type d. -/
def Ctx.raw (c : Ctx) (md : Nat) (b : BitVec 8) (l : Nat) : Nat :=
  if md = 3 then (c.vv2 b l).toNat else (c.vv b l).toNat

/-- Element `k` of `w` bits. -/
def elem (x w k : Nat) : Nat := x / 2 ^ (w * k) % 2 ^ w

/-- A vector source of a type, as an operand. -/
def vsrc (md : Nat) (b : BitVec 8) (pos : Nat) : Opnd := .vs b pos (if md = 3 then 2 else 1) 3
def vdst (md : Nat) (b : BitVec 8) : Opnd := .vd b (if md = 3 then 2 else 1)

/-- The physical registers of a destination: one, or the pair. -/
def Ctx.dregs (c : Ctx) (d : BitVec 8) (pair : Bool) : List Nat :=
  if pair then [c.phys (opIdx d), c.phys (opIdx d + 1)] else [c.phys (opIdx d)]

/-- Lane numbers as writes of a register or a pair. -/
def laneWrites (regs : List Nat) (l : List (Nat × Nat)) : List Write :=
  match regs with
  | [a] => [.v a (l.map (fun q => (q.1, BitVec.ofNat 32 q.2)))]
  | [a, b] => [.v a (l.map (fun q => (q.1, BitVec.ofNat 32 q.2))), .v b (l.map (fun q => (q.1, BitVec.ofNat 32 (q.2 / 2 ^ 32))))]
  | _ => []

/-- Fixed-latency lane results of a register or a pair. -/
def State.landLanes (s : State) (c : Ctx) (lat : Nat) (d : BitVec 8) (pair : Bool) (l : List (Nat × Nat)) : State :=
  if l.isEmpty then s else (laneWrites (c.dregs d pair) l).foldl (fun s w => s.land c lat w) s

/-- The issuing path holds its slices for `n` vc (R96). -/
def State.holdSlices (s : State) (c : Ctx) (n : Nat) : State :=
  s.modCore c.core (fun k => { k with slices := (slicesOf c.p.mask).foldl (fun m l =>
    sput (0, 0) m (16 * pipeOf c.slot + l) (c.vc + n, c.slot * 2 ^ 32 + c.p.id)) k.slices })

/-- Type-d work holds its slices for 4 vc. -/
def State.holdIfD (s : State) (c : Ctx) (md : Nat) : State := if md = 3 then s.holdSlices c 4 else s

/-- Take a unit of the core for `n` vc, or stall while it is busy (R149). -/
def State.takeUnit (s : State) (c : Ctx) (u n : Nat) : Try State :=
  if c.vc < sget 0 (s.core c.core).busy u then stall .unit s
  else .ok (s.modCore c.core (fun k => { k with busy := sput 0 k.busy u (c.vc + n) }))

/-- A long-latency producer issues: its destination becomes empty and its result is on its way (R91), its latency counted from
`delay` vc later. -/
def State.startLong (s : State) (c : Ctx) (dest : Dest) (lanes : Mask) (kind : Pending) (space : Nat := 0) (delay : Nat := 0) : State :=
  let (id, s) := s.newId c.core
  let op : LongOp := { id := id, slot := c.slot, path := c.p.id, issued := c.vc, late := delay, pc := c.p.pc, word := c.word,
                       mask := c.p.mask, lanes := lanes, dest := dest, kind := kind,
                       space := space, level := c.p.level }
  s.modCore c.core (fun k => { (k.setWarp c.slot ((k.warp c.slot).empty dest)) with longs := k.longs ++ [op] })

/-- One lane's elements in ascending order; under SR the state advances once for each (R140). -/
def runElems (sr : Bool) (w : Nat) (f : Nat → Nat → Nat × Nat) : Nat → Nat → Lane → Nat × Nat × Lane
  | 0, _, st => (0, 0, st)
  | n + 1, k, st =>
    let st := if sr then srNext st else st
    let (b, fl) := f k st.toNat
    let (x, fl', st) := runElems sr w f n (k + 1) st
    (b * 2 ^ (w * k) + x, fl ||| fl', st)

/-- Lane work: the lanes' values, the flags they raise, and the SR states after them. -/
structure LaneRes where
  vals : List (Nat × Nat)
  flags : Nat
  sr : SMap Lane
  deriving DecidableEq, Repr

/-- Element-wise work in the lanes of `m`, ascending: `f lane element draw`, elements of `w` bits, `n` to a lane. -/
def Ctx.eachLane (c : Ctx) (m : Mask) (sr : Bool) (w n : Nat) (f : Nat → Nat → Nat → Nat × Nat) : LaneRes :=
  (lanesOf m).foldl (fun r l =>
    let (x, fl, st) := runElems sr w (f l) n 0 (sget 0 r.sr l)
    { vals := r.vals ++ [(l, x)], flags := r.flags ||| fl, sr := if sr then sput 0 r.sr l st else r.sr })
    { vals := [], flags := 0, sr := c.w.sr }

/-- Store the SR states. -/
def State.setSr (s : State) (c : Ctx) (sr : SMap Lane) : State := s.modWarp c.core c.slot (fun w => { w with sr := sr })

/-- Fixed-latency element-wise work of a type: `f` on the elements of the sources. -/
def fpOp (s : State) (f : FmtA) (srcs : List (BitVec 8 × Nat)) (lat latD : Nat) (rounds : Bool)
    (g : Ctx → Ffmt → List Nat → Nat → Nat × Nat) : Host.Outcome State Fault Refusal :=
  s.run fun c => do
    let md := f.md.toNat
    let m := c.guard f.g
    let s ← c.begin s (some m) (srcs.map (fun q => vsrc md q.1 q.2) ++ [vdst md f.d])
    let (F, n) := typeOf md
    let r := c.eachLane m (rounds && c.rm.mode == 4) F.width n (fun l k d =>
      g c F (srcs.map (fun q => elem (c.raw md q.1 l) F.width k)) d)
    let lt := if md = 3 then latD else lat
    let s := ((s.setSr c r.sr).landLanes c lt f.d (md == 3) r.vals).landFlags c lt r.flags
    .ok ((s.holdIfD c md).advance c)

/-- Long-latency element-wise work on a unit: nothing but the issue slot where the guard fails in every lane (R152). -/
def longOp (s : State) (f : FmtA) (srcs : List (BitVec 8 × Nat)) (unit : Nat → Nat) (occ : Ctx → Nat) (rounds : Bool)
    (g : Ctx → Ffmt → List Nat → Nat → Nat × Nat) : Host.Outcome State Fault Refusal :=
  s.run fun c => do
    let md := f.md.toNat
    let m := c.guard f.g
    let s ← c.begin s (some m) (srcs.map (fun q => vsrc md q.1 q.2) ++ [vdst md f.d])
    if m = 0 then .ok (s.advance c)
    else
      let s ← s.takeUnit c (unit (pipeOf c.slot)) (occ c)
      let (F, n) := typeOf md
      let r := c.eachLane m (rounds && c.rm.mode == 4) F.width n (fun l k d =>
        g c F (srcs.map (fun q => elem (c.raw md q.1 l) F.width k)) d)
      let regs := c.dregs f.d (md == 3)
      let s := (s.setSr c r.sr).startLong c (.v regs) m (.done (laneWrites regs r.vals) r.flags)
      .ok ((s.holdIfD c md).advance c)

end Sys2Proof.Machine
end

