-- ==== Sys2Proof/Machine/Scalar.lean ====
section
/-!
DEFINITION. Rows 0x1 and 0x2 but for CSR access: scalar arithmetic, immediates, moves, compares (R107 to R119).
-/

namespace Sys2Proof.Machine

open Sys2Proof

/-- The two scalar sources of a row 0x1 instruction. -/
def src2 (f : FmtA) : List Opnd := [.xs f.s1 24 1, .xs f.s2 16 1]

/-- R107. -/
def execAdd (f : FmtA) (s : State) : Host.Outcome State Fault Refusal :=
  scalarOp s f.g (src2 f) 2 f.d fun c => c.xv f.s1 + c.xv f.s2

/-- R107. -/
def execSub (f : FmtA) (s : State) : Host.Outcome State Fault Refusal :=
  scalarOp s f.g (src2 f) 2 f.d fun c => c.xv f.s1 - c.xv f.s2

/-- R107. -/
def execMul (f : FmtA) (s : State) : Host.Outcome State Fault Refusal :=
  scalarOp s f.g (src2 f) 4 f.d fun c => c.xv f.s1 * c.xv f.s2

/-- Bits [127:64] of the exact product: s x s, u x u, or s x u. -/
def mulHigh (md : Nat) (a b : Word) : Word :=
  let x : Int := if md = 1 then a.toNat else a.toInt
  let y : Int := if md = 0 then b.toInt else b.toNat
  wrap64 (x * y / 2 ^ 64)

/-- R107. -/
def execMulh (f : FmtA) (s : State) : Host.Outcome State Fault Refusal :=
  scalarOp s f.g (src2 f) 4 f.d fun c => mulHigh f.md.toNat (c.xv f.s1) (c.xv f.s2)

/-- The quotient of R108. -/
def divValue (md : Nat) (a b : Word) : Word :=
  if b = 0 then BitVec.allOnes 64 else if md = 0 then wrap64 (a.toInt.tdiv b.toInt) else a / b
/-- The remainder of R108. -/
def remValue (md : Nat) (a b : Word) : Word :=
  if b = 0 then a else if md = 0 then wrap64 (a.toInt.tmod b.toInt) else a % b

/-- `div` and `rem`: the core's divider for 16 vc, the result after 20 (R95, R96). -/
def divOp (s : State) (f : FmtA) (v : Word → Word → Word) : Host.Outcome State Fault Refusal :=
  s.run fun c => do
    let s ← c.begin s none (src2 f ++ [.xd f.d])
    if c.on f.g then do
      let s ← s.takeUnit c 0 16
      .ok ((s.landX c 20 (opIdx f.d) (v (c.xv f.s1) (c.xv f.s2))).advance c)
    else .ok (s.advance c)

/-- R108. -/
def execDiv (f : FmtA) (s : State) : Host.Outcome State Fault Refusal := divOp s f (divValue f.md.toNat)

/-- R108. -/
def execRem (f : FmtA) (s : State) : Host.Outcome State Fault Refusal := divOp s f (remValue f.md.toNat)

/-- R107. -/
def execAnd (f : FmtA) (s : State) : Host.Outcome State Fault Refusal :=
  scalarOp s f.g (src2 f) 2 f.d fun c => c.xv f.s1 &&& c.xv f.s2

/-- R107. -/
def execOr (f : FmtA) (s : State) : Host.Outcome State Fault Refusal :=
  scalarOp s f.g (src2 f) 2 f.d fun c => c.xv f.s1 ||| c.xv f.s2

/-- R107. -/
def execXor (f : FmtA) (s : State) : Host.Outcome State Fault Refusal :=
  scalarOp s f.g (src2 f) 2 f.d fun c => c.xv f.s1 ^^^ c.xv f.s2

/-- R107: bits [63:6] of the amount are ignored. -/
def execShl (f : FmtA) (s : State) : Host.Outcome State Fault Refusal :=
  scalarOp s f.g (src2 f) 2 f.d fun c => c.xv f.s1 <<< ((c.xv f.s2).toNat % 64)

/-- R107. -/
def execShr (f : FmtA) (s : State) : Host.Outcome State Fault Refusal :=
  scalarOp s f.g (src2 f) 2 f.d fun c => c.xv f.s1 >>> ((c.xv f.s2).toNat % 64)

/-- R107. -/
def execSar (f : FmtA) (s : State) : Host.Outcome State Fault Refusal :=
  scalarOp s f.g (src2 f) 2 f.d fun c => (c.xv f.s1).sshiftRight ((c.xv f.s2).toNat % 64)

/-- The lesser of two words, signed (MOD 0) or unsigned. -/
def minValue {n : Nat} (md : Nat) (a b : BitVec n) : BitVec n :=
  if (if md = 0 then decide (a.toInt ≤ b.toInt) else decide (a.toNat ≤ b.toNat)) then a else b
/-- The greater of two words. -/
def maxValue {n : Nat} (md : Nat) (a b : BitVec n) : BitVec n :=
  if (if md = 0 then decide (a.toInt ≤ b.toInt) else decide (a.toNat ≤ b.toNat)) then b else a

/-- R107. -/
def execMin (f : FmtA) (s : State) : Host.Outcome State Fault Refusal :=
  scalarOp s f.g (src2 f) 2 f.d fun c => minValue f.md.toNat (c.xv f.s1) (c.xv f.s2)

/-- R107. -/
def execMax (f : FmtA) (s : State) : Host.Outcome State Fault Refusal :=
  scalarOp s f.g (src2 f) 2 f.d fun c => maxValue f.md.toNat (c.xv f.s1) (c.xv f.s2)

/-- Leading zeros, trailing zeros or set bits; 64 for the first two of 0. -/
def bitCount (md : Nat) (a : Word) : Nat :=
  if md = 2 then popc a.toNat 64
  else if md = 0 then 64 - (match (idxs 64 (fun k => a.getLsbD k)).getLast? with | some k => k + 1 | none => 0)
  else (idxs 64 (fun k => a.getLsbD k)).headD 64

/-- R107. -/
def execBitc (f : FmtA) (s : State) : Host.Outcome State Fault Refusal :=
  scalarOp s f.g [.xs f.s1 24 1] 2 f.d fun c => BitVec.ofNat 64 (bitCount f.md.toNat (c.xv f.s1))

/-- R109: the predicate in the lowest active lane selects. -/
def execSel (f : FmtA) (s : State) : Host.Outcome State Fault Refusal :=
  scalarOp s f.g (src2 f) 2 f.d fun c =>
    if (c.pv f.s3).getLsbD (lowestLane c.p.mask) then c.xv f.s1 else c.xv f.s2

/-- The sign-extended 19-bit immediate. -/
def imm19 (f : FmtI) : Word := f.imm.signExtend 64

/-- R110. -/
def execAddi (f : FmtI) (s : State) : Host.Outcome State Fault Refusal :=
  scalarOp s f.g [.xs f.s1 24 1] 2 f.d fun c => c.xv f.s1 + imm19 f

/-- R110. -/
def execAndi (f : FmtI) (s : State) : Host.Outcome State Fault Refusal :=
  scalarOp s f.g [.xs f.s1 24 1] 2 f.d fun c => c.xv f.s1 &&& imm19 f

/-- R110. -/
def execOri (f : FmtI) (s : State) : Host.Outcome State Fault Refusal :=
  scalarOp s f.g [.xs f.s1 24 1] 2 f.d fun c => c.xv f.s1 ||| imm19 f

/-- R110. -/
def execXori (f : FmtI) (s : State) : Host.Outcome State Fault Refusal :=
  scalarOp s f.g [.xs f.s1 24 1] 2 f.d fun c => c.xv f.s1 ^^^ imm19 f

/-- R111: the kind is IMM[7:6], the amount IMM[5:0]. -/
def execShi (f : FmtI) (s : State) : Host.Outcome State Fault Refusal :=
  scalarOp s f.g [.xs f.s1 24 1] 2 f.d fun c =>
    let n := f.imm.toNat % 64
    match f.imm.toNat / 64 % 4 with
    | 0 => c.xv f.s1 <<< n
    | 1 => c.xv f.s1 >>> n
    | _ => (c.xv f.s1).sshiftRight n

/-- R112: the literal of the next slot. -/
def execLim (f : FmtI) (lit : Word) (s : State) : Host.Outcome State Fault Refusal :=
  scalarOp s f.g [] 2 f.d fun _ => lit

/-- R113, MOD 0. -/
def execMov (f : FmtA) (s : State) : Host.Outcome State Fault Refusal :=
  scalarOp s f.g [.xs f.s1 24 1] 2 f.d fun c => c.xv f.s1

/-- R113, MOD 1: a domain register, zero-extended. -/
def execMovDomain (f : FmtA) (s : State) : Host.Outcome State Fault Refusal :=
  scalarOp s f.g [] 2 f.d fun c => (c.w.dr (opIdx f.s1)).setWidth 64

/-- R114. -/
def execLea (f : FmtA) (s : State) : Host.Outcome State Fault Refusal :=
  scalarOp s f.g (src2 f) 2 f.d fun c => c.xv f.s1 + (c.xv f.s2 <<< f.md.toNat) + f.s3.signExtend 64

/-- R115: the result goes into every active lane of D whose guard holds. -/
def execCmp (f : FmtA) (s : State) : Host.Outcome State Fault Refusal :=
  predOp s f.g (src2 f) false 2 f.d fun c =>
    if condHolds f.md.toNat (c.xv f.s1) (c.xv f.s2) then BitVec.allOnes 64 else 0

/-- R115: a 16-bit immediate, sign-extended; the condition is IMM[18:16]. -/
def execCmpi (f : FmtI) (s : State) : Host.Outcome State Fault Refusal :=
  predOp s f.g [.xs f.s1 24 1] false 2 f.d fun c =>
    if condHolds (f.imm.toNat / 65536) (c.xv f.s1) ((f.imm.setWidth 16).signExtend 64) then BitVec.allOnes 64 else 0

/-- A value of `fmt` is illegal (R147). -/
def fmtBad (v : Lane) : Bool :=
  let a := bits v 11 8
  let b := bits v 19 16
  let planes := fun (cls n : Nat) => match cls with
    | 0 => true
    | 1 => decide (n = 4 ∨ n = 8)
    | _ => decide (n = 12 ∨ n = 16)
  decide (5 ≤ bits v 2 0 ∨ bits v 7 6 = 3 ∨ 2 ≤ bits v 25 24 ∨ 3 ≤ a ∨ 3 ≤ b ∨ bits v 31 26 ≠ 0) ||
    !planes a (bits v 15 12 + 1) || !planes b (bits v 23 20 + 1) ||
    decide (a = 2) != decide (b = 2) || decide (a = 2 ∧ b = 2 ∧ bits v 25 24 ≠ 0) ||
    (bit v 5 && (decide (a ≠ 1 ∧ b ≠ 1) || decide (bits v 25 24 = 0)))

/-- Write the path's `fmt`, or refuse an illegal value with operand-invalid (R117, R147). -/
def setFmt (c : Ctx) (s : State) (v : Lane) : Try State :=
  if fmtBad v then trapS 0x09 (v.setWidth 64) else .ok (s.land c 2 (.fmt c.p.id v))

/-- R117, MOD 0. -/
def execFmtset (f : FmtA) (s : State) : Host.Outcome State Fault Refusal :=
  scalarDo s f.g [.xs f.s1 24 1] fun c s => setFmt c s ((c.xv f.s1).setWidth 32)

/-- R117, MOD 1: only the bits that S2 masks. -/
def execFmtsetM (f : FmtA) (s : State) : Host.Outcome State Fault Refusal :=
  scalarDo s f.g (src2 f) fun c s =>
    let m := (c.xv f.s2).setWidth 32
    setFmt c s ((c.p.fmt &&& ~~~m) ||| ((c.xv f.s1).setWidth 32 &&& m))

/-- R118. -/
def execDset (f : FmtA) (s : State) : Host.Outcome State Fault Refusal :=
  scalarDo s f.g [.xs f.s1 24 1] fun c s => .ok (s.land c 2 (.d (opIdx f.d) ((c.xv f.s1).setWidth 16)))

/-- R119: reference time in ns. -/
def execRdtime (f : FmtA) (s : State) : Host.Outcome State Fault Refusal :=
  scalarOp s f.g [] 6 f.d fun _ => BitVec.ofNat 64 s.ns

/-- R42: nothing but the issue slot. -/
def execNop (_f : FmtA) (s : State) : Host.Outcome State Fault Refusal := s.run fun c => .ok (s.advance c)

end Sys2Proof.Machine
end

