-- ==== Sys2Proof/WellFormed.lean ====
section
/-!
DEFINITION. When an instruction is well formed: no legality condition of R41 is broken.
-/

namespace Sys2Proof

open Sys2Proof.Machine

/-- A well-formed instruction. -/
def wf (i : Instr) : Bool := decide (legality i = none)

end Sys2Proof
end

