-- ==== Sys2Proof/Decode.lean ====
section
/-!
DEFINITION. The decoder: total on any bytes, an instruction with its control field and the rest, or a rejection by
name (R32 to R49). After it the encoder, from the same tables of the spec.
-/

namespace Sys2Proof

open Sys2Proof.Machine

/-- Why bytes decode to no instruction. -/
inductive DecodeError where
  /-- Fewer bytes than the word, or than a format-L word and its literal, take. -/
  | truncated
  /-- The word raises illegal-instruction with this reason at this bit position (R41). -/
  | illegal (reason pos : Nat)
  deriving DecidableEq, Repr

/-- The control field of a word (R32). -/
def ctlOf (w : Word) : Ctl := { gap := w.extractLsb' 60 4, wait := w.extractLsb' 48 12 }
/-- The OP field (R36). -/
def opOf (w : Word) : BitVec 8 := w.extractLsb' 40 8
/-- The fields of format A (R36). -/
def fmtA (w : Word) : FmtA :=
  { d := w.extractLsb' 32 8, s1 := w.extractLsb' 24 8, s2 := w.extractLsb' 16 8, s3 := w.extractLsb' 8 8,
    md := w.extractLsb' 5 3, g := w.extractLsb' 0 5 }
/-- The fields of formats I and L (R36). -/
def fmtI (w : Word) : FmtI :=
  { d := w.extractLsb' 32 8, s1 := w.extractLsb' 24 8, imm := w.extractLsb' 5 19, g := w.extractLsb' 0 5 }
/-- The fields of format J (R36). -/
def fmtJ (w : Word) : FmtJ := { off := w.extractLsb' 5 35, g := w.extractLsb' 0 5 }
/-- The fields of format M (R36). -/
def fmtM (w : Word) : FmtM :=
  { t := w.extractLsb' 32 8, b := w.extractLsb' 24 8, dom := w.extractLsb' 21 3, scope := w.extractLsb' 18 3,
    ord := w.extractLsb' 16 2, wid := w.extractLsb' 13 3, off := w.extractLsb' 5 8, g := w.extractLsb' 0 5 }
/-- The fields of format N (R36). -/
def fmtN (w : Word) : FmtN :=
  { d := w.extractLsb' 32 8, b := w.extractLsb' 24 8, s := w.extractLsb' 16 8, dom := w.extractLsb' 13 3,
    scope := w.extractLsb' 10 3, ord := w.extractLsb' 8 2, aop := w.extractLsb' 4 4, g := w.extractLsb' 0 4 }

/-- Row 0x0 of the opcode map, format A (R47). -/
def row0A (f : FmtA) : Nat → Option Instr
  | 0 => some (.nop f)
  | 5 => some (.brx f)
  | 6 => some (.jmpx f)
  | 8 => some (.ret f)
  | 11 => some (.exit f)
  | 13 => some (.ipref f)
  | 14 => some (.elect f)
  | 15 => some (.yield f)
  | _ => none

/-- Row 0x1 of the opcode map, format A (R47). -/
def row1A (f : FmtA) : Nat → Option Instr
  | 0 => some (.add f)
  | 1 => some (.sub f)
  | 2 => some (.mul f)
  | 3 => some (.mulh f)
  | 4 => some (.div f)
  | 5 => some (.rem f)
  | 6 => some (.and f)
  | 7 => some (.or f)
  | 8 => some (.xor f)
  | 9 => some (.shl f)
  | 10 => some (.shr f)
  | 11 => some (.sar f)
  | 12 => some (.min f)
  | 13 => some (.max f)
  | 14 => some (.bitc f)
  | 15 => some (.sel f)
  | _ => none

/-- Row 0x2 of the opcode map, format A (R47). -/
def row2A (f : FmtA) : Nat → Option Instr
  | 6 => some (if f.md = 1 then .movDomain f else .mov f)
  | 7 => some (.lea f)
  | 8 => some (.cmp f)
  | 13 => some (if f.md = 1 then .fmtsetM f else .fmtset f)
  | 14 => some (.dset f)
  | 15 => some (.rdtime f)
  | _ => none

/-- Row 0x3 of the opcode map, format A (R47). -/
def row3A (f : FmtA) : Nat → Option Instr
  | 0 => some (.pand f)
  | 1 => some (.por f)
  | 2 => some (.pxor f)
  | 3 => some (.pnot f)
  | 4 => some (.pmov f)
  | 5 => some (.pcount f)
  | 6 => some (.pfirst f)
  | 7 => some (.vcmp f)
  | 8 => some (.vfcmp f)
  | 9 => some (.pset f)
  | 10 => some (.pget f)
  | _ => none

/-- Row 0x4 of the opcode map, format A (R47). -/
def row4A (f : FmtA) : Nat → Option Instr
  | 0 => some (.vadd f)
  | 1 => some (.vsub f)
  | 2 => some (.vmul f)
  | 3 => some (.vmulh f)
  | 4 => some (.vmad f)
  | 5 => some (.vand f)
  | 6 => some (.vor f)
  | 7 => some (.vxor f)
  | 8 => some (.vshl f)
  | 9 => some (.vshr f)
  | 10 => some (.vsar f)
  | 11 => some (.vmin f)
  | 12 => some (.vmax f)
  | 13 => some (.vabn f)
  | 14 => some (.vsel f)
  | _ => none

/-- Row 0x5 of the opcode map, format A (R47). -/
def row5A (f : FmtA) : Nat → Option Instr
  | 0 => some (.fadd f)
  | 1 => some (.fsub f)
  | 2 => some (.fmul f)
  | 3 => some (.fma f)
  | 4 => some (.fmin f)
  | 5 => some (.fmax f)
  | 6 => some (.fabn f)
  | 7 => some (.fdiv f)
  | 8 => some (.fsqrt f)
  | 9 => some (.fdot2 f)
  | 10 => some (.fdot4 f)
  | 11 => some (.vdot4 f)
  | 12 => some (.fclass f)
  | 13 => some (.frnd f)
  | _ => none

/-- Row 0x6 of the opcode map, format A (R47). -/
def row6A (f : FmtA) : Nat → Option Instr
  | 0 => some (.cvt f)
  | 1 => some (.cvtsr f)
  | 2 => some (.vrcp f)
  | 3 => some (.vrsq f)
  | 4 => some (.vexp2 f)
  | 5 => some (.vlog2 f)
  | 6 => some (.vsin f)
  | 7 => some (.vcos f)
  | 8 => some (.vtanh f)
  | 9 => some (.vqnt f)
  | 10 => some (.vdeq f)
  | 11 => some (.vpack f)
  | 12 => some (.vunpack f)
  | _ => none

/-- Row 0x7 of the opcode map, format A (R47). -/
def row7A (f : FmtA) : Nat → Option Instr
  | 0 => some (.vmov f)
  | 1 => some (.vbcast f)
  | 2 => some (.vext f)
  | 3 => some (.vins f)
  | 4 => some (.vperm f)
  | 5 => some (.vshfl f)
  | 6 => some (.vlane f)
  | 7 => some (.red f)
  | 8 => some (.scan f)
  | 9 => some (.vballot f)
  | _ => none

/-- Row 0x9 of the opcode map, format A (R47). -/
def row9A (f : FmtA) : Nat → Option Instr
  | 5 => some (.phase f)
  | 7 => some (.mjoin f)
  | _ => none

/-- Row 0xA of the opcode map, format A (R47). -/
def rowAA (f : FmtA) : Nat → Option Instr
  | 0 => some (.mzero f)
  | 1 => some (.mmul f)
  | 2 => some (.mmull f)
  | 3 => some (.mmulm f)
  | 4 => some (.mplane f)
  | 5 => some (.mout f)
  | _ => none

/-- Row 0xB of the opcode map, format A (R47). -/
def rowBA (f : FmtA) : Nat → Option Instr
  | 0 => some (.tgive f)
  | 1 => some (.ttake f)
  | 2 => some (.trow f)
  | 3 => some (.twrow f)
  | 4 => some (.spzero f)
  | _ => none

/-- Row 0xC of the opcode map, format A (R47). -/
def rowCA (svc : Bool) (f : FmtA) : Nat → Option Instr
  | 0 => some (.qpush f)
  | 1 => some (.qpushv f)
  | 2 => some (.qpop f)
  | 3 => some (.qpopv f)
  | 4 => some (.qpeek f)
  | 5 => some (.cpy f)
  | 6 => some (.cpyz f)
  | 7 => some (.wdq f)
  | 8 => some (.launch f)
  | 9 => some (if svc then (if f.md = 1 then .scallReply f else if f.md = 2 then .scallLaunch f else .scallUp f) else .scall f)
  | 10 => some (if f.md = 1 then .fcallDone f else .fcall f)
  | _ => none

/-- Row 0xD of the opcode map, format A (R47). -/
def rowDA (f : FmtA) : Nat → Option Instr
  | 0 => some (.bar f)
  | 2 => some (.gred f)
  | 3 => some (.ident f)
  | 5 => some (.tleft f)
  | 6 => some (if f.md = 1 then .clkreqArm f else .clkreq f)
  | _ => none

/-- Row 0xE of the opcode map, format A (R47). -/
def rowEA (f : FmtA) : Nat → Option Instr
  | 0 => some (if f.md = 1 then .eretSkip f else .eret f)
  | 1 => some (.mapfp f)
  | 2 => some (if f.md = 1 then .tlbinvSpace f else if f.md = 2 then .tlbinvPage f else if f.md = 3 then .tlbinvS2all f else if f.md = 4 then .tlbinvS2page f else .tlbinvAll f)
  | 3 => some (if f.md = 1 then .icinvRange f else .icinvMod f)
  | 4 => some (.modreg f)
  | 5 => some (if f.md = 1 then .modrelNb f else .modrel f)
  | 6 => some (.frscrub f)
  | 7 => some (.fotset f)
  | 8 => some (.wmset f)
  | 9 => some (.vfsave f)
  | 10 => some (.vfrest f)
  | 11 => some (if f.md = 1 then .ctxsaveKill f else .ctxsave f)
  | 12 => some (.ctxrest f)
  | _ => none

/-- Row 0xF of the opcode map, format A (R47). -/
def rowFA (f : FmtA) : Nat → Option Instr
  | 0 => some (.rdraw f)
  | 1 => some (.pxout f)
  | 2 => some (.tsample f)
  | 3 => some (.tfetch f)
  | 4 => some (.rtrace f)
  | 5 => some (.rhit f)
  | 6 => some (.disc f)
  | 7 => some (.attr f)
  | _ => none

/-- Row 0x0 of the opcode map, format I (R47). -/
def row0I (f : FmtI) : Nat → Option Instr
  | 9 => some (.rejoin f)
  | 12 => some (.trap f)
  | _ => none

/-- Row 0x2 of the opcode map, format I (R47). -/
def row2I (lit : Word) (f : FmtI) : Nat → Option Instr
  | 0 => some (.addi f)
  | 1 => some (.andi f)
  | 2 => some (.ori f)
  | 3 => some (.xori f)
  | 4 => some (.shi f)
  | 5 => some (.lim f lit)
  | 9 => some (.cmpi f)
  | 10 => some (.csrr f)
  | 11 => some (.csrw f)
  | 12 => some (.csrs f)
  | _ => none

/-- Row 0x4 of the opcode map, format I (R47). -/
def row4I (f : FmtI) : Nat → Option Instr
  | 15 => some (.vaddi f)
  | _ => none

/-- Row 0x7 of the opcode map, format I (R47). -/
def row7I (f : FmtI) : Nat → Option Instr
  | 10 => some (.rrbset f)
  | _ => none

/-- Row 0x9 of the opcode map, format I (R47). -/
def row9I (f : FmtI) : Nat → Option Instr
  | 6 => some (.mfence f)
  | 8 => some (.sstep f)
  | _ => none

/-- Row 0xA of the opcode map, format I (R47). -/
def rowAI (f : FmtI) : Nat → Option Instr
  | 6 => some (.mcfg f)
  | _ => none

/-- Row 0xD of the opcode map, format I (R47). -/
def rowDI (f : FmtI) : Nat → Option Instr
  | 1 => some (.gbar f)
  | 4 => some (if f.imm.getLsbD 9 then .leaseMeas f else .lease f)
  | 7 => some (.sleep f)
  | _ => none

/-- Row 0x0 of the opcode map, format J (R47). -/
def row0J (f : FmtJ) : Nat → Option Instr
  | 1 => some (.br f)
  | 2 => some (.brc f)
  | 3 => some (.brany f)
  | 4 => some (.brall f)
  | 7 => some (.call f)
  | 10 => some (.loop f)
  | _ => none

/-- Row 0x8 of the opcode map, format M (R47). -/
def row8M (f : FmtM) : Nat → Option Instr
  | 0 => some (.ld f)
  | 1 => some (.st f)
  | 2 => some (.vld f)
  | 3 => some (.vst f)
  | 4 => some (.vldg f)
  | 5 => some (.vstg f)
  | 6 => some (.vlds f)
  | 7 => some (.vsts f)
  | 8 => some (.spld f)
  | 9 => some (.spst f)
  | 10 => some (.dprf f)
  | 11 => some (.ldl f)
  | _ => none

/-- Row 0x9 of the opcode map, format M (R47). -/
def row9M (f : FmtM) : Nat → Option Instr
  | 4 => some (.fence f)
  | 9 => some (.mwait f)
  | _ => none

/-- Row 0x9 of the opcode map, format N (R47). -/
def row9N (f : FmtN) : Nat → Option Instr
  | 0 => some (.atom f)
  | 1 => some (.vatom f)
  | 2 => some (.cas f)
  | 3 => some (.vcas f)
  | _ => none

/-- The instruction that a word's OP and fields name (R47), none where OP is not assigned. `svc` says that the word
issues on a service core, where OP 0xC9 has the forms of R401; `lit` is the next word, the literal of format L. -/
def instrOf (svc : Bool) (w lit : Word) : Option Instr :=
  let c := (opOf w).toNat % 16
  match (opOf w).toNat / 16 with
  | 0 => (row0A (fmtA w) c) <|> (row0I (fmtI w) c) <|> (row0J (fmtJ w) c)
  | 1 => (row1A (fmtA w) c)
  | 2 => (row2A (fmtA w) c) <|> (row2I lit (fmtI w) c)
  | 3 => (row3A (fmtA w) c)
  | 4 => (row4A (fmtA w) c) <|> (row4I (fmtI w) c)
  | 5 => (row5A (fmtA w) c)
  | 6 => (row6A (fmtA w) c)
  | 7 => (row7A (fmtA w) c) <|> (row7I (fmtI w) c)
  | 8 => (row8M (fmtM w) c)
  | 9 => (row9A (fmtA w) c) <|> (row9I (fmtI w) c) <|> (row9M (fmtM w) c) <|> (row9N (fmtN w) c)
  | 10 => (rowAA (fmtA w) c) <|> (rowAI (fmtI w) c)
  | 11 => (rowBA (fmtA w) c)
  | 12 => (rowCA svc (fmtA w) c)
  | 13 => (rowDA (fmtA w) c) <|> (rowDI (fmtI w) c)
  | 14 => (rowEA (fmtA w) c)
  | 15 => (rowFA (fmtA w) c)
  | _ => none

/-- OP is in the scalar profile (R49). -/
def inProfile (op : Nat) : Bool :=
  decide (op ∈ [0x00, 0x01, 0x03, 0x04, 0x05, 0x06, 0x07, 0x08, 0x0B, 0x0C, 0x0D, 0x0F, 0x30, 0x31, 0x32, 0x33, 0x34, 0x35, 0x36, 0x39, 0x3A, 0x80, 0x81, 0x90, 0x92, 0x94, 0x99, 0xC9] ∨ 0x10 ≤ op ∧ op ≤ 0x2F ∨ 0xE0 ≤ op ∧ op ≤ 0xEC)

/-- The conditions of R41 that depend on where a word issues: format L in slot 7, and the scalar profile. -/
def placeChks (svc : Bool) (slot : Nat) (w : Word) : List Chk :=
  [ck 9 40 ((opOf w).toNat = 0x25 ∧ slot % 8 = 7), ck 11 40 (svc = true ∧ inProfile (opOf w).toNat = false)]

/-- Decode one word in a slot of its fetch block, with the word after it (R41). -/
def decodeWord (svc : Bool) (slot : Nat) (w lit : Word) : Except DecodeError (Ctl × Instr) :=
  match instrOf svc w lit with
  | none => .error (.illegal 1 40)
  | some i =>
    match reportOf (checks i ++ placeChks svc slot w) with
    | some (r, p) => .error (.illegal r p)
    | none => .ok (ctlOf w, i)

/-- The little-endian word at the head of a list of at least eight bytes (R12). -/
def wordOfBytes (l : List Byte) : Word := BitVec.ofNat 64 (ofBytes (l.take 8))

/-- Decode the instruction at the head of `bytes`, in slot `slot` of its fetch block: its control field, the
instruction and the bytes after it. -/
def decode (svc : Bool) (slot : Nat) (bytes : List Byte) : Except DecodeError (Ctl × Instr × List Byte) :=
  if bytes.length < 8 then .error .truncated
  else
    let w := wordOfBytes bytes
    let long := (opOf w).toNat = 0x25 ∧ slot % 8 ≠ 7
    if long ∧ bytes.length < 16 then .error .truncated
    else
      match decodeWord svc slot w (wordOfBytes (bytes.drop 8)) with
      | .error e => .error e
      | .ok (c, i) => .ok (c, i, bytes.drop (if long then 16 else 8))

/-- A word of format A (R36). -/
def wordA (c : Ctl) (op : BitVec 8) (f : FmtA) : Word :=
  c.gap ++ c.wait ++ op ++ f.d ++ f.s1 ++ f.s2 ++ f.s3 ++ f.md ++ f.g
/-- A word of format I or L (R36). -/
def wordI (c : Ctl) (op : BitVec 8) (f : FmtI) : Word := c.gap ++ c.wait ++ op ++ f.d ++ f.s1 ++ f.imm ++ f.g
/-- A word of format J (R36). -/
def wordJ (c : Ctl) (op : BitVec 8) (f : FmtJ) : Word := c.gap ++ c.wait ++ op ++ f.off ++ f.g
/-- A word of format M (R36). -/
def wordM (c : Ctl) (op : BitVec 8) (f : FmtM) : Word :=
  c.gap ++ c.wait ++ op ++ f.t ++ f.b ++ f.dom ++ f.scope ++ f.ord ++ f.wid ++ f.off ++ f.g
/-- A word of format N (R36). -/
def wordN (c : Ctl) (op : BitVec 8) (f : FmtN) : Word :=
  c.gap ++ c.wait ++ op ++ f.d ++ f.b ++ f.s ++ f.dom ++ f.scope ++ f.ord ++ f.aop ++ f.g

/-- The words of an instruction under a control field (R47); an autonomous step has none. -/
def encode (c : Ctl) : Instr → List Word
  | .nop f => [wordA c 0x00 f]
  | .br f => [wordJ c 0x01 f]
  | .brc f => [wordJ c 0x02 f]
  | .brany f => [wordJ c 0x03 f]
  | .brall f => [wordJ c 0x04 f]
  | .brx f => [wordA c 0x05 f]
  | .jmpx f => [wordA c 0x06 f]
  | .call f => [wordJ c 0x07 f]
  | .ret f => [wordA c 0x08 f]
  | .rejoin f => [wordI c 0x09 f]
  | .loop f => [wordJ c 0x0A f]
  | .exit f => [wordA c 0x0B f]
  | .trap f => [wordI c 0x0C f]
  | .ipref f => [wordA c 0x0D f]
  | .elect f => [wordA c 0x0E f]
  | .yield f => [wordA c 0x0F f]
  | .add f => [wordA c 0x10 f]
  | .sub f => [wordA c 0x11 f]
  | .mul f => [wordA c 0x12 f]
  | .mulh f => [wordA c 0x13 f]
  | .div f => [wordA c 0x14 f]
  | .rem f => [wordA c 0x15 f]
  | .and f => [wordA c 0x16 f]
  | .or f => [wordA c 0x17 f]
  | .xor f => [wordA c 0x18 f]
  | .shl f => [wordA c 0x19 f]
  | .shr f => [wordA c 0x1A f]
  | .sar f => [wordA c 0x1B f]
  | .min f => [wordA c 0x1C f]
  | .max f => [wordA c 0x1D f]
  | .bitc f => [wordA c 0x1E f]
  | .sel f => [wordA c 0x1F f]
  | .addi f => [wordI c 0x20 f]
  | .andi f => [wordI c 0x21 f]
  | .ori f => [wordI c 0x22 f]
  | .xori f => [wordI c 0x23 f]
  | .shi f => [wordI c 0x24 f]
  | .lim f lit => [wordI c 0x25 f, lit]
  | .mov f => [wordA c 0x26 f]
  | .movDomain f => [wordA c 0x26 f]
  | .lea f => [wordA c 0x27 f]
  | .cmp f => [wordA c 0x28 f]
  | .cmpi f => [wordI c 0x29 f]
  | .csrr f => [wordI c 0x2A f]
  | .csrw f => [wordI c 0x2B f]
  | .csrs f => [wordI c 0x2C f]
  | .fmtset f => [wordA c 0x2D f]
  | .fmtsetM f => [wordA c 0x2D f]
  | .dset f => [wordA c 0x2E f]
  | .rdtime f => [wordA c 0x2F f]
  | .pand f => [wordA c 0x30 f]
  | .por f => [wordA c 0x31 f]
  | .pxor f => [wordA c 0x32 f]
  | .pnot f => [wordA c 0x33 f]
  | .pmov f => [wordA c 0x34 f]
  | .pcount f => [wordA c 0x35 f]
  | .pfirst f => [wordA c 0x36 f]
  | .vcmp f => [wordA c 0x37 f]
  | .vfcmp f => [wordA c 0x38 f]
  | .pset f => [wordA c 0x39 f]
  | .pget f => [wordA c 0x3A f]
  | .vadd f => [wordA c 0x40 f]
  | .vsub f => [wordA c 0x41 f]
  | .vmul f => [wordA c 0x42 f]
  | .vmulh f => [wordA c 0x43 f]
  | .vmad f => [wordA c 0x44 f]
  | .vand f => [wordA c 0x45 f]
  | .vor f => [wordA c 0x46 f]
  | .vxor f => [wordA c 0x47 f]
  | .vshl f => [wordA c 0x48 f]
  | .vshr f => [wordA c 0x49 f]
  | .vsar f => [wordA c 0x4A f]
  | .vmin f => [wordA c 0x4B f]
  | .vmax f => [wordA c 0x4C f]
  | .vabn f => [wordA c 0x4D f]
  | .vsel f => [wordA c 0x4E f]
  | .vaddi f => [wordI c 0x4F f]
  | .fadd f => [wordA c 0x50 f]
  | .fsub f => [wordA c 0x51 f]
  | .fmul f => [wordA c 0x52 f]
  | .fma f => [wordA c 0x53 f]
  | .fmin f => [wordA c 0x54 f]
  | .fmax f => [wordA c 0x55 f]
  | .fabn f => [wordA c 0x56 f]
  | .fdiv f => [wordA c 0x57 f]
  | .fsqrt f => [wordA c 0x58 f]
  | .fdot2 f => [wordA c 0x59 f]
  | .fdot4 f => [wordA c 0x5A f]
  | .vdot4 f => [wordA c 0x5B f]
  | .fclass f => [wordA c 0x5C f]
  | .frnd f => [wordA c 0x5D f]
  | .cvt f => [wordA c 0x60 f]
  | .cvtsr f => [wordA c 0x61 f]
  | .vrcp f => [wordA c 0x62 f]
  | .vrsq f => [wordA c 0x63 f]
  | .vexp2 f => [wordA c 0x64 f]
  | .vlog2 f => [wordA c 0x65 f]
  | .vsin f => [wordA c 0x66 f]
  | .vcos f => [wordA c 0x67 f]
  | .vtanh f => [wordA c 0x68 f]
  | .vqnt f => [wordA c 0x69 f]
  | .vdeq f => [wordA c 0x6A f]
  | .vpack f => [wordA c 0x6B f]
  | .vunpack f => [wordA c 0x6C f]
  | .vmov f => [wordA c 0x70 f]
  | .vbcast f => [wordA c 0x71 f]
  | .vext f => [wordA c 0x72 f]
  | .vins f => [wordA c 0x73 f]
  | .vperm f => [wordA c 0x74 f]
  | .vshfl f => [wordA c 0x75 f]
  | .vlane f => [wordA c 0x76 f]
  | .vballot f => [wordA c 0x79 f]
  | .red f => [wordA c 0x77 f]
  | .scan f => [wordA c 0x78 f]
  | .rrbset f => [wordI c 0x7A f]
  | .ld f => [wordM c 0x80 f]
  | .st f => [wordM c 0x81 f]
  | .vld f => [wordM c 0x82 f]
  | .vst f => [wordM c 0x83 f]
  | .vldg f => [wordM c 0x84 f]
  | .vstg f => [wordM c 0x85 f]
  | .vlds f => [wordM c 0x86 f]
  | .vsts f => [wordM c 0x87 f]
  | .spld f => [wordM c 0x88 f]
  | .spst f => [wordM c 0x89 f]
  | .dprf f => [wordM c 0x8A f]
  | .ldl f => [wordM c 0x8B f]
  | .atom f => [wordN c 0x90 f]
  | .vatom f => [wordN c 0x91 f]
  | .cas f => [wordN c 0x92 f]
  | .vcas f => [wordN c 0x93 f]
  | .fence f => [wordM c 0x94 f]
  | .phase f => [wordA c 0x95 f]
  | .mfence f => [wordI c 0x96 f]
  | .mjoin f => [wordA c 0x97 f]
  | .sstep f => [wordI c 0x98 f]
  | .mwait f => [wordM c 0x99 f]
  | .mzero f => [wordA c 0xA0 f]
  | .mmul f => [wordA c 0xA1 f]
  | .mmull f => [wordA c 0xA2 f]
  | .mmulm f => [wordA c 0xA3 f]
  | .mplane f => [wordA c 0xA4 f]
  | .mout f => [wordA c 0xA5 f]
  | .mcfg f => [wordI c 0xA6 f]
  | .tgive f => [wordA c 0xB0 f]
  | .ttake f => [wordA c 0xB1 f]
  | .trow f => [wordA c 0xB2 f]
  | .twrow f => [wordA c 0xB3 f]
  | .spzero f => [wordA c 0xB4 f]
  | .qpush f => [wordA c 0xC0 f]
  | .qpushv f => [wordA c 0xC1 f]
  | .qpop f => [wordA c 0xC2 f]
  | .qpopv f => [wordA c 0xC3 f]
  | .qpeek f => [wordA c 0xC4 f]
  | .cpy f => [wordA c 0xC5 f]
  | .cpyz f => [wordA c 0xC6 f]
  | .wdq f => [wordA c 0xC7 f]
  | .launch f => [wordA c 0xC8 f]
  | .scall f => [wordA c 0xC9 f]
  | .scallUp f => [wordA c 0xC9 f]
  | .scallReply f => [wordA c 0xC9 f]
  | .scallLaunch f => [wordA c 0xC9 f]
  | .fcall f => [wordA c 0xCA f]
  | .fcallDone f => [wordA c 0xCA f]
  | .bar f => [wordA c 0xD0 f]
  | .gbar f => [wordI c 0xD1 f]
  | .gred f => [wordA c 0xD2 f]
  | .ident f => [wordA c 0xD3 f]
  | .lease f => [wordI c 0xD4 f]
  | .leaseMeas f => [wordI c 0xD4 f]
  | .tleft f => [wordA c 0xD5 f]
  | .clkreq f => [wordA c 0xD6 f]
  | .clkreqArm f => [wordA c 0xD6 f]
  | .sleep f => [wordI c 0xD7 f]
  | .eret f => [wordA c 0xE0 f]
  | .eretSkip f => [wordA c 0xE0 f]
  | .mapfp f => [wordA c 0xE1 f]
  | .tlbinvAll f => [wordA c 0xE2 f]
  | .tlbinvSpace f => [wordA c 0xE2 f]
  | .tlbinvPage f => [wordA c 0xE2 f]
  | .tlbinvS2all f => [wordA c 0xE2 f]
  | .tlbinvS2page f => [wordA c 0xE2 f]
  | .icinvMod f => [wordA c 0xE3 f]
  | .icinvRange f => [wordA c 0xE3 f]
  | .modreg f => [wordA c 0xE4 f]
  | .modrel f => [wordA c 0xE5 f]
  | .modrelNb f => [wordA c 0xE5 f]
  | .frscrub f => [wordA c 0xE6 f]
  | .fotset f => [wordA c 0xE7 f]
  | .wmset f => [wordA c 0xE8 f]
  | .vfsave f => [wordA c 0xE9 f]
  | .vfrest f => [wordA c 0xEA f]
  | .ctxsave f => [wordA c 0xEB f]
  | .ctxsaveKill f => [wordA c 0xEB f]
  | .ctxrest f => [wordA c 0xEC f]
  | .rdraw f => [wordA c 0xF0 f]
  | .pxout f => [wordA c 0xF1 f]
  | .tsample f => [wordA c 0xF2 f]
  | .tfetch f => [wordA c 0xF3 f]
  | .rtrace f => [wordA c 0xF4 f]
  | .rhit f => [wordA c 0xF5 f]
  | .disc f => [wordA c 0xF6 f]
  | .attr f => [wordA c 0xF7 f]
  | .engineWordStart => []
  | .line => []
  | .box => []
  | .fill => []
  | .zpack => []
  | .zunpack => []
  | .copyCommandComplete => []
  | .engineCommandFault => []
  | .matrixChunkStart => []
  | .matrixCommandComplete => []
  | .freezeResume => []
  | .freezeConversion => []
  | .rayBatchComplete => []
  | .wdqService => []
  | .wdqAnswer => []
  | .markerArrival => []
  | .longLatencyWriteComplete => []
  | .fetchBlockArrival => []
  | .launchValidation => []
  | .teamPlacement => []
  | .teamStart => []
  | .neighbourBalancing => []
  | .teamRetirement => []
  | .launchCompletion => []
  | .moduleVerificationComplete => []
  | .moduleReleaseComplete => []
  | .phaseBoundaryStart => []
  | .phaseBoundaryComplete => []
  | .barrierRelease => []
  | .pisteArrivalForward => []
  | .groupRelease => []
  | .groupReleaseMessage => []
  | .barrierRefresh => []
  | .refusionMismatch => []
  | .lineEviction => []
  | .writebackArrival => []
  | .writebackAck => []
  | .loadRequestArrival => []
  | .atomicAtHome => []
  | .loamRefreshWindowStart => []
  | .loamRefreshWindowEnd => []
  | .pageWalkStart => []
  | .pageWalkComplete => []
  | .haltBroadcast => []
  | .handlerEntry => []
  | .asyncFaultDelivery => []
  | .handlerWatchdogExpiry => []
  | .blockedTeamEligible => []
  | .preemptionDecision => []
  | .drainWindowEnd => []
  | .restore => []
  | .measuringIntervalEnd => []
  | .warpRotation => []
  | .pathBoost => []
  | .greedyLimit => []
  | .powerForcedIssue => []
  | .slewWindowEnd => []
  | .droopTrip => []
  | .quantRestore => []
  | .sleepEnd => []
  | .arbiterRun => []
  | .clusterIdleRelease => []
  | .grantApply => []
  | .quiescenceTimeout => []
  | .railSettled => []
  | .relockComplete => []
  | .railLower => []
  | .mwaitWake => []
  | .mwaitPoll => []
  | .rasterBatchAccept => []
  | .splitFrameForward => []
  | .mergerPerform => []
  | .drawBatchComplete => []
  | .scallBatchComplete => []
  | .regulatorTick => []
  | .verticalBlank => []
  | .dhbaseWrite => []
  | .dhselClr => []
  | .scselClr => []
  | .rferrClear => []
  | .sperrClear => []
  | .l1errClear => []
  | .srseedWrite => []
  | .hmodWrite => []
  | .gkindWrite => []
  | .partitionCreate => []
  | .partitionDestroy => []
  | .vfqEnable => []
  | .vfqRunSet => []
  | .vfqRunClear => []
  | .skclkWrite => []
  | .registerWrite => []
  | .doorbell => []
  | .pcieInboundRequest => []
  | .flefinInboundRequest => []
  | .flefinResponse => []
  | .flefinTimeout => []
  | .flefinPortFailure => []
  | .ucieRetryFailure => []
  | .standbyWake => []
  | .powerOnReset => []
  | .temperatureReading => []
  | .thermalTrip => []
  | .scanOutLine => []
  | .droopWithholdEnd => []
  | .standbyEntry => []
  | .flefinPortTraining => []
  | .frscrubComplete => []
  | .icinvComplete => []

/-- The bytes of words in memory (R12). -/
def wordBytes (l : List Word) : List Byte := l.flatMap (fun w => leBytes w.toNat 8)

/-- An instruction whose OP has other forms on a service core (R401). -/
def isSvcForm : Instr → Bool
  | .scallUp _ | .scallReply _ | .scallLaunch _ => true
  | _ => false

/-- The instruction that the decoder reads from the bits `w` of a table row, as a compute core decodes them. -/
def decodeTableWord (nbits w : Nat) : Option Instr :=
  match decode false 0 (leBytes (w % 2 ^ nbits) 16) with
  | .ok (_, i, _) => some i
  | .error _ => none

end Sys2Proof
end

