-- ==== Sys2Proof/Machine/L1.lean ====
section
/-!
DEFINITION. The L1 data cache and its traffic (R225 to R232, R240, R258, R266, R267, R281, R282): lines, fills and
victims, write-backs, system-cache occupancy, and where an access goes after translation.
-/

namespace Sys2Proof.Machine

open Sys2Proof

/-! ### Where an access goes -/

/-- For whom and in which space an access is made. `raw` is the root monitor's, whose offset is the device-physical
address (log 12). -/
structure Acc where
  part : Nat
  vf : Nat
  space : Nat
  level : Level
  id : Ident
  raw : Bool := false
  /-- The warp that an engine acts for (R393). -/
  slot : Nat := 32
  deriving DecidableEq, Repr

/-- Accesses of a team's context (R320). -/
def Team.acc (t : Team) (space : Nat) (lv : Level) : Acc :=
  { part := t.part, vf := t.vf, space := space, level := lv, id := ⟨some t.vf, some t.part, lv⟩ }

/-- The access of the issuing path in the space of a domain register. A hypervisor's is made in the VF that `vfsel`
names, at its own identity. -/
def State.accOf (s : State) (core : Nat) (w : Warp) (lv : Level) (sp : Nat) : Acc :=
  if isSvc core then
    match s.partOfSvc core with
    | some p => { part := p, vf := (s.part p).vfsel, space := sp, level := .hypervisor, id := .hyp p }
    | none => { part := 0, vf := 0, space := sp, level := .root, id := .root, raw := true }
  else match s.teamOf w with
    | some t => t.acc sp lv
    | none => { part := 0, vf := 0, space := sp, level := .user, id := ⟨none, none, .user⟩ }

def Ctx.acc (c : Ctx) (s : State) (dom : Nat) : Acc := s.accOf c.core c.w c.p.level (c.w.dr dom).toNat

/-- The Flefin window and its port (R308, R392). -/
def isFlefin (pa : Nat) : Bool := decide (3 * 2 ^ 48 ≤ pa)
def portOf (pa : Nat) : Nat := pa / 2 ^ 45 % 8
/-- The windows, whose accesses are never held in an L1. -/
def isWindow (pa : Nat) : Bool := decide (2 ^ 49 ≤ pa)

/-- The frame owner table and the ports allow the access. -/
def State.admits (s : State) (a : Acc) (pa : Nat) (write : Bool) : Bool :=
  if isFlefin pa then a.raw || Nat.testBit (s.part a.part).portMask (portOf pa)
  else s.fotAllows a.id pa write

/-- Translate and check one address (R312, R320). A hypervisor reaches only VFs of its own partition. -/
def State.locate (s : State) (core eng : Nat) (a : Acc) (off : Word) (acc : Nat) : Trans × State :=
  if a.raw then
    (if 2 ^ 50 ≤ off.toNat ∨ memTop ≤ off.toNat ∧ off.toNat < 2 ^ 49 then .fault 2 0
     else if s.admits a off.toNat (accNeeds acc).2.1 then .ok off.toNat false else .fault 6 0, s)
  else if !(s.part a.part).hasVf a.vf then (.fault 3 4, s)
  else
    match s.translate core eng a.part a.vf a.space off acc a.level with
    | (.ok pa cmp, s) => (if s.admits a pa (accNeeds acc).2.1 then .ok pa cmp else .fault 6 0, s)
    | r => r

/-- A lane's access after translation. -/
structure LaneAt where
  lane : Nat
  off : Word
  pa : Nat
  cmp : Bool
  deriving DecidableEq, Repr

/-- A lane's fault: lane, offset, and its record for `flinfo`. -/
structure LaneFault where
  lane : Nat
  off : Word
  kind : Nat
  info : Word
  deriving DecidableEq, Repr

/-- The record of an access that faults for `flinfo` (R325). -/
def flinfoOf (kind lvl acc : Nat) (user : Bool) (space : Nat) : Word :=
  BitVec.ofNat 64 (kind + lvl * 2 ^ 4 + acc * 2 ^ 7 + (if user then 2 ^ 10 else 0) + space * 2 ^ 16)

/-- Translate every lane of an access; `miss` where some lane still waits for a walk. -/
structure Located where
  ok : List LaneAt := []
  bad : List LaneFault := []
  miss : Bool := false
  deriving DecidableEq, Repr

def State.locateLanes (s : State) (core eng : Nat) (a : Acc) (acc : Nat) (l : List (Nat × Word)) : Located × State :=
  let user := decide (a.level = .user)
  let old := (s.core core).wfaults
  let keep := fun (s : State) (l : List WalkFault) => s.modCore core (fun k => { k with wfaults := l })
  let r := l.foldl (fun (r : Located × State) q =>
    match r.2.locate core eng a q.2 acc with
    | (.ok pa cmp, s) => ({ r.1 with ok := r.1.ok ++ [⟨q.1, q.2, pa, cmp⟩] }, s)
    | (.miss, s) => ({ r.1 with miss := true }, s)
    | (.fault k lv, s) =>
      ({ r.1 with bad := r.1.bad ++ [⟨q.1, q.2, k, flinfoOf k lv acc user a.space⟩] }, keep s old)) ({}, s)
  if r.1.miss then (r.1, keep r.2 old)
  else (r.1, keep r.2 (old.filter (fun f => !r.1.bad.any (fun b => f.here a.vf a.space b.off acc user))))

/-- Cause and information word of an access with faulted lanes (R325). -/
def faultCause (l : List LaneFault) : Nat := if l.any (fun q => q.kind != 6) then 0x11 else 0x12
def faultLanes (l : List LaneFault) : Mask := maskOf (l.map (fun q => q.lane))
def faultInfo (l : List LaneFault) : Word := match l with | q :: _ => q.off | [] => 0
def faultRecord (l : List LaneFault) : List (Nat × Word × Word) := l.map (fun q => (q.lane, q.off, q.info))

/-- The trap of an access with faulted lanes. -/
def trapAt {α : Type} (l : List LaneFault) : Try α :=
  .error (.trap (faultCause l) (faultInfo l) (some (faultLanes l)) (faultRecord l))

/-! ### System-cache occupancy (R230) -/

/-- The requester class of a VF's teams (R386). -/
def teamClass (vf : Nat) : Nat := 16 + 2 * vf
/-- The set of a line (R225). -/
def State.scSet (s : State) (line : Nat) : Nat :=
  let a := line * 128
  if sget 0 s.pkg.kinds (a / 2 ^ 30) % 2 = 1 then a / 2 ^ 7 % 2 ^ 16 else a / 2 ^ 7 % 32 + a / 2 ^ 13 % 2 ^ 11 * 32

/-- The least recently used of some lines. -/
def scOldest : List ScLine → Option ScLine
  | [] => none
  | a :: l => some (l.foldl (fun b x => if x.used < b.used then x else b) a)

/-- The reset value of a class's `qcfg` (R387). A written one is never 0, since BURST is not. -/
def qcfgReset (cls : Nat) : Word := BitVec.ofNat 64 (64 * 2 ^ 16 + (if cls = 2 then 0 else 2) * 2 ^ 32)
def State.qcfgOf (s : State) (unit : Nat) : Word :=
  let v := sget 0 s.pkg.qcfg unit
  if v = 0 then qcfgReset (unit % 2048) else v
/-- The way mask of a class: of its VF for a VF's classes (R387, R389). -/
def State.qwaysOf (s : State) (unit : Nat) : Nat :=
  let cls := unit % 2048
  if 16 ≤ cls then (s.vf ((cls - 16) / 2)).ways
  else match sget 0 s.pkg.qways unit with | 0 => 2 ^ 24 - 1 | n + 1 => n

/-- A fill of a line into its home's system cache by a class, on behalf of a VF or none (SYSTEM_CACHE_FILL). Only ways of
the requester's mask are candidates; of several invalid ways the lowest is taken (log 49). -/
def State.scFill (s : State) (line cls : Nat) (vf : Option Nat) : State :=
  let d := s.homeDie (line * 128)
  let die := s.die d
  let stamp := die.sc.foldl (fun m l => max m l.used) 0 + 1
  if die.sc.any (fun l => l.line == line) then
    s.modDie d (fun k => { k with sc := modWhere (fun l => l.line == line) (fun l => { l with used := stamp }) k.sc })
  else
    let ways := match vf with | some v => (s.vf v).ways | none => s.qwaysOf (cls + 2048 * d)
    let cap := bits (s.qcfgOf (cls + 2048 * d)) 43 34 * 2048
    let vcap := match vf with | some v => bits (s.vf v).vfq 15 6 * 2048 | none => 0
    let inSet := die.sc.filter (fun l => s.scSet l.line == s.scSet line)
    let mine := inSet.filter (fun l => Nat.testBit ways l.way)
    let free := (List.range 24).find? (fun w => Nat.testBit ways w && !inSet.any (fun l => l.way == w))
    let atCap := decide (cap ≠ 0 ∧ cap ≤ (die.sc.filter (fun l => l.cls == cls)).length)
    let atVcap := decide (vcap ≠ 0 ∧ vcap ≤ (die.sc.filter (fun l => l.vf == vf)).length)
    let cand := if atCap then mine.filter (fun l => l.cls == cls) else if atVcap then mine.filter (fun l => l.vf == vf) else mine
    let put := fun (w : Nat) (l : List ScLine) => l ++ [{ line := line, way := w, cls := cls, vf := vf, used := stamp }]
    match (if atCap || atVcap then none else free), scOldest cand with
    | some w, _ => s.modDie d (fun k => { k with sc := put w k.sc })
    | none, none => s
    | none, some v =>
      let own := decide (v.vf = vf)
      s.modDie d (fun k => { k with
        sc := put v.way (k.sc.filter (fun l => l.line != v.line)),
        capev := (match vf with
          | some f => if (atCap || atVcap) && own then smod 0 k.capev f (fun n => satInc n (2 ^ 32 - 1) 1) else k.capev
          | none => k.capev),
        xev := (match v.vf with
          | some f => if own then k.xev else smod 0 k.xev f (fun n => satInc n (2 ^ 32 - 1) 1)
          | none => k.xev) })

/-- The lines in which a block's stored form lies, as a read of one line through a page takes it: in a compressed page
the whole block, of which a compressed one has only its used sectors (R232, R244). -/
def State.storedLines (s : State) (line : Nat) (cmp : Bool) : List Nat :=
  let b := line / 2 * 2
  if !cmp then [line]
  else if sget false s.memCmp (line / 2) && decide (zLen (s.bytes (b * 128) 256) ≤ 128) then [b] else [b, b + 1]

/-- A read at a home brings the lines that it takes into the system cache. -/
def State.scRead (s : State) (line cls : Nat) (vf : Option Nat) (cmp : Bool) : State :=
  (s.storedLines line cmp).foldl (fun s n => s.scFill n cls vf) s

/-- The lines under `n` bytes from an address. -/
def linesOf (pa n : Nat) : List Nat := (List.range ((pa + n - 1) / 128 + 1 - pa / 128)).map (fun i => pa / 128 + i)

/-- A read of some bytes at their homes brings in every line under them. -/
def State.scReads (s : State) (pa n cls : Nat) (vf : Option Nat) (cmp : Bool) : State :=
  (linesOf pa n).foldl (fun s line => s.scRead line cls vf cmp) s

/-- A warp's read at a home, in the class of its VF's teams (R386). -/
def State.coreRead (s : State) (core slot line : Nat) (cmp : Bool) : State :=
  match s.teamOf (s.warp core slot) with
  | some t => s.scRead line (teamClass t.vf) (some t.vf) cmp
  | none => s.scRead line 0 none cmp

/-! ### Lines of an L1 -/

def lineOf (pa : Nat) : Nat := pa / 128
def Core.l1Line (k : Core) (n : Nat) : Option L1Line := k.l1.find? (fun l => l.line == n)
def Core.putL1 (k : Core) (l : L1Line) : Core := { k with l1 := l :: k.l1.filter (fun x => x.line != l.line) }
/-- Change the line with this number. -/
def Core.modL1 (k : Core) (n : Nat) (f : L1Line → L1Line) : Core := { k with l1 := modWhere (fun l => l.line == n) f k.l1 }
def Core.dropL1 (k : Core) (n : Nat) : Core := { k with l1 := k.l1.filter (fun x => x.line != n) }
/-- The byte of a line at an offset, where valid. -/
def L1Line.get (l : L1Line) (o : Nat) : Option Byte := if l.valid.getLsbD o then some (sget 0 l.data o) else none
/-- The numbers of a list without repeats. -/
def dedup (l : List Nat) : List Nat := l.foldl (fun a x => if a.contains x then a else a ++ [x]) []
/-- The L1's byte at an address, where valid. -/
def Core.l1Byte (k : Core) (pa : Nat) : Option Byte := (k.l1Line (lineOf pa)).bind (fun l => l.get (pa % 128))
/-- The L1's byte at an address, where dirty. -/
def Core.l1Dirty (k : Core) (pa : Nat) : Option Byte :=
  (k.l1Line (lineOf pa)).bind (fun l => if l.dirty.getLsbD (pa % 128) then l.get (pa % 128) else none)
/-- A valid byte's block is poisoned in the L1, or its 8-byte word has an uncorrectable error (R229). -/
def Core.l1Bad (k : Core) (pa : Nat) : Bool :=
  match k.l1Line (lineOf pa) with
  | some l => l.bad.getLsbD (pa % 128 / 64) || l.werr.getLsbD (pa % 128 / 8)
  | none => false

/-- The 8-byte words of a line with a byte in a mask, and those with all of them. -/
def touchedWords (m : BitVec 128) : BitVec 16 :=
  (List.range 16).foldl (fun v i => if bits m (8 * i + 7) (8 * i) = 0 then v else v ||| BitVec.ofNat 16 (2 ^ i)) 0
def wholeWords (m : BitVec 128) : BitVec 16 :=
  (List.range 16).foldl (fun v i => if bits m (8 * i + 7) (8 * i) = 255 then v ||| BitVec.ofNat 16 (2 ^ i) else v) 0

/-- Reads of the L1's words that hold these bytes: single-bit errors are corrected and counted in `rfcor` (R229, R182). -/
def Core.l1Seen (k : Core) (l : List Nat) : Core :=
  if k.l1.all (fun x => x.wsingle = 0) then k
  else
    let hit := (dedup (l.map (fun pa => pa / 8))).filter (fun w => match k.l1Line (w / 16) with
      | some x => x.wsingle.getLsbD (w % 16)
      | none => false)
    { k with rfcor := satInc k.rfcor (2 ^ 32 - 1) hit.length }

/-- A store of the core is performed in a line of its L1: an `mwait` that read it there reads again (R275). -/
def Core.stored (k : Core) (line : Nat) : Core :=
  let mine := fun (p : Path) => match p.wait with | .mwait m => !m.home && lineOf m.pa == line | _ => false
  if !k.warps.any (fun q => q.2.paths.any mine) then k
  else
    let note := fun (p : Path) => match p.wait with | .mwait m => { p with wait := .mwait { m with wrote := true } } | _ => p
    { k with warps := smapv {} (fun w => { w with paths := modWhere mine note w.paths }) k.warps }

/-- A home atomic of the core on a line has yet to be performed, but for those numbered `below` and more (R240). -/
def Core.atomicOn (k : Core) (line below : Nat) : Bool :=
  k.atomics.any (fun a => decide (a.id < below) && a.lanes.any (fun q => lineOf q.pa == line))

/-- Start a write-back of a line's dirty bytes. Write-backs leave the core one in a vc (R261). -/
def State.startWb (s : State) (core : Nat) (l : L1Line) (after : List Nat) (through : Bool) : Nat × State :=
  let (id, s) := s.newId core
  let k := s.core core
  let sent := k.wbs.foldl (fun m w => max m (w.sent + 1)) k.vc
  let k := k.l1Seen ((idxs 128 (fun o => l.dirty.getLsbD o)).map (fun o => l.line * 128 + o))
  let w : Writeback := { id := id, sent := sent, line := l.line, dirty := l.dirty, valid := l.valid, data := l.data, bad := l.bad,
                         werr := l.werr, cmp := l.cmp, after := after, through := through }
  (id, s.setCore core { k with wbs := k.wbs ++ [w] })

/-- Evict a line: its dirty bytes go home (LINE_EVICTION, R258). A line that replacement evicts enters the victim tag
buffer of the warp that filled it (R281). -/
def State.evict (s : State) (core line : Nat) (replaced : Bool) : State :=
  match (s.core core).l1Line line with
  | none => s
  | some l =>
    let s := if l.dirty = 0 then s else (s.startWb core l [] false).2
    let s := s.modCore core (fun k => k.dropL1 line)
    if replaced then s.modWarp core l.slot (fun w =>
      { w with victims := (w.victims ++ [line]).drop ((w.victims.length + 1) - 32) }) else s

/-- The least recently used of some lines. -/
def l1Oldest : List L1Line → Option L1Line
  | [] => none
  | a :: l => some (l.foldl (fun b x => if x.used < b.used then x else b) a)

/-- The victim of a fill, where the set is full (R282). A service core's private cache holds 16,384 lines (R276); the spec
gives it no sets and no replacement, and the model makes it fully associative, least recently used (log 54). -/
def Core.victim (k : Core) (svc : Bool) (line : Nat) : Option L1Line :=
  let same := if svc then k.l1 else k.l1.filter (fun l => l.line % 256 == line % 256)
  if same.length < (if svc then 16384 else 8) then none
  else
    let idle := same.filter (fun l => let w := k.warp l.slot; !w.live || !w.admitted)
    l1Oldest (if idle.isEmpty then same else idle)

/-- The line is present, allocated empty where it was not; a new line is the most recently used. -/
def State.l1Alloc (s : State) (core slot line : Nat) (cmp : Bool) : State :=
  match (s.core core).l1Line line with
  | some _ => s
  | none =>
    let s := match (s.core core).victim (isSvc core) line with | some v => s.evict core v.line true | none => s
    s.modCore core (fun k =>
      let k := { k.putL1 { line := line, slot := slot, used := k.clock + 1, cmp := cmp } with clock := k.clock + 1 }
      if isSvc core then { k with l1i := k.l1i.take (2 * (16384 - k.l1.length)) } else k)

/-- A line becomes the most recently used. -/
def State.l1Use (s : State) (core line : Nat) : State :=
  s.modCore core (fun k => { k.modL1 line (fun l => { l with used := k.clock + 1 }) with clock := k.clock + 1 })

/-- A warp touches a line: recency, and the sampled sets of R280. -/
def State.l1Touch (s : State) (core slot line : Nat) : State :=
  let s := s.l1Use core line
  if line % 16 = 5 then s.modWarp core slot (fun w => if w.sampled.contains line then w else { w with sampled := line :: w.sampled })
  else s

/-- A miss of a warp: a locality loss where the line is in its victim tag buffer (LOCALITY_LOSS, R281). -/
def State.l1Miss (s : State) (core slot line : Nat) : State :=
  s.modWarp core slot (fun w =>
    if w.victims.contains line then
      { w with victims := w.victims.filter (fun v => v != line), loss := satInc w.loss 65535 1,
               units := if w.fix then w.units else min (w.units + 1) 128 }
    else w)

/-- A warp's accesses to some lines, each with whether it misses. -/
def State.l1Access (s : State) (core slot : Nat) (l : List (Nat × Bool)) : State :=
  l.foldl (fun s q => (if q.2 then s.l1Miss core slot q.1 else s).l1Touch core slot q.1) s

/-- Merge a fetched line under the valid mask (R229). A clean byte of a poisoned block is fetched again. -/
def L1Line.merge (l : L1Line) (bytes : List Byte) (bad : Nat) (skip : Nat) : L1Line :=
  let take := fun (o : Nat) => !Nat.testBit skip (o / 64) &&
    (!l.valid.getLsbD o || (l.bad.getLsbD (o / 64) && !l.dirty.getLsbD o))
  let took := fun (b : Nat) => (List.range 64).any (fun i => take (64 * b + i))
  let blk := fun (b : Nat) => if took b then Nat.testBit bad b else l.bad.getLsbD b
  let all := wholeWords ((List.range 128).foldl (fun m o => if take o then m ||| BitVec.ofNat 128 (2 ^ o) else m) 0)
  { l with
    werr := l.werr &&& ~~~all, wsingle := l.wsingle &&& ~~~all,
    data := (bytes.zipIdx).foldl (fun m q => if take q.2 then sput 0 m q.2 q.1 else m) l.data,
    valid := (List.range 128).foldl (fun m o => if take o then m ||| BitVec.ofNat 128 (2 ^ o) else m) l.valid,
    bad := BitVec.ofNat 2 ((if blk 0 then 1 else 0) + (if blk 1 then 2 else 0)) }

/-- The 128 bytes of a line at its home, with its poisoned blocks. -/
def State.homeLine (s : State) (line : Nat) (cmp : Bool) : List Byte × Nat :=
  let (b, m) := s.homeBlock (line * 128) cmp
  ((b.drop (line % 2 * 128)).take 128, m / 4 ^ (line % 2) % 4)

/-- Log a poisoned block that nothing consumed (R243). -/
def l1Log (old : Word) (pa : Nat) : Word :=
  let n := if bit old 0 then satInc (bits old 53 46) 255 1 else 1
  BitVec.ofNat 64 (1 + pa / 64 % 2 ^ 44 * 2 + n * 2 ^ 46)

/-- The bytes of a core's own write-backs that have not arrived are coherence-later than their homes. -/
def Core.wbPending (k : Core) (line below : Nat) : Bool :=
  k.wbs.any (fun w => w.line == line && !w.arrived && decide (w.id < below))

/-- A write-back stores bytes of a poisoned block of its line. -/
def Writeback.poisons (w : Writeback) (b : Nat) : Bool :=
  w.bad.getLsbD b && decide (bits w.dirty (64 * b + 63) (64 * b) ≠ 0) ||
    decide (bits (w.werr &&& touchedWords w.dirty) (8 * b + 7) (8 * b) ≠ 0)

/-- A write-back makes the check word of a block anew, from 64 valid and sound bytes of the L1 (R242). -/
def Writeback.renews (w : Writeback) (b : Nat) : Bool :=
  decide (bits w.valid (64 * b + 63) (64 * b) = 2 ^ 64 - 1) && decide (bits w.dirty (64 * b + 63) (64 * b) ≠ 0) &&
    !w.bad.getLsbD b && decide (bits w.werr (8 * b + 7) (8 * b) = 0)

/-- The core's own latest store to a byte, where its write-back is under way (R228, R259). -/
def Core.ownByte (k : Core) (pa : Nat) : Option Byte :=
  k.wbs.foldl (fun r w => if w.line == lineOf pa && !w.arrived && !w.through && w.dirty.getLsbD (pa % 128) then
    some (sget 0 w.data (pa % 128)) else r) none

/-- A line as the core reads it: the home's bytes, and over them its own stores on their way there (log 50). -/
def State.seenLine (s : State) (core line : Nat) (cmp : Bool) : List Byte × Nat :=
  let k := s.core core
  let r := s.homeLine line cmp
  if !k.wbPending line k.nextId then r
  else
    let own := fun (b : Nat) => k.wbs.any (fun w => w.line == line && !w.arrived && !w.through && w.poisons b)
    (r.1.zipIdx.map (fun q => (k.ownByte (line * 128 + q.2)).getD q.1),
     (if Nat.testBit r.2 0 || own 0 then 1 else 0) + (if Nat.testBit r.2 1 || own 1 then 2 else 0))

/-- Fill one line. A prefetch does not install a mismatched block. -/
def State.l1FillLine (s : State) (core slot line : Nat) (cmp prefetch : Bool) : State :=
  let (bytes, bad) := s.seenLine core line cmp
  let s := s.l1Alloc core slot line cmp
  s.modCore core (fun k => k.modL1 line (fun l => { l.merge bytes bad (if prefetch then bad else 0) with cmp := cmp }))

/-- Mismatched blocks of a line that were filled and not consumed are logged, the last one the most recent (R243). -/
def Core.logLatent (k : Core) (line bad used : Nat) : Core :=
  ([0, 1].filter (fun b => Nat.testBit bad b && !Nat.testBit used b)).foldl (fun k b => { k with l1err := l1Log k.l1err (line * 128 + 64 * b) }) k

/-- Fill a line, of which the blocks `used` are consumed; in a compressed page both lines of its block (R232). A prefetch consumes and
installs no mismatched block (R243). -/
def State.l1Fill (s : State) (core slot line : Nat) (cmp prefetch : Bool) (used : Nat) : State :=
  let bad := (s.seenLine core line cmp).2
  let s := if cmp then
      let mate := (s.seenLine core (line ^^^ 1) true).2
      (s.l1FillLine core slot (line ^^^ 1) true prefetch).modCore core (fun k => k.logLatent (line ^^^ 1) mate 0)
    else s
  (s.l1FillLine core slot line cmp prefetch).modCore core (fun k => k.logLatent line bad used)

/-- Drop the clean part of an L1 (R267 step 2): lines without a dirty byte go, others keep only their dirty bytes. -/
def Core.dropClean (k : Core) (pick : L1Line → Bool) : Core :=
  { k with l1 := k.l1.filterMap (fun l =>
      if !pick l then some l else if l.dirty = 0 then none else some { l with valid := l.valid &&& l.dirty }) }

/-- Store listed bytes in the L1 (R229): lines allocated without reading, bytes valid and dirty; a block written whole by
one access loses its poison (R243). -/
def State.l1Store (s : State) (core slot : Nat) (ws : List (Nat × Byte)) (cmp : Bool) : State :=
  (dedup (ws.map (fun q => lineOf q.1))).foldl (fun s n =>
    let here := ws.filter (fun q => lineOf q.1 == n)
    let hit := ((s.core core).l1Line n).isSome
    let s := s.l1Access core slot [(n, !hit)]
    let s := s.l1Alloc core slot n cmp
    let m := here.foldl (fun (m : BitVec 128) q => m ||| BitVec.ofNat 128 (2 ^ (q.1 % 128))) 0
    let whole := fun (b : Nat) => decide (bits m (64 * b + 63) (64 * b) = 2 ^ 64 - 1)
    s.modCore core (fun k => (k.stored n).modL1 n (fun l =>
      { l with werr := l.werr &&& ~~~wholeWords m, wsingle := l.wsingle &&& ~~~touchedWords m,
               data := here.foldl (fun d q => sput 0 d (q.1 % 128) q.2) l.data, valid := l.valid ||| m, dirty := l.dirty ||| m,
               bad := BitVec.ofNat 2 ((if l.bad.getLsbD 0 && !whole 0 then 1 else 0) + (if l.bad.getLsbD 1 && !whole 1 then 2 else 0)),
               cmp := cmp }))) s

/-- Write back every dirty line that `pick` names, leaving it clean: the write-backs started. -/
def State.writeBack (s : State) (core : Nat) (pick : L1Line → Bool) : List Nat × State :=
  let r := ((s.core core).l1.filter (fun l => pick l && l.dirty != 0)).foldl (fun (r : List Nat × State) l =>
    let (id, s) := r.2.startWb core l [] false
    (r.1 ++ [id], s)) ([], s)
  (r.1, r.2.modCore core (fun k => { k with l1 := modWhere pick (fun l => { l with dirty := 0 }) k.l1 }))

/-- The write-backs of a core that are not yet acknowledged. -/
def Core.wbIds (k : Core) : List Nat := k.wbs.map (fun w => w.id)

/-- R266 steps 1 and 2: loads of the warp still under way, or the write-backs to wait for. -/
def Core.loading (k : Core) (slot : Nat) : Bool :=
  k.longs.any (fun o => o.slot == slot && (match o.kind with | .load .. | .tex .. | .atomic => true | _ => false))

/-- Writes of a core to Flefin peers without a response (R277). -/
def State.portWrites (s : State) (core : Nat) : Bool :=
  s.ports.any (fun p => p.2.txns.any (fun t => t.core == core && t.write))

end Sys2Proof.Machine
end

