-- ==== Sys2Proof/Machine/Issue.lean ====
section
/-!
DEFINITION. Fetch and issue evaluation (R19 to R26, R33, R34, R41, R43, R289, R292): the fetch buffer of a path, the
instruction caches, and what a path's attempt finds before its instruction's own meaning is tried.
-/

namespace Sys2Proof.Machine

open Sys2Proof

/-! ### Instruction caches (R23, R24) -/

/-- Insert a block into an instruction cache of `sets` sets and `ways` ways, least recently used out. The set of a block is
its virtual address over 64 modulo the number of sets (log 53). -/
def icAdd (sets ways : Nat) (l : List (Nat × Nat × Block)) (tag va : Nat) (b : Block) : List (Nat × Nat × Block) :=
  let same := fun (e : Nat × Nat × Block) => e.2.1 / 64 % sets == va / 64 % sets
  let rest := l.filter (fun e => !(e.1 == tag && e.2.1 == va))
  (tag, va, b) :: ((rest.filter same).take (ways - 1) ++ rest.filter (fun e => !same e))

/-- Find a block. -/
def icFind (l : List (Nat × Nat × Block)) (tag va : Nat) : Option Block :=
  (l.find? (fun e => e.1 == tag && e.2.1 == va)).map (fun e => e.2.2)

/-- The tag of a path's module: the module ID, apart for each partition, since module tables are per partition. -/
def State.icTag (s : State) (core : Nat) (p : Path) : Nat :=
  p.module + 4096 * ((if isSvc core then s.partOfSvc core else s.partOfCore core).getD 20)

/-- The virtual address of a block of a path's module. -/
def Path.blockVa (p : Path) (off : Nat) : Nat := (p.cbase + BitVec.ofNat 64 off).toNat

/-- The level that will supply a block missing in L1I, and its unloaded refill in vc (R23). -/
def State.icLevel (s : State) (core tag va : Nat) : Nat × Nat :=
  if isSvc core then (3, 180)
  else if (icFind (s.pair (core / 2)).l2i tag va).isSome then (1, 14)
  else if (icFind (s.die (dieOf core)).l3i tag va).isSome then (2, 70)
  else (3, 180)

/-- A block found in a cache becomes the most recently used of its set. -/
def icTouch (sets ways : Nat) (l : List (Nat × Nat × Block)) (tag va : Nat) : List (Nat × Nat × Block) :=
  match icFind l tag va with
  | some b => icAdd sets ways l tag va b
  | none => l

/-- A block that L2I or L3I holds. -/
def State.heldBlock (s : State) (core tag va : Nat) : Option Block :=
  (icFind (s.pair (core / 2)).l2i tag va).or (icFind (s.die (dieOf core)).l3i tag va)

/-- The vc in which the L1I delivers a block for a pipe of a compute core: one a vc (R25). -/
def Core.delivery (k : Core) (pipe : Nat) : Nat := max k.vc (sget 0 k.delivers pipe)

/-- Request block `off` for a path: from L1I as its pipe's deliveries allow, otherwise on its way (R24, R25). -/
def State.requestBlock (s : State) (core slot path off : Nat) (seq : Bool) : State :=
  let k := s.core core
  match (k.warp slot).path path with
  | none => s
  | some p =>
    if (p.buf.any (fun b => b.1 == off)) || decide (p.csize ≤ off) then s
    else
      let tag := s.icTag core p
      let (b, k) := match icFind k.l1i tag (p.blockVa off) with
        | some b =>
          let t := k.delivery (pipeOf slot)
          if isSvc core then (b, { k with l1i := icTouch 1 32768 k.l1i tag (p.blockVa off) })
          else
            let k := { k with l1i := icTouch 256 4 k.l1i tag (p.blockVa off) }
            (if t = k.vc then b else .pending 0 t seq, { k with delivers := sput 0 k.delivers (pipeOf slot) (t + 1) })
        | none => let (l, d) := s.icLevel core tag (p.blockVa off); (Block.pending l (k.vc + d) seq, k)
      (s.setCore core k).modPath core slot path (fun p => { p with buf := p.buf ++ [(off, b)] })

/-- The fetch buffer of a path that enters block `off`: the block and the one after it, nothing else (R25). -/
def State.enterBlock (s : State) (core slot path off : Nat) (seq : Bool) : State :=
  let s := s.modPath core slot path (fun p => { p with buf := p.buf.filter (fun b => b.1 == off || b.1 == off + 64) })
  (s.requestBlock core slot path off seq).requestBlock core slot path (off + 64) true

/-- A 64-byte block in memory holds a poisoned check-word block (R242). -/
def State.poisonAt (s : State) (dpa : Nat) : Bool := sget false s.memPoison (dpa / 64)

/-- The information word of an integrity fault on a 64-byte block at a virtual offset (R243). -/
def integrityInfo (off : Nat) : Word := BitVec.ofNat 64 (4 + off / 64 * 2 ^ 8)

/-- What a fetched block of a path turns out to be: its bytes, or the fault that R26 raises at its first word. A block that
L2I or L3I holds comes from there; only one that misses them is translated, and read at its home through the system cache
(R23, R24, R244). Code of a service core is read at device-physical addresses (log 12). `none`: its translation is still
under way. -/
def State.fetchBlock (s : State) (core : Nat) (p : Path) (vf off : Nat) : Option Block × State :=
  let va := p.blockVa off
  let tag := s.icTag core p
  let user := decide (p.level = .user)
  let read := fun (s : State) (pa : Nat) (cmp : Bool) =>
    (if s.homeBad pa cmp then Block.faulted 0x14 (integrityInfo va) 0 else Block.ready (s.homeBytes pa 64 cmp))
  if isSvc core then (some (read s va false), s.scRead (lineOf va) 0 none false)
  else
    match s.heldBlock core tag va with
    | some b => (some b, s)
    | none =>
      match s.partOfCore core with
      | none => (some (Block.faulted 0x12 (BitVec.ofNat 64 off) 0), s)
      | some q =>
        match s.translate core 0 q (s.modCtxVf q p.module) p.space.toNat (BitVec.ofNat 64 va) 3 .hypervisor with
        | (.miss, s) => (none, s)
        | (.fault kind lvl, s) =>
          (some (Block.faulted (if kind = 6 then 0x12 else 0x11) (BitVec.ofNat 64 va) (flinfoOf kind lvl 3 user p.space.toNat)), s)
        | (.ok pa cmp, s) =>
          if s.fotAllows (.hyp q) pa false then (some (read s pa cmp), s.scRead (lineOf pa) (teamClass vf) (some vf) cmp)
          else (some (Block.faulted 0x12 (BitVec.ofNat 64 va) (flinfoOf 6 0 3 user p.space.toNat)), s)

/-- A service core's private cache holds its data lines and, two to a line, its code blocks (R1, R31). Its organisation is
the model's: 16,384 lines, fully associative; a block displaces the least recently used block, or where there is none the
least recently used data line (log 54). -/
def State.addSvcBlock (s : State) (core tag va : Nat) (b : Block) : State :=
  let s := if (s.core core).l1.length < 16384 then s
    else match l1Oldest (s.core core).l1 with | some l => s.evict core l.line true | none => s
  s.modCore core (fun k => { k with
    l1i := ((tag, va, b) :: k.l1i.filter (fun e => !(e.1 == tag && e.2.1 == va))).take (2 * (16384 - k.l1.length)) })

/-- A block that arrived is verified into the core's own cache and into every level that it missed (R24). -/
def State.installBlock (s : State) (core tag va : Nat) (b : Block) : State :=
  if isSvc core then s.addSvcBlock core tag va b
  else
    let s := s.modCore core (fun k => { k with l1i := icAdd 256 4 k.l1i tag va b })
    let hit := (icFind (s.pair (core / 2)).l2i tag va).isSome
    let s := s.modPair (core / 2) (fun k => { k with l2i := icAdd 2048 8 k.l2i tag va b })
    if hit then s else s.modDie (dieOf core) (fun k => { k with l3i := icAdd 32768 12 k.l3i tag va b })

/-- FETCH_BLOCK_ARRIVAL (R24 to R26): a requested block arrives and unblocks the path. A block that failed is kept only for
the path, which raises it where it executes it. A block that left L1I before its delivery is fetched again. -/
def State.arriveBlock (s : State) (core slot path off : Nat) : State :=
  match (s.warp core slot).path path with
  | none => s
  | some p =>
    let put := fun (s : State) (b : Block) => s.modPath core slot path (fun p => { p with buf := p.buf.map (fun e => if e.1 = off then (off, b) else e) })
    let tag := s.icTag core p
    let va := p.blockVa off
    match p.buf.find? (fun b => b.1 == off) with
    | some (_, .pending l due seq) =>
      if (s.core core).vc < due then s
      else if l = 0 then
        match icFind (s.core core).l1i tag va with
        | some b => put s b
        | none => let (l, d) := s.icLevel core tag va; put s (.pending l ((s.core core).vc + d) seq)
      else
        match s.fetchBlock core p ((s.teamOf ((s.core core).warp slot)).elim 0 (fun t => t.vf)) off with
        | (none, s) => s
        | (some b, s) =>
          let s := put s b
          match b with
          | .ready _ => s.installBlock core tag va b
          | _ => s
    | _ => s

/-! ### Issue evaluation -/

/-- What an attempt finds before the instruction's meaning is tried. -/
inductive Prep where
  | none (c : Cause) (s : State)
  | trap (s : State) (c : Ctx) (cause : Nat) (info : Word) (fl : List (Nat × Word × Word))
  | go (i : Instr) (s : State)
  deriving DecidableEq, Repr

/-- The cause charged to a path that waits (R292). -/
def Wait.cause : Wait → Cause
  | .none => .arb
  | .point _ | .rejoin _ | .sleep _ | .mwait .. => .waiting
  | .order _ _ _ => .phase
  | .op _ c => c
  | .calls _ => .token

/-- The WAIT field of a word is satisfied: every named counter was zero at the end of the previous vc (R34, R97). -/
def waitMet (fprev : SMap Nat) (wait : BitVec 12) : Bool :=
  (List.range 12).all (fun i => !wait.getLsbD i || decide (sget 0 fprev i = 0))

/-- GAP has elapsed (R33). -/
def gapMet (vc : Nat) (last : Option Nat) (gap : BitVec 4) : Bool :=
  match last with
  | none => true
  | some t => decide (t + 1 + gap.toNat ≤ vc)

/-- The attempt of a path up to its instruction's meaning, in the order of R43 and R292. A stack spill or fill that withholds
its warp is charged last, and lets no trap be taken (R74). -/
def State.prepare (s : State) (core slot path : Nat) : Prep :=
  let k := s.core core
  let w := k.warp slot
  match w.path path with
  | none => .none .waiting s
  | some p =>
    if !w.live || !w.admitted then .none .parked s
    else if (w.stopped && !p.handler) || p.wait ≠ .none then .none (if p.wait = .none then .waiting else p.wait.cause) s
    else
      let held := decide (k.vc < w.holdUntil)
      let c : Ctx := { core := core, slot := slot, k := k, w := w, p := p, word := 0, size := 1 }
      let off := (blockBase p.pc).toNat
      if k.vc < p.ready then .none (if p.handler && p.lastIssue.isNone then .waiting else .irdr) s
      else if p.csize ≤ p.pc.toNat then (if held then .none .unit s else .trap s c 0x04 p.pc [])
      else
        let s := s.enterBlock core slot path off (decide (p.ready = 0))
        match (match (s.warp core slot).path path with | some q => q.buf.find? (fun (b : Nat × Block) => b.1 == off) | none => none) with
        | none => .none .iblk s
        | some (_, .pending l _ seq) =>
          .none (if seq then .iblk else if l = 0 then .irdr else if l = 1 then .il2 else if l = 2 then .il3 else .imem) s
        | some (_, .faulted cause info fi) =>
          if held then .none .unit s
          else .trap s c cause info (if cause = 0x14 then [] else [(lowestLane p.mask, info, fi)])
        | some (_, .ready bytes) =>
          let sl := p.pc.toNat % 64 / 8
          let bs := bytes.drop (8 * sl)
          let word := wordOfBytes bs
          let ctl := ctlOf word
          if !gapMet k.vc p.lastIssue ctl.gap then .none .gap s
          else if !waitMet w.fprev ctl.wait then .none .waitf s
          else
            match decode (isSvc core) sl bs with
            | .error (.illegal r pos) => if held then .none .unit s else .trap s { c with word := word } 0x01 (illegalInfo r pos) []
            | .error .truncated => .none .iblk s
            | .ok (_, i, rest) =>
              .go i { s with cur := { core := core, slot := slot, path := path, word := word,
                                      size := (bs.length - rest.length) / 8, res := none } }

end Sys2Proof.Machine
end

