-- ==== Sys2Proof/Machine/Sched.lean ====
section
/-!
DEFINITION. Time and the issue choice (R6, R71, R72, R97, R283 to R285, R289 to R292, R300, R408): a vc of one core
begins with the results that land in it, the charge for the vc before, and admission; its paths are then tried in the
order of R290, those that fit the decoders and slices are chosen, and the chosen ones issue.
-/

namespace Sys2Proof.Machine

open Sys2Proof

/-! ### Results that land (R95) -/

/-- The CSRs that one warp holds and a CSR instruction writes, but for `srseed`. -/
def csrOfWarp (n : Nat) : Bool := decide (n ∈ [0x001, 0x002, 0x003, 0x00C, 0x018, 0x300, 0x301, 0x302, 0x312])

/-- A CSR write of a warp's own register: its writable bits. -/
def Warp.csrPut (w : Warp) (n : Nat) (v : Word) : Warp :=
  match n with
  | 0x001 => { w with fflags := bits v 4 0 }
  | 0x002 => { w with lc := bits v 31 0 }
  | 0x003 => { w with ec := bits v 7 0 }
  | 0x00C => { w with stsel := bits v 4 0 }
  | 0x018 => { w with mflags := bits v 5 0 }
  | 0x300 => { w with hcause := setBits w.hcause 0 9 (bits v 8 0) }
  | 0x301 => { w with hinfo := v }
  | 0x302 => { w with hpc := v }
  | 0x312 => { w with flsel := bits v 5 0 }
  | _ => w

/-- Write one result into its warp. CSRs wider than a warp are written by their own step. -/
def Warp.put (w : Warp) : Write → Warp
  | .x n v => w.xw n v
  | .v ph l => w.vws ph l
  | .vn ph gr l => w.vwn ph gr l
  | .p ph m v => w.pw ph m v
  | .d n v => w.dw n v
  | .fflags v => { w with fflags := w.fflags ||| v }
  | .fmt path v => w.modPath path (fun p => { p with fmt := v })
  | .rrb path n => w.modPath path (fun p => { p with rrb := n })
  | .lc n => { w with lc := n }
  | .ec n => { w with ec := n }
  | .mp n v => { w with mp := sput 0 w.mp n v }
  | .csr n _ v => w.csrPut n v

/-- The step that a CSR write becomes when it lands: `n` is the CSR, `unit` the number of its unit. -/
def csrStep (n unit : Nat) (v : Word) : List Ev :=
  let r : Ev := { step := .registerWrite, a := n, b := unit, w := v }
  if csrOfWarp n then []
  else if n = 0x005 then [{ r with step := .srseedWrite, a := unit / 32, b := unit % 32 }]
  else if n = 0x410 then (if bit v 0 then [{ r with step := .rferrClear, a := unit }] else [])
  else if n = 0x412 then (if bit v 0 then [{ r with step := .sperrClear, a := unit }] else [])
  else if n = 0x413 then (if bit v 0 then [{ r with step := .l1errClear, a := unit }] else [])
  else if n = 0x421 then r :: (if bit v 15 then [{ r with step := .scselClr, a := unit }] else [])
  else if n = 0x44A then [{ r with step := .hmodWrite, a := unit }]
  else if n = 0x450 then r :: (if bit v 8 then [{ r with step := .dhselClr, a := unit }] else [])
  else if n = 0x452 then [{ r with step := .dhbaseWrite, a := unit }]
  else if n = 0x802 then [{ r with step := .gkindWrite }]
  else if 0x860 ≤ n ∧ n < 0x878 then [{ r with step := .skclkWrite, a := n - 0x860 }]
  else [r]

/-- The results of a warp due in vc `vc`: written in order, flags last, and the steps of the CSR writes among them, with the
vc and the lane that order those of several warps (R72). -/
def Warp.landDue (w : Warp) (vc : Nat) : Warp × List (Nat × Nat × List Ev) :=
  let due := w.land.filter (fun e => decide (e.due ≤ vc))
  if due.isEmpty then (w, [])
  else
    ((due.filter (fun e => !e.w.isFlags) ++ due.filter (fun e => e.w.isFlags)).foldl (fun w e => w.put e.w) { w with land := w.land.filter (fun e => !decide (e.due ≤ vc)) },
     due.filterMap (fun e => match e.w with | .csr n u v => some (e.issued, e.lane, csrStep n u v) | _ => none))

/-! ### Stall accounting (R292) -/

/-- Of two paths of a warp the older: one that `yield` made the youngest comes after, the later the younger; else the one
with the lower lane (R290). -/
def olderPath (a b : Path) : Path :=
  let age := fun (p : Path) => match p.yielded with | some t => t + 1 | none => 0
  if age b < age a ∨ age b = age a ∧ lowestLane b.mask < lowestLane a.mask then b else a

/-- The lead path: the oldest that is not waiting at a re-fusion point, in `mwait` or in `sleep`, of those that a handler has
not interrupted. -/
def Warp.lead (w : Warp) : Option Path :=
  let c := w.paths.filter (fun p => (!w.stopped || p.handler) && (match p.wait with | .point _ | .rejoin _ | .sleep _ | .mwait .. => false | _ => true))
  match c with | [] => none | p :: l => some (l.foldl olderPath p)

/-- The cause charged to a resident warp for the vc that ends. -/
def Warp.charge (w : Warp) : Cause :=
  if w.issuedNow then .issue
  else if !w.admitted then .parked
  else if w.stopped && w.handler.isNone then .waiting
  else match w.lead with
    | none => .waiting
    | some p => p.last

/-- Charge a vc, and count it for boosting and for the power rule (R290, R293). -/
def Warp.charged (w : Warp) : Warp :=
  if !w.counted then w
  else
    let n := w.charge.num
    { w with issuedNow := false, counted := false, parked := if w.admitted then 0 else w.parked + 1,
             stalls := sput 0 w.stalls n (satInc (sget 0 w.stalls n) (2 ^ 64 - 1) 1),
             paths := w.paths.map (fun p =>
               let q := if p.last = .arb then { p with cand := p.cand + 1, powerHeld := 0 }
                 else { p with powerHeld := if p.last = .power ∧ p.short then p.powerHeld + 1 else 0 }
               { q with short := false, last := if p.wait = .none then .waiting else p.wait.cause, held := p.last == .waitf || p.last == .queue }) }

/-- A vc in which a lane access of the warp waits for its bank, charged beside the cause of R292. -/
def Warp.bankStall (w : Warp) (vc : Nat) : Warp :=
  if w.counted && decide (vc < w.spWait) then { w with stalls := sput 0 w.stalls 24 (satInc (sget 0 w.stalls 24) (2 ^ 64 - 1) 1) } else w

/-! ### Admission (R283 to R285) -/

/-- The OP of a re-fusion point's body. -/
def bodyOp (body : Nat) : Nat := body / 2 ^ 40 % 256

/-- A warp is standing: every live path waits at `bar`, `gbar`, `gred` or `sstep` (R285). -/
def Warp.standing (w : Warp) : Bool :=
  !w.paths.isEmpty && w.paths.all (fun p => match p.wait with
    | .point b => decide (bodyOp b = 0xD0 ∨ bodyOp b = 0xD1 ∨ bodyOp b = 0xD2 ∨ bodyOp b = 0x98)
    | _ => false)

/-- The body of the point at which a warp stands. -/
def Warp.standBody (w : Warp) : Option Nat :=
  if w.standing then (w.paths.head?.bind (fun p => match p.wait with | .point b => some b | _ => none)) else none

/-- A team is a member of group `g` of its launch (R67). -/
def Launch.member (l : Launch) (g idx : Nat) : Bool :=
  if g = 256 then true else (l.groups.getD g []).contains idx

/-- Every warp of every team of a launch, with its team. -/
def State.warpsOf (s : State) (h : Nat) : List (Team × Warp) :=
  (s.teams.filter (fun t => t.handle == h)).flatMap (fun t => t.slots.map (fun sl => (t, s.warp t.core sl)))

/-- A warp has barrier priority (R285). -/
def State.barrierPrio (s : State) (core slot : Nat) : Bool :=
  let w := s.warp core slot
  match s.teamOf w, s.launch w.handle with
  | some t, some l =>
    t.slots.any (fun sl => sl != slot && (match (s.warp core sl).standBody with | some b => bodyOp b == 0xD0 | none => false)) ||
    (s.warpsOf w.handle).any (fun q => match q.2.standBody with
      | some b => (bodyOp b != 0xD0) && (match q.2.grp with | some g => l.member g t.idx | none => false)
      | none => false) ||
    (match t.half with
      | some h => (List.range 8).any (fun tile =>
          sget .free (s.pair (core / 2)).tokens tile == .held h w.widx &&
          (s.pair (core / 2)).waiters.any (fun q => q.1 == tile))
      | none => false)
  | _, _ => false

/-- The priority of a warp's launch (R62). -/
def State.prioOf (s : State) (h : Nat) : Nat :=
  match s.launch h with | some l => fieldAt l.lpb 0x0A 1 / 16 % 4 | none => 0

/-- A key in the admission order: barrier priority first, then PRIO, highest first, then rank. -/
structure AdmKey where
  slot : Nat
  bp : Bool
  prio : Nat
  rank : Int
  deriving DecidableEq, Repr

def AdmKey.before (a b : AdmKey) : Bool :=
  if a.bp != b.bp then a.bp
  else if !a.bp && decide (a.prio ≠ b.prio) then decide (b.prio < a.prio)
  else decide (a.rank < b.rank)

/-- Insertion sort under a strict order. -/
def insertBy {α : Type} (lt : α → α → Bool) (a : α) : List α → List α
  | [] => [a]
  | b :: l => if lt a b then a :: b :: l else b :: insertBy lt a l
def sortBy {α : Type} (lt : α → α → Bool) (l : List α) : List α := l.foldr (insertBy lt) []

/-- The slots that R283 admits, in admission order with their leases: `sum` so far, the first not yet taken, stopped. -/
def admitRun (standing : Nat → Bool) (lease : Nat → Nat) (budget : Nat) :
    List AdmKey → Nat → Bool → Bool → List Nat
  | [], _, _, _ => []
  | a :: l, sum, first, stopped =>
    if standing a.slot then a.slot :: admitRun standing lease budget l sum first stopped
    else if first then a.slot :: admitRun standing lease budget l (lease a.slot) false stopped
    else if !stopped && decide (sum + lease a.slot ≤ budget) then
      a.slot :: admitRun standing lease budget l (sum + lease a.slot) false stopped
    else admitRun standing lease budget l sum false true

/-- The CSR `lease` of a warp (R287). BPRI says that it was let in by barrier priority. -/
def Warp.leaseWord (w : Warp) : Word :=
  BitVec.ofNat 64 (w.units + w.decl.toNat * 2 ^ 8 + w.fix.toNat * 2 ^ 9 + w.admitted.toNat * 2 ^ 10 +
    w.standing.toNat * 2 ^ 11 + w.bprio.toNat * 2 ^ 12 + w.loss * 2 ^ 16 + w.rot * 2 ^ 32)

/-- Admission of a core's resident warps for the vc that begins. A warp let in by barrier priority keeps it until it stands or
the token is released (R285). -/
def State.readmit (s : State) (core : Nat) : State :=
  let k := s.core core
  let keys := sortBy AdmKey.before (k.slots.map (fun sl =>
    let w := k.warp sl
    { slot := sl, bp := (!w.admitted || w.bprio) && !w.standing && s.barrierPrio core sl, prio := s.prioOf w.handle, rank := w.rank }))
  let ok := admitRun (fun sl => (k.warp sl).standing) (fun sl => (k.warp sl).units) k.budget keys 0 true false
  k.slots.foldl (fun s sl => s.modWarp core sl (fun w =>
    let w := { w with bprio := keys.any (fun q => q.slot == sl && q.bp) }
    if ok.contains sl then
      if w.admitted then w
      else { w with admitted := true, parked := 0, measPart := true, paths := w.paths.map (fun p => { p with lastIssue := none }) }
    else { w with admitted := false, victims := if w.admitted then [] else w.victims })) s

/-! ### The order of R290 -/

/-- What R290 compares: class (0 boosted, 1 greedy, 2 the rest), priority, and the age: when it yielded (0 where it did not,
the later the younger), rank, lowest lane. -/
structure TurnKey where
  slot : Nat
  path : Nat
  cls : Nat
  prio : Nat
  yielded : Nat
  rank : Int
  lane : Nat
  deriving DecidableEq, Repr

def TurnKey.before (a b : TurnKey) : Bool :=
  if a.cls ≠ b.cls then decide (a.cls < b.cls)
  else if decide (a.cls = 2) && decide (a.prio ≠ b.prio) then decide (b.prio < a.prio)
  else if a.yielded ≠ b.yielded then decide (a.yielded < b.yielded)
  else if a.rank ≠ b.rank then decide (a.rank < b.rank)
  else decide (a.lane < b.lane)

/-- The path that R290 prefers after the boosted ones: it took decoder 0 in the previous vc, at most 64 in a row. -/
def Core.isGreedy (k : Core) (slot path : Nat) : Bool :=
  let (id, n, at_) := sget (0, 0, 0) k.greedy (pipeOf slot)
  decide (id = slot * 2 ^ 32 + path ∧ 0 < n ∧ n < 64 ∧ at_ + 1 = k.vc)

/-- The paths of a core that attempt to issue in its vc, in the order of R290. -/
def State.turnsOf (s : State) (core : Nat) : List Turn :=
  let k := s.core core
  let keys := k.slots.flatMap (fun sl =>
    let w := k.warp sl
    if !w.admitted then []
    else (w.paths.filter (fun p => (!w.stopped || p.handler) && !w.paused && p.wait == .none)).map (fun p =>
      { slot := sl, path := p.id, prio := s.prioOf w.handle, yielded := p.yielded.elim 0 (· + 1), rank := w.rank, lane := lowestLane p.mask,
        cls := if p.boosted then 0 else if !p.yielded.isSome && k.isGreedy sl p.id then 1 else 2 : TurnKey }))
  (sortBy TurnKey.before keys).map (fun q => { core := core, slot := q.slot, path := q.path })

/-! ### Choosing (R71, R72) -/

/-- Slices and decoders of a pipe taken in this vc. -/
def takenOf (l : List (Nat × Nat × Nat)) (pipe : Nat) : Nat × Nat :=
  match l.find? (fun e => e.1 == pipe) with | some e => e.2 | none => (0, 0)

/-- The slices of a mask as a number. -/
def sliceBits (m : Mask) : Nat := (slicesOf m).foldl (fun a k => a ||| 2 ^ k) 0

/-- What orders the paths that issue in one vc (R72): the lowest lane; of equal ones the pipe, then the warp slot (log 47). -/
def State.issueKey (s : State) (t : Turn) : Nat :=
  (match (s.warp t.core t.slot).path t.path with | some p => lowestLane p.mask | none => 64) * 64 + pipeOf t.slot * 32 + t.slot

/-- What orders scratchpad accesses of one vc (R180): pipe, warp slot, lowest lane. -/
def State.spadKey (s : State) (t : Turn) : Nat := s.issueKey t % 64 * 128 + s.issueKey t / 64

/-- Put the listed turns in the places that scratchpad accesses hold. -/
def fillSpad : List Turn → List Turn → List Turn
  | [], _ => []
  | t :: l, sp => if t.spad then (match sp with | u :: r => u :: fillSpad l r | [] => t :: fillSpad l []) else t :: fillSpad l sp

/-- The chosen paths in the order in which they issue: that of R72, and among scratchpad accesses that of R180. -/
def State.ordered (s : State) (l : List Turn) : List Turn :=
  fillSpad (sortBy (fun a b => decide (s.issueKey a < s.issueKey b)) l)
    (sortBy (fun a b => decide (s.spadKey a < s.spadKey b)) (l.filter (fun t => t.spad)))

/-- The word is a lane access to the scratchpad: `spld`, `spst` or `spzero`. -/
def spadWord (w : Word) : Bool := decide (bits w 47 40 ∈ [0x88, 0x89, 0xB4])

/-- A candidate takes the next decoder of its pipe when its slices are free; otherwise it is charged ARB. -/
def State.candidate (s : State) (t : Turn) : State :=
  match (s.warp t.core t.slot).path t.path with
  | none => s
  | some p =>
    let pipe := 2 * t.core + pipeOf t.slot
    let (m, n) := takenOf s.taken pipe
    let b := sliceBits p.mask
    if n < 4 ∧ m &&& b = 0 then
      let k := s.core t.core
      let id := t.slot * 2 ^ 32 + t.path
      let g := sget (0, 0, 0) k.greedy (pipeOf t.slot)
      let run := if g.1 = id ∧ g.2.2 + 1 = k.vc then g.2.1 + 1 else 1
      let s := if n = 0 then s.setCore t.core { k with greedy := sput (0, 0, 0) k.greedy (pipeOf t.slot) (id, run, k.vc) } else s
      { s with chosen := s.ordered ({ t with spad := spadWord s.cur.word } :: s.chosen),
               taken := (pipe, m ||| b, n + 1) :: s.taken.filter (fun e => e.1 != pipe) }
    else s.modPath t.core t.slot t.path (fun p => { p with last := .arb })

/-- A path whose attempt found it unable to issue. -/
def State.noteStall (s : State) (t : Turn) (c : Cause) : State :=
  s.modPath t.core t.slot t.path (fun p => { p with last := c })

/-- What a trial of the instruction's meaning shows: a candidate, with the trial's effect dropped, or a stall with what
the attempt set in motion. -/
def State.noteTrial (s : State) (t : Turn) (v : State) : State :=
  match v.cur.res with
  | some .issue => s.candidate t
  | some _ => v
  | none => s

/-! ### Time -/

/-- A cluster's vector clock is stopped: relock (R300). -/
def State.relocking (s : State) (cl : Nat) : Bool :=
  match (s.cluster cl).relockUntil with | some t => decide (s.pkg.now < t) | none => false

/-- No vc of the core elapses: its pair is frozen (R222), or its cluster or service clock relocks (R300, R408). -/
def State.clockStopped (s : State) (c : Nat) : Bool :=
  if isSvc c then (match (s.core c).svcBusy with | some t => decide (s.pkg.now < t) | none => false)
  else (s.pair (c / 2)).freeze.isSome || s.relocking (clusterOf c)

/-- The period of a core's clock. In standby the service clock runs at step 0 (R408). -/
def State.period (s : State) (c : Nat) : Nat :=
  if isSvc c then kcPeriod (if s.pkg.standby then 0 else sget 0 s.pkg.skclk (c - 256)) else vcPeriod (s.cluster (clusterOf c)).gv

/-- A core has something that a vc moves on. -/
def Core.active (k : Core) : Bool :=
  !k.slots.isEmpty || !k.longs.isEmpty || !k.cmds.isEmpty || !k.wbs.isEmpty || !k.reqs.isEmpty || !k.atomics.isEmpty ||
    k.bstage != .idle || !k.bserve.isEmpty || !k.bnext.isEmpty

/-- A core that a team is resident on, or with something of its own under way, counts vc. -/
def State.coreActive (s : State) (c : Nat) (k : Core) : Bool := k.active || s.teams.any (fun t => t.core == c && !t.slots.isEmpty)

/-- The core whose next vc comes first, with its time. -/
def State.nextCore (s : State) : Option (Nat × Nat) :=
  s.cores.foldl (fun b q => if !s.coreActive q.1 q.2 then b else match b with
    | none => some (q.1, q.2.at_)
    | some (c, t) => if q.2.at_ < t then some (q.1, q.2.at_) else some (c, t)) none

/-- A cluster's power state now: in each of its vc since the last its allowance has gained QUANT, up to PAMAX, and a vc in which
a path was withheld by R293 counts in PWITH (R293). Its vector clock stands in a relock (R300). -/
def State.powerNow (s : State) (cl : Nat) : Cluster :=
  let k := s.cluster cl
  if s.relocking cl || decide (s.pkg.now < k.at_) then k
  else
    let d := vcPeriod k.gv
    let n := (s.pkg.now - k.at_) / d + 1
    { k with at_ := k.at_ + n * d, count := min (k.count + (n * k.quant : Nat)) k.pamax,
             pwith := if k.short then satInc k.pwith (2 ^ 32 - 1) 1 else k.pwith, short := false }

/-- A cluster's power state is brought up to now. -/
def State.gainPower (s : State) (cl : Nat) : State := s.modCluster cl (fun _ => s.powerNow cl)

/-- The array debits of some compute mc of a pair (R293). They never wait. -/
def State.arrayDebit (s : State) (pr eu n : Nat) : State :=
  s.modCluster (pr / 4) (fun k => { k with count := k.count - (eu * n : Nat) })

/-- How many of the mc from `a` to before `b` a run computes in. -/
def MatRun.computes (r : MatRun) (a b : Nat) : Nat := min b r.endsAt - max a (r.endsAt - r.len)

/-- The mc of a pair that have elapsed; none elapses in a freeze (R222). Each that computes is debited (R293). -/
def State.runMc (s : State) (p : Nat) : State :=
  let k := s.pair p
  if k.twins.isNone || k.freeze.isSome || decide (s.pkg.now < k.mcAt) then s
  else
    let d := mcPeriod (s.cluster (p / 4)).gm
    let n := (s.pkg.now - k.mcAt) / d + 1
    let s := s.setPair p { k with mc := k.mc + n, mcAt := k.mcAt + n * d,
                                  hold := if (s.cluster (p / 4)).pending.isSome then k.mc + n else k.hold }
    match k.run with
    | some r => s.arrayDebit p r.eu (r.computes k.mc (k.mc + n))
    | none => s

/-- The skid of a warp ends 12 vc after the broadcast of the halt (R331). -/
def Warp.skidEnd (w : Warp) (vc : Nat) : Warp :=
  match w.skidUntil with
  | some t => if t ≤ vc then { w with stopped := true, skidUntil := none } else w
  | none => w

end Sys2Proof.Machine
end

