-- ==== Sys2Proof/Machine/Csr.lean ====
section
/-!
DEFINITION. CSR access (R103 to R105, R116): the privilege an access needs, the unit it reaches, the value it reads,
and what a landing write stores in a register wider than a warp (REGISTER_WRITE and the steps of single registers).
-/

namespace Sys2Proof.Machine

open Sys2Proof

/-! ### Reading -/

/-- The lowest levels that read and write a CSR (R103). -/
def csrReadLevel (n : Nat) : Level :=
  if n < 0x300 then .user else if n < 0x400 then .supervisor else if n < 0x800 then .hypervisor else .root
def csrWriteLevel (n : Nat) : Level :=
  if n < 0x100 then .user else if n < 0x300 then .hypervisor else csrReadLevel n

/-- A CSR of a partition, of a VF (reached from a hypervisor through `vfsel`, R384), or of a display head (R376). -/
def csrOfPart (n : Nat) : Bool :=
  decide (n = 0x432 ∨ n = 0x440 ∨ 0x442 ≤ n ∧ n ≤ 0x447 ∨ n = 0x449 ∨ n = 0x44A ∨ n = 0x44B ∨ n = 0x450)
def csrOfVf (n : Nat) : Bool := decide (n = 0x310 ∨ n = 0x441 ∨ n = 0x448)
def csrOfHead (n : Nat) : Bool := decide (0x451 ≤ n ∧ n ≤ 0x456)

/-- The partition of the issuing path: of its team, or of the kernel's service core. -/
def Ctx.part (c : Ctx) (s : State) : Option Nat :=
  if c.svc then s.partOfSvc c.core else (s.teamOf c.w).map (fun t => t.part)
/-- The VF of the issuing path: of its team, or the one that `vfsel` names. -/
def Ctx.vfOf (c : Ctx) (s : State) : Option Nat :=
  if c.svc then (s.partOfSvc c.core).bind (fun p =>
    let v := (s.part p).vfsel
    if (s.part p).hasVf v then some v else none)
  else (s.teamOf c.w).map (fun t => t.vf)
/-- The head that `dhsel` names, where it is the partition's (R376). -/
def Ctx.headOf (c : Ctx) (s : State) : Option Nat :=
  (c.part s).bind (fun p =>
    let h := bits (s.part p).dhsel 1 0
    if Nat.testBit (s.part p).headMask h then some h else none)

/-- The unit of the CSR that an access reaches, none where the issuing path has no such unit: its own core, pair,
cluster and die (log 48), its partition, VF and head, the class and die that `qsel` names. -/
def Ctx.csrUnit (c : Ctx) (s : State) (n : Nat) : Option Nat :=
  if csrOfPart n then c.part s
  else if csrOfVf n then c.vfOf s
  else if csrOfHead n then c.headOf s
  else if n = 0x005 then some (c.core * 32 + c.slot)
  else if n = 0x103 ∨ n = 0x104 then some (if c.svc then Config.svcPair c.core % 128 else c.core / 2)
  else if n = 0x101 ∨ n = 0x200 ∨ 0x420 ≤ n ∧ n ≤ 0x422 then some (dieOf c.core)
  else if n = 0x430 ∨ n = 0x431 then some (if c.svc then Config.svcCluster c.core % 32 else clusterOf c.core)
  else if n = 0x811 ∨ n = 0x812 then some (bits s.pkg.qsel 10 0 + 2048 * bits s.pkg.qsel 11 11)
  else if 0x840 ≤ n ∧ n < 0x860 then some (n - 0x840)
  else if 0x800 ≤ n then some 0
  else some c.core

/-- The pool that holds a cluster. -/
def State.poolOf (s : State) (cl : Nat) : Option Pool :=
  (s.die (cl / 16)).pools.find? (fun p => p.clusters.contains cl)

/-- `clkgrant` fields [27:0] of a core (R302). -/
def State.grantWord (s : State) (core : Nat) : Nat :=
  let d := s.die (dieOf core)
  let q : Pool := (s.poolOf (clusterOf core)).getD { num := 0, part := 0, ocstep := 0, ocwt := 0, clusters := [] }
  q.gm + q.gv * 2 ^ 4 + q.gn * 2 ^ 8 + q.gy * 2 ^ 12 + d.an * 2 ^ 16 + d.ay * 2 ^ 20 + q.num * 2 ^ 24

/-- Remaining time in µs (R303): the value last set, less whole µs of reference time since. -/
def State.tleftOf (s : State) (t : Team) : Nat := t.est - (s.pkg.now - t.estAt) / (1000 * refUnit)

def b2n (b : Bool) : Nat := if b then 1 else 0

/-- What a CSR of the warp or path reads as: the flag counters and `lease` as the vc found them (R72). -/
def Ctx.csrWarp (c : Ctx) (s : State) (n : Nat) : Word :=
  let w := c.w
  let cnt := fun (lo hi : Nat) => (List.range (hi - lo)).foldl (fun a k => a + sget 0 w.fprev (lo + k) * 2 ^ (6 * k)) 0
  match n with
  | 0x000 => c.p.fmt.setWidth 64
  | 0x001 => BitVec.ofNat 64 w.fflags
  | 0x002 => BitVec.ofNat 64 w.lc
  | 0x003 => BitVec.ofNat 64 w.ec
  | 0x004 => BitVec.ofNat 64 c.p.rrb
  | 0x005 => BitVec.ofNat 64 w.srseed
  | 0x006 => BitVec.ofNat 64 (cnt 0 10)
  | 0x007 => BitVec.ofNat 64 (cnt 10 12)
  | 0x008 => w.lease0
  | 0x009 => BitVec.ofNat 64 (s.grantWord c.core + b2n w.evt * 2 ^ 32 + w.ecnt * 2 ^ 48)
  | 0x00A => BitVec.ofNat 64 (match s.teamOf w with | some t => s.tleftOf t | none => 0)
  | 0x00B => BitVec.ofNat 64 (w.fcause + b2n w.fasync * 2 ^ 8 + b2n w.handler.isSome * 2 ^ 9 + w.fcount * 2 ^ 32)
  | 0x00C => BitVec.ofNat 64 w.stsel
  | 0x00D => BitVec.ofNat 64 (sget 0 w.stalls w.stsel)
  | 0x018 => BitVec.ofNat 64 w.mflags
  | 0x300 => w.hcause
  | 0x301 => w.hinfo
  | 0x302 => w.hpc
  | 0x303 => w.hmask
  | 0x304 => BitVec.ofNat 64 w.hseq
  | 0x312 => BitVec.ofNat 64 w.flsel
  | 0x313 => sget 0 w.fladdr w.flsel
  | 0x314 => sget 0 w.flinfo w.flsel
  | 0x315 => w.flmask
  | _ => w.mpr (n - 0x010)

/-- What a CSR wider than a warp reads as, at its unit. -/
def State.csrWide (s : State) (n u : Nat) : Word :=
  let p := s.part u
  let h := s.head u
  let d := s.die u
  match n with
  | 0x100 => BitVec.ofNat 64 (s.core u).budget
  | 0x101 => BitVec.ofNat 64 (d.loamOff + s.ns)
  | 0x102 => BitVec.ofNat 64 ((s.core u).stlHits + (s.core u).stlWait * 2 ^ 32)
  | 0x103 => BitVec.ofNat 64 ((s.pair u).sup + (s.pair u).loamStl * 2 ^ 32)
  | 0x104 => BitVec.ofNat 64 ((s.pair u).frz + (s.pair u).frzTime * 2 ^ 16 + (s.pair u).conv * 2 ^ 48 + (s.pair u).tlat * 2 ^ 56)
  | 0x200 => BitVec.ofNat 64 d.wdthr
  | 0x310 => (s.vf u).spbase
  | 0x410 => (s.core u).rferr
  | 0x411 => BitVec.ofNat 64 (s.core u).rfcor
  | 0x412 => (s.core u).sperr
  | 0x413 => (s.core u).l1err
  | 0x420 => BitVec.ofNat 64 (d.sc.filter (fun l => l.vf == some d.scsel)).length
  | 0x421 => BitVec.ofNat 64 d.scsel
  | 0x422 => BitVec.ofNat 64 (sget 0 d.capev d.scsel + sget 0 d.xev d.scsel * 2 ^ 32)
  | 0x430 => BitVec.ofNat 64 ((s.cluster u).quant + (s.cluster u).pamax * 2 ^ 16)
  | 0x431 => BitVec.ofNat 64 ((BitVec.ofInt 32 (s.powerNow u).count).toNat + (s.powerNow u).pwith * 2 ^ 32)
  | 0x432 => BitVec.ofNat 64 (p.slew + p.trips * 2 ^ 16 + p.swith * 2 ^ 32)
  | 0x440 => p.s2base
  | 0x441 => (s.vf u).fpool
  | 0x442 => p.s2fq
  | 0x443 => p.modtab
  | 0x444 => p.ctxpool
  | 0x445 => p.tevq
  | 0x446 => p.pmctl
  | 0x447 => p.callq
  | 0x448 => (s.vf u).vfq
  | 0x449 => BitVec.ofNat 64 p.vfsel
  | 0x44A => p.hmod
  | 0x44B => p.pstov
  | 0x450 => p.dhsel
  | 0x451 => setBits (setBits h.dhctl 3 1 (b2n h.dhbaseNext.isSome)) 16 10 (h.fifo.length / 1024)
  | 0x452 => h.dhbase
  | 0x453 => h.dhgeom
  | 0x454 => h.dhwm
  | 0x455 => h.cnt0
  | 0x456 => h.cnt1
  | 0x800 => s.pkg.pdbase
  | 0x801 => BitVec.ofNat 64 (s.pkg.pctlPart + b2n s.pkg.pctlBusy * 2 ^ 7 + s.pkg.pctlStatus * 2 ^ 8)
  | 0x802 => BitVec.ofNat 64 (s.pkg.gran + sget 0 s.pkg.kinds s.pkg.gran * 2 ^ 10 + b2n s.pkg.gkErr * 2 ^ 12)
  | 0x810 => s.pkg.qsel
  | 0x811 => s.qcfgOf u
  | 0x812 => BitVec.ofNat 64 (s.qwaysOf u)
  | 0x820 => s.pkg.rcallq
  | _ => if n < 0x860 then BitVec.ofNat 64 (s.cluster u).cap else BitVec.ofNat 64 (sget 0 s.pkg.skclk (n - 0x860))

/-- A CSR that the warp or path holds. -/
def csrNarrow (n : Nat) : Bool := decide (n < 0x100 ∨ 0x300 ≤ n ∧ n ≤ 0x304 ∨ 0x312 ≤ n ∧ n ≤ 0x315)

/-- A CSR's value as the issuing path reads it. -/
def Ctx.csrValue (c : Ctx) (s : State) (n u : Nat) : Word := if csrNarrow n then c.csrWarp s n else s.csrWide n u

/-! ### The instructions (R116) -/

/-- The access checks of R103: the level, and a unit that the path may reach (R376, R384). The unit is the answer. -/
def Ctx.csrAccess (c : Ctx) (s : State) (n : Nat) (rd wr : Bool) : Try Nat :=
  if rd && decide (c.p.level.rank < (csrReadLevel n).rank) || wr && decide (c.p.level.rank < (csrWriteLevel n).rank) then
    trapS 0x02 c.word
  else match c.csrUnit s n with
    | some u => .ok u
    | none => trapS 0x02 c.word

/-- A CSR write on its way: `fmt` is checked (R117), the rest lands after 2 vc (R95). CLR of `dhsel` reaches the counters of the head that it names,
which must be the partition's (R376). -/
def csrSend (c : Ctx) (s : State) (n u : Nat) (v : Word) : Try State :=
  if n = 0 then setFmt c s (v.setWidth 32)
  else if n = 0x450 ∧ bit v 8 = true ∧ Nat.testBit (s.part u).headMask (bits v 1 0) = false then trapS 0x02 c.word
  else .ok (s.land c 2 (.csr n u v))

/-- The shape of the CSR instructions: an access that R103 refuses is found during execution, after the sources (R43). -/
def csrOp (s : State) (f : FmtI) (ops : List Opnd) (rd wr : Bool) (new : Word → Word → Word) : Host.Outcome State Fault Refusal :=
  s.run fun c => do
    let n := f.imm.toNat % 4096
    let s ← c.begin s none ops
    if c.on f.g then do
      let u ← c.csrAccess s n rd wr
      let old := c.csrValue s n u
      let s ← if wr then csrSend c s n u (new old (c.xv f.s1)) else .ok s
      .ok ((if rd then s.landX c 4 (opIdx f.d) old else s).advance c)
    else .ok (s.advance c)

/-- R116. -/
def execCsrr (f : FmtI) (s : State) : Host.Outcome State Fault Refusal := csrOp s f [.xd f.d] true false fun o _ => o

/-- R116. -/
def execCsrw (f : FmtI) (s : State) : Host.Outcome State Fault Refusal := csrOp s f [.xs f.s1 24 1] false true fun _ v => v

/-- R116: the old value is read, the CSR becomes old OR S1. -/
def execCsrs (f : FmtI) (s : State) : Host.Outcome State Fault Refusal :=
  csrOp s f [.xs f.s1 24 1, .xd f.d] true true fun o v => o ||| v

/-! ### Landing writes of wider registers -/

/-- Only the bits of a mask. -/
def keepBits (v : Word) (hi lo : Nat) : Word := BitVec.ofNat 64 (bits v hi lo * 2 ^ lo)
/-- A ring register: LOG2N at most 12, BASE at [49:12]. -/
def ringReg (v : Word) : Word := keepBits v 49 12 ||| BitVec.ofNat 64 (min (bits v 7 0) 12)

/-- What a write of `vfq` stores (R384): EN, RUN, BIND (10 to 15 store 0), VCAP and BASE. -/
def vfqReg (v : Word) : Word :=
  let b := bits v 5 2
  keepBits v 1 0 ||| BitVec.ofNat 64 ((if 10 ≤ b then 0 else b) * 4) ||| keepBits v 15 6 ||| keepBits v 49 16

/-- The steps that a write of `vfq` sets in motion (R384, R385). -/
def vfqSteps (u : Nat) (old new : Word) : List Ev :=
  (if bit new 0 && !bit old 0 then [{ step := .vfqEnable, a := u }] else []) ++
  (if bit new 1 && !bit old 1 then [{ step := .vfqRunSet, a := u }] else []) ++
  (if !bit new 1 && bit old 1 then [{ step := .vfqRunClear, a := u }] else [])

/-- Steps to perform before the rest of the agenda. -/
def State.soon (s : State) (l : List Ev) : State := { s with agenda := l ++ s.agenda }

/-- Store the writable fields of register `n` at unit `u`. -/
def State.csrStore (s : State) (n u : Nat) (v : Word) : State :=
  match n with
  | 0x100 => let b := bits v 7 0
             s.modCore u (fun k => { k with budget := if b = 0 then 1 else min b 128 })
  | 0x200 => s.modDie u (fun d => { d with wdthr := bits v 7 0 })
  | 0x310 => s.modVf u (fun x => { x with spbase := keepBits v 0 0 ||| keepBits v 49 19 })
  | 0x411 => s.modCore u (fun k => { k with rfcor := bits v 31 0 })
  | 0x421 => s.modDie u (fun d => { d with scsel := bits v 8 0 })
  | 0x430 => (s.gainPower u).modCluster u (fun k => { k with pamax := bits v 31 16 })
  | 0x432 => s.modPart u (fun p => { p with slew := bits v 15 0 })
  | 0x440 => s.modPart u (fun p => { p with s2base := keepBits v 49 15 })
  | 0x441 => s.modVf u (fun x => { x with fpool := keepBits v 49 5 })
  | 0x442 => s.modPart u (fun p => { p with s2fq := ringReg v })
  | 0x443 => s.modPart u (fun p => { p with modtab := keepBits v 49 17 })
  | 0x444 => s.modPart u (fun p => { p with ctxpool := keepBits v 11 0 ||| keepBits v 49 21 })
  | 0x445 => s.modPart u (fun p => { p with tevq := ringReg v })
  | 0x446 => s.modPart u (fun p => { p with pmctl := v })
  | 0x447 => s.modPart u (fun p => { p with callq := ringReg v })
  | 0x448 => let old := (s.vf u).vfq
             (s.modVf u (fun x => { x with vfq := vfqReg v })).soon (vfqSteps u old (vfqReg v))
  | 0x449 => s.modPart u (fun p => { p with vfsel := bits v 8 0 })
  | 0x44B => s.modPart u (fun p => { p with pstov := keepBits v 49 0 })
  | 0x450 => s.modPart u (fun p => { p with dhsel := keepBits v 1 0 })
  | 0x451 => s.modHead u (fun h => { h with dhctl := setBits h.dhctl 0 3 (bits v 2 0) })
  | 0x453 => s.modHead u (fun h => { h with dhgeom := keepBits v 12 0 ||| keepBits v 28 16 ||| keepBits v 63 32 })
  | 0x454 => let low := bits v 9 0
             let crit := bits v 25 16
             s.modHead u (fun h => { h with dhwm := BitVec.ofNat 64 (low + (if low ≤ crit then low - 1 else crit) * 2 ^ 16) })
  | 0x00A =>
    -- the estimate that `tleft` sends, for the team of the warp `u` mod 32 of core `u` div 32 (R304)
    let w := s.warp (u / 32) (u % 32)
    s.modTeam w.handle w.team (fun t => { t with est := v.toNat, estAt := s.pkg.now })
  | 0x800 => s.modPkg (fun k => { k with pdbase := keepBits v 49 8 })
  | 0x801 =>
    let op := bits v 6 5
    if s.pkg.pctlBusy && decide (op ≠ 0) then s
    else
      let part := min (bits v 4 0) 19
      let s := s.modPkg (fun k => { k with pctlPart := part })
      if op = 1 ∨ op = 2 then
        (s.modPkg (fun k => { k with pctlBusy := true, pctlOp := op })).soon
          [{ step := if op = 1 then .partitionCreate else .partitionDestroy, a := part }]
      else s
  | 0x810 => s.modPkg (fun k => { k with qsel := keepBits v 11 0 })
  | 0x811 =>
    let burst := bits v 31 16
    let lat := bits v 33 32
    let r := keepBits v 15 0 ||| BitVec.ofNat 64 ((if burst = 0 then 1 else burst) * 2 ^ 16) |||
      BitVec.ofNat 64 ((if lat = 3 then 2 else lat) * 2 ^ 32) ||| keepBits v 43 34
    s.modPkg (fun k => { k with qcfg := sput 0 k.qcfg u r })
  | 0x812 => if 16 ≤ u % 2048 then s else s.modPkg (fun k => { k with qways := sput 0 k.qways u (bits v 23 0 + 1) })
  | 0x820 => s.modPkg (fun k => { k with rcallq := ringReg v })
  | _ => if 0x840 ≤ n ∧ n < 0x860 then s.modCluster u (fun k => { k with cap := max 106 (min (bits v 15 0) 562) }) else s

/-- REGISTER_WRITE (R103, R376, R384, R387, R407): a landing write stores the register's writable fields. -/
def execRegisterWrite (s : State) : Host.Outcome State Fault Refusal :=
  .next (s.csrStore s.ev.a s.ev.b s.ev.w)

/-- SRSEED_WRITE (R140): the seed, and every lane's state. -/
def execSrseedWrite (s : State) : Host.Outcome State Fault Refusal :=
  let v := bits s.ev.w 31 0
  .next (s.modWarp s.ev.a s.ev.b (fun w => { w with srseed := v, sr := srSeeded v }))

/-- Clear VALID and COUNT of an error register whose COUNT lies at `lo`. -/
def clearErr (v : Word) (lo : Nat) : Word := setBits (setBits v 0 1 0) lo 8 0

/-- RFERR_CLEAR (R175). -/
def execRferrClear (s : State) : Host.Outcome State Fault Refusal :=
  .next (s.modCore s.ev.a (fun k => { k with rferr := clearErr k.rferr 24 }))

/-- SPERR_CLEAR (R182). -/
def execSperrClear (s : State) : Host.Outcome State Fault Refusal :=
  .next (s.modCore s.ev.a (fun k => { k with sperr := clearErr k.sperr 24 }))

/-- L1ERR_CLEAR (R243). -/
def execL1errClear (s : State) : Host.Outcome State Fault Refusal :=
  .next (s.modCore s.ev.a (fun k => { k with l1err := clearErr k.l1err 46 }))

/-- SCSEL_CLR (R231): the counters of the VF being written. -/
def execScselClr (s : State) : Host.Outcome State Fault Refusal :=
  .next (s.modDie s.ev.a (fun d => { d with capev := sput 0 d.capev d.scsel 0, xev := sput 0 d.xev d.scsel 0 }))

/-- DHSEL_CLR (R376): the counters of the head selected, where it is the partition's; its current LEVEL stays. -/
def execDhselClr (s : State) : Host.Outcome State Fault Refusal :=
  let p := s.part s.ev.a
  let h := bits p.dhsel 1 0
  .next (if Nat.testBit p.headMask h then s.modHead h (fun h => { h with cnt0 := 0, cnt1 := keepBits h.cnt1 34 32 }) else s)

/-- DHBASE_WRITE (R376): held until the next vertical blank. -/
def execDhbaseWrite (s : State) : Host.Outcome State Fault Refusal :=
  .next (s.modHead s.ev.a (fun h => { h with dhbaseNext := some (keepBits s.ev.w 49 8) }))

/-- HMOD_WRITE (R334): a write that names no live module, or sets a reserved bit, stores nothing and sets ERR. -/
def execHmodWrite (s : State) : Host.Outcome State Fault Refusal :=
  let v := s.ev.w
  let p := s.ev.a
  let bad := decide (bits v 63 14 ≠ 0) || bit v 12 && decide ((s.modEntry p (bits v 11 0)).state ≠ 2)
  .next (s.modPart p (fun q => { q with hmod := if bad then q.hmod ||| 0x2000 else keepBits v 12 0 }))

/-- Every frame of a 1 GiB granule is unowned and scrubbed: OWNER 0, SCRUB 1 (R381). -/
def State.granuleFree (s : State) (g : Nat) : Bool :=
  (List.range 16384).all (fun i => let e := sget fotReset s.fot (g * 16384 + i); decide (bits e 11 0 = 0) && bit e 14)

/-- GKIND_WRITE (R381): GRAN is stored; the kind changes only where every frame of the granule is unowned and
scrubbed, otherwise ERR is set. Granules from 720 name no memory and are refused. -/
def execGkindWrite (s : State) : Host.Outcome State Fault Refusal :=
  let g := bits s.ev.w 9 0
  if g < 720 && s.granuleFree g then
    .next (s.modPkg (fun k => { k with gran := g, gkErr := false, kinds := sput 0 k.kinds g (bits s.ev.w 11 10) }))
  else .next (s.modPkg (fun k => { k with gran := g, gkErr := true }))

/-- VFQ_ENABLE (R384, R389): the way mask becomes the partition's WAYS. -/
def execVfqEnable (s : State) : Host.Outcome State Fault Refusal :=
  .next (match s.partOfVf s.ev.a with
    | some p => s.modVf s.ev.a (fun v => { v with ways := (s.part p).ways })
    | none => s)

/-- SKCLK_WRITE (R408): service core `a` takes its step; no kc of it elapses for the relock of 10 µs. -/
def execSkclkWrite (s : State) : Host.Outcome State Fault Refusal :=
  let s := s.modPkg (fun k => { k with skclk := sput 0 k.skclk s.ev.a (bits s.ev.w 3 0) })
  .next (s.modCore (256 + s.ev.a) (fun k => { k with svcBusy := some (s.pkg.now + 10000 * refUnit) }))

/-! ### Operations that a path waits for -/

/-- The path that waits for operation `id` goes on. -/
def State.opDone (s : State) (core slot id : Nat) : State :=
  s.modWarp core slot (fun w =>
    { w with paths := w.paths.map (fun p => match p.wait with | .op i _ => if i = id then { p with wait := .none } else p | _ => p) })

/-- An operation of a service core that answers in a register ends with an answer: D is written, and the path goes on. -/
def State.opAnswer (s : State) (q : Option (Nat × Nat)) (v : Nat) : State :=
  match q with
  | none => s
  | some (core, id) => match (s.core core).ops.find? (fun o => o.1 == id) with
    | none => s
    | some o =>
      let s := s.modCore core (fun k => { k with ops := k.ops.filter (fun o => o.1 != id) })
      (s.modWarp core 0 (fun w => w.xw o.2.2 (BitVec.ofNat 64 v))).opDone core 0 id

end Sys2Proof.Machine
end

