-- ==== Sys2Proof/Machine/Memory.lean ====
section
/-!
DEFINITION. Loads, stores, prefetch, fences and waits on memory, with the traffic they cause (R233 to R237, R258, R265 to
R268, R275 to R277, R326, R393).
-/

namespace Sys2Proof.Machine

open Sys2Proof

/-! ### Widths and addresses (R36, R39, R233) -/

/-- The width of a WID in bytes. -/
def widBytes (wid : Nat) : Nat := if wid ≤ 1 then 1 else if wid ≤ 3 then 2 else if wid = 4 then 4 else 8

/-- The value that a load of this WID gives, as 64 bits. -/
def widValue (wid : Nat) (b : List Byte) : Word :=
  let n := ofBytes b
  if wid = 0 then wrap64 (sextN n 8) else if wid = 2 then wrap64 (sextN n 16) else BitVec.ofNat 64 n

/-- sext(OFF, 8) x w. -/
def mDisp (f : FmtM) : Word := f.off.signExtend 64 * BitVec.ofNat 64 (widBytes f.wid.toNat)

/-- An order at die scope or wider (R265). -/
def mWide (f : FmtM) (ord : Nat) : Bool := decide (f.ord.toNat = ord ∧ 3 ≤ f.scope.toNat)

/-- Which address a lane uses. -/
inductive Addr where
  | scalar | unit | gather | strided
  deriving DecidableEq, Repr

/-- ea(l) (R233). -/
def Ctx.ea (c : Ctx) (f : FmtM) (a : Addr) (l : Nat) : Word :=
  match a with
  | .scalar => c.xv f.b + mDisp f
  | .unit => c.xv f.b + mDisp f + BitVec.ofNat 64 (l * widBytes f.wid.toNat)
  | .gather => c.vv2 f.b l + mDisp f
  | .strided => c.xv f.b + mDisp f + BitVec.ofNat 64 l * c.w.xr (opIdx f.b + 1)

/-- The address operands. -/
def Addr.ops (a : Addr) (f : FmtM) : List Opnd :=
  match a with
  | .scalar | .unit => [.xs f.b 24 1]
  | .gather => [.vs f.b 24 2 3]
  | .strided => [.xs f.b 24 2]

/-- The lanes of an access: the guarded active lanes, or for a scalar form the lowest active lane once. -/
def Ctx.accessLanes (c : Ctx) (g : BitVec 5) (a : Addr) : List Nat :=
  match a with
  | .scalar => if c.on g then [lowestLane c.p.mask] else []
  | _ => lanesOf (c.guard g)

/-- data-alignment at the first lane whose address is not a multiple of `w` (R234). -/
def alignCheck (lanes : Option Mask) (w : Nat) (l : List (Nat × Word)) : Try Unit :=
  match l.find? (fun q => q.2.toNat % w != 0) with
  | some q => .error (.trap 0x05 q.2 lanes [])
  | none => .ok ()

/-- L1 accesses wait while a phase boundary runs (R260, R262). -/
def Ctx.noBoundary (c : Ctx) (s : State) : Try Unit := if (s.core c.core).bstage != .idle then stall .phase s else .ok ()

/-- Translate the lanes; the path waits while a walk is under way. -/
def Ctx.located (c : Ctx) (s : State) (dom acc : Nat) (l : List (Nat × Word)) : Try (Located × State) :=
  let r := s.locateLanes c.core 0 (c.acc s dom) acc l
  if r.1.miss then stall .mem r.2 else .ok r

/-! ### Links (R308, R392 to R395) -/

/-- The size that a transaction takes of the window. -/
def txnSize (n : Nat) : Nat := cdiv n 64 * 64

/-- Send a transaction of `n` bytes at a Flefin address for a warp. -/
def State.flefin (s : State) (core slot : Nat) (long_ : Option Nat) (write : Bool) (pa n : Nat) (data : List Byte) (poison : Bool := false) : State :=
  s.modPort (portOf pa) (fun p =>
    { p with txns := p.txns ++ [{ id := p.nextId, core := core, slot := slot, long_ := long_, write := write, off := pa % 2 ^ 45, size := n,
                                  sentAt := s.pkg.now, data := data, poison := poison }],
             nextId := p.nextId + 1, window := p.window + txnSize n })

/-- Every port has credits and window for some transactions, given as address and size (R393). -/
def State.flefinRoom (s : State) (l : List (Nat × Nat)) : Bool :=
  (List.range 8).all (fun p =>
    let here := l.filter (fun q => isFlefin q.1 && portOf q.1 == p)
    let k := s.port p
    here.isEmpty || (decide (k.txns.length + here.length ≤ 65536) &&
      decide (k.window + here.foldl (fun n q => n + txnSize q.2) 0 ≤ 2 ^ 22)))

/-- Write bytes at a window address: a PCIe write leaves at once; a Flefin write is a transaction. Data whose check word failed carries
the link's poison marking and is logged (R242, R243). -/
def State.windowWrite (s : State) (core slot pa : Nat) (data : List Byte) (poison : Bool := false) : State :=
  let s := if poison then s.logEvent 5 (if isFlefin pa then portOf pa / 4 else dieOf core) else s
  if isFlefin pa then s.flefin core slot none true pa data.length data poison
  else s.modPkg (fun k => { k with pciOut := sputs 0 k.pciOut (pa % 2 ^ 48) data,
                                   pciPoison := sputs false k.pciPoison (pa % 2 ^ 48) (data.map (fun _ => poison)) })

/-- Bytes that a PCIe host answers: free values. -/
def State.pcieRead (s : State) (n : Nat) : List Byte × State :=
  ((List.range n).map (fun i => Config.freeByte (s.free + i)), { s with free := s.free + n })

/-! ### The coalescer (R232) -/

/-- The line requests of an access: one for each 128-byte line, in a page with the compression attribute for each 256-byte block. -/
def requests (l : List LaneAt) : Nat :=
  (dedup (l.map (fun q => if q.cmp then 2 * (q.pa / 256) + 1 else 2 * lineOf q.pa))).length

/-- An access enters the coalescer, which sends two requests a vc in the order of issue, counted in halves of a vc; while it still sends those of
an earlier one the path stalls on memory (log 60). The vc by which the last request leaves later. -/
def State.coalesce (s : State) (c : Ctx) (l : List LaneAt) : Try (Nat × State) :=
  let k := s.core c.core
  let from_ := max k.coal (2 * c.vc)
  if 2 * c.vc + 2 ≤ k.coal then stall .mem s
  else
    let end_ := from_ + requests l
    .ok ((end_ - 1) / 2 - c.vc, s.modCore c.core (fun k => { k with coal := end_ }))

/-! ### Loads (R234) -/

/-- A lane's pending load with the bytes that the L1 holds: for an acquire only the dirty ones (R267). -/
def Core.laneLoad (k : Core) (w : Nat) (acq : Bool) (l : LaneAt) : LaneLoad :=
  let one := fun (i : Nat) => if isWindow l.pa then none else if acq then k.l1Dirty (l.pa + i) else k.l1Byte (l.pa + i)
  let got := (List.range w).map one
  { lane := l.lane, off := l.off, pa := l.pa, cmp := l.cmp, got := got, bad := got.any (fun b => b.isSome) && k.l1Bad l.pa }

/-- Send the transactions of a pending load's Flefin lanes. -/
def State.sendReads (s : State) (core slot id w : Nat) (l : List LaneLoad) : State :=
  (l.filter (fun x => isFlefin x.pa)).foldl (fun s x => s.flefin core slot (some id) false x.pa w []) s

/-- Issue a load of some lanes. -/
def State.issueLoad (s : State) (c : Ctx) (wid space : Nat) (acq : Bool) (dest : Dest) (l : List LaneAt) : Try State :=
  let w := widBytes wid
  if !s.flefinRoom (l.map (fun q => (q.pa, w))) then stall .mem s
  else do
    let (late, s) ← s.coalesce c l
    let ll := l.map ((s.core c.core).laneLoad w acq)
    let held := (ll.filter (fun q => !isWindow q.pa)).flatMap (fun q => ((List.range w).filter (fun i => (q.got.getD i none).isSome)).map (fun i => q.pa + i))
    let lines := dedup ((ll.filter (fun q => !isWindow q.pa)).map (fun q => lineOf q.pa))
    let s := if acq then s else s.l1Access c.core c.slot (lines.map (fun n =>
      (n, ll.any (fun q => lineOf q.pa == n && q.got.any (fun b => b.isNone)))))
    let id := (s.core c.core).nextId
    let s := (s.modCore c.core (fun k => k.l1Seen held)).startLong c dest (maskOf (l.map (fun q => q.lane))) (.load wid ll acq) space late
    .ok (s.sendReads c.core c.slot id w ll)

/-- The load instructions. -/
def loadOp (s : State) (f : FmtM) (a : Addr) (dest : Ctx → Dest) (dop : Opnd) : Host.Outcome State Fault Refusal :=
  s.run fun c => do
    let again := match c.p.replay with
      | some (pc, m, d) => if pc = c.p.pc then some (m, d) else none
      | none => none
    let g := c.guard f.g
    let c := match again with | some (_, d) => { c with w := c.w.full d } | none => c
    let lanes := match again with | some (m, _) => lanesOf m | none => c.accessLanes f.g a
    let vec := if a = .scalar then none else some g
    let s ← c.begin s vec (a.ops f ++ (if again.isSome then [] else [dop]))
    if lanes.isEmpty then .ok (s.advance c)
    else do
      let wid := f.wid.toNat
      let es := lanes.map (fun l => (l, c.ea f a l))
      alignCheck vec (widBytes wid) es
      c.noBoundary s
      let (r, s) ← c.located s f.dom.toNat 0 es
      let sp := (c.w.dr f.dom.toNat).toNat
      let acq := mWide f 1
      let d := dest c
      if r.bad.isEmpty then do
        let id := (s.core c.core).nextId
        let s ← s.issueLoad c wid sp acq d r.ok
        let s := (s.modCur c (fun p => { p with replay := none })).advance c
        .ok (if acq then s.park c (.op id .mem) else s)
      else if a = .scalar ∨ c.w.skidUntil.isSome ∨ c.p.handler then trapAt r.bad
      else do
        let s ← s.issueLoad c wid sp acq d r.ok
        let s := s.modCur c (fun p => { p with replay := some (p.pc, faultLanes r.bad, d) })
        .ok (s.takeTrap c (faultCause r.bad) (faultInfo r.bad) (some (faultLanes r.bad)) (faultRecord r.bad))

/-- The destination of a vector load. -/
def mDest (f : FmtM) (c : Ctx) : Dest := .v (c.dregs f.t (decide (f.wid = 5)))
def mDop (f : FmtM) : Opnd := .vd f.t (if f.wid = 5 then 2 else 1)

/-- R234: the scalar load. -/
def execLd (f : FmtM) (s : State) : Host.Outcome State Fault Refusal :=
  loadOp s f .scalar (fun _ => if opIdx f.t = 0 then .none else .x (opIdx f.t)) (.xd f.t)

/-- R234: the unit-stride load. -/
def execVld (f : FmtM) (s : State) : Host.Outcome State Fault Refusal := loadOp s f .unit (mDest f) (mDop f)

/-- R234: the gather. -/
def execVldg (f : FmtM) (s : State) : Host.Outcome State Fault Refusal := loadOp s f .gather (mDest f) (mDop f)

/-- R234: the strided load. -/
def execVlds (f : FmtM) (s : State) : Host.Outcome State Fault Refusal := loadOp s f .strided (mDest f) (mDop f)

/-! ### Requests arriving at their homes (R258) -/

/-- The lane reads of a pending producer. -/
def Pending.loads : Pending → List LaneLoad
  | .load _ l _ => l
  | .tex _ l _ => l
  | _ => []

/-- The same with other lane reads. -/
def Pending.setLoads (k : Pending) (l : List LaneLoad) : Pending :=
  match k with
  | .load w _ acq => .load w l acq
  | .tex ws _ fr => .tex ws l fr
  | k => k

/-- A load with an acquire. -/
def Pending.acq : Pending → Bool
  | .load _ _ acq => acq
  | _ => false

/-- A lane read that has its address. -/
def LaneLoad.placed (x : LaneLoad) : Bool := !x.todo && x.flt.isNone

/-- The lines in which an operation still misses bytes. -/
def LongOp.missing (o : LongOp) : List Nat :=
  dedup ((o.kind.loads.filter (fun x => x.placed && x.got.any (fun b => b.isNone) && !isFlefin x.pa)).map (fun x => lineOf x.pa))

/-- Give a load the bytes of a line that it misses. -/
def LongOp.deliver (o : LongOp) (line : Nat) (bytes : List Byte) (bad : Nat) : LongOp :=
  { o with kind := o.kind.setLoads (o.kind.loads.map (fun x =>
      if lineOf x.pa = line ∧ x.placed then
        let here := fun (i : Nat) => (bytes[x.pa % 128 + i]?).getD 0
        { x with got := x.got.zipIdx.map (fun b => some (b.1.getD (here b.2))),
                 bad := x.bad || (x.got.any (fun b => b.isNone) && Nat.testBit bad (x.pa % 128 / 64)) }
      else x)) }

/-- The blocks of a line of which an operation still misses bytes, as a mask. -/
def LongOp.blocks (o : LongOp) (line : Nat) : Nat :=
  let b := (o.kind.loads.filter (fun x => x.placed && x.got.any (fun b => b.isNone) && lineOf x.pa == line)).map (fun x => x.pa % 128 / 64)
  (if b.contains 0 then 1 else 0) + (if b.contains 1 then 2 else 0)

/-- Requests for a line by the operations numbered below `below` arrive at its home: the line is installed unless every
one is an acquire (R267) or an atomic of the core on it is yet to be performed there (R259), and each operation takes the home's bytes. In a compressed page the block's other line comes with
it, but for operations that follow an own write-back of that line (R232, R259). -/
def State.arriveLine (s : State) (core line below : Nat) : State :=
  let k := s.core core
  let mine := k.longs.filter (fun o => decide (o.id < below) && o.missing.contains line)
  if mine.isEmpty then s
  else if isWindow (line * 128) then
    let (b, s) := s.pcieRead 128
    s.modCore core (fun k => { k with longs := k.longs.map (fun o => if decide (o.id < below) then o.deliver line b 0 else o) })
  else
    let cmp := mine.any (fun o => o.kind.loads.any (fun x => lineOf x.pa == line && x.cmp))
    let plain := mine.filter (fun o => !o.kind.acq)
    let (bytes, bad) := s.homeLine line cmp
    let mate := line ^^^ 1
    let (bytes', bad') := s.homeLine mate cmp
    let s := match mine with | o :: _ => s.coreRead core o.slot line cmp | [] => s
    let used := mine.foldl (fun m o => m ||| o.blocks line) 0
    let held := k.atomicOn line k.nextId || cmp && k.atomicOn mate k.nextId
    let s := match plain with | o :: _ => if held then s else s.l1Fill core o.slot line cmp false used | [] => s
    let give := fun (o : LongOp) =>
      let o := o.deliver line bytes bad
      if cmp && !k.wbPending mate o.id && !k.atomicOn mate o.id then o.deliver mate bytes' bad' else o
    s.modCore core (fun k => { k with longs := k.longs.map (fun o => if decide (o.id < below) then give o else o) })

/-- The first operation on a line that later reads of it by the core wait for: an own write-back or home atomic under way (R259). -/
def Core.before (k : Core) (line : Nat) : Nat :=
  ((k.wbs.filter (fun w => w.line == line && !w.arrived)).map (fun w => w.id) ++
    (k.atomics.filter (fun a => a.lanes.any (fun q => lineOf q.pa == line))).map (fun a => a.id)).foldl min k.nextId

/-- LOAD_REQUEST_ARRIVAL (R258): core, line. Requests that follow an own write-back of the line or an own atomic on it wait for it (R259). -/
def execLoadRequestArrival (s : State) : Host.Outcome State Fault Refusal :=
  let core := s.ev.a
  let line := s.ev.b
  let k := s.core core
  let s := s.arriveLine core line (k.before line)
  .next (match k.reqs.find? (fun r => r.line == line) with
    | some r =>
      if k.before line < k.nextId || r.cmp && k.atomicOn (line ^^^ 1) k.nextId then s
      else (s.l1Fill core r.slot line r.cmp true 0).modCore core (fun k => { k with reqs := k.reqs.filter (fun x => x.line != line) })
    | none => s)

/-- The value of a lane of a load, once it has every byte. -/
def LaneLoad.value (x : LaneLoad) (wid : Nat) : Word := widValue wid (x.got.map (fun b => b.getD 0))

/-- Results of lanes in a destination. -/
def destWrites (d : Dest) (l : List (Nat × Word)) : List Write :=
  match d with
  | .none => []
  | .x n => match l with | q :: _ => [.x n q.2] | [] => []
  | .v regs => laneWrites regs (l.map (fun q => (q.1, q.2.toNat)))

/-! ### Stores (R234, R235, R266) -/

/-- The bytes of a store, ascending by lane, so that a later lane prevails. -/
def storeBytes (w : Nat) (l : List (LaneAt × Word)) : List (Nat × Byte) :=
  l.flatMap (fun q => (leBytes q.2.toNat w).zipIdx.map (fun b => (q.1.pa + b.2, b.1)))

/-- Perform every write-back of a core at once, dirty lines included. -/
def State.performWb (s : State) (core : Nat) (w : Writeback) : State :=
  let ws := (idxs 128 (fun o => w.dirty.getLsbD o)).map (fun o => (w.line * 128 + o, sget 0 w.data o))
  let s := s.arriveLine core w.line w.id
  let s := s.homeWrite ws w.cmp
  let s := { s with memPoison := (List.range 2).foldl (fun p b =>
    if w.poisons b then sput false p (w.line * 2 + b) true else if w.renews b && !w.cmp then sput false p (w.line * 2 + b) false else p) s.memPoison }
  if w.through then
    s.modCore core (fun k =>
      let later := k.wbs.foldl (fun (m : BitVec 128) x =>
        if x.line == w.line && !x.arrived && decide (w.id < x.id) then m ||| x.dirty else m) 0
      (k.stored w.line).modL1 w.line (fun l =>
        let m := w.dirty &&& ~~~(l.dirty ||| later)
        { l with data := ws.foldl (fun d q => if m.getLsbD (q.1 % 128) then sput 0 d (q.1 % 128) q.2 else d) l.data,
                 valid := l.valid ||| m }))
  else s

def State.flushNow (s : State) (core : Nat) : State :=
  let s := (s.writeBack core (fun _ => true)).2
  let s := ((s.core core).wbs.filter (fun w => !w.arrived)).foldl (fun s w => s.performWb core w) s
  s.modCore core (fun k => { k with wbs := k.wbs.map (fun w => { w with arrived := true }) })

/-- Release checks at issue: earlier loads of the warp performed; at system scope, no write to a link peer outstanding
and none that ended in error (R266 step 1, R277, R393). -/
def Ctx.releaseReady (c : Ctx) (s : State) (sys : Bool) : Try State :=
  if (s.core c.core).loading c.slot then stall .mem s
  else if sys && s.portWrites c.core then stall .phase s
  else if sys && s.linkError c.core c.slot then trapS 0x14 0
  else .ok s

/-- The write-through of a release store: one write-back a line, after those of step 2. -/
def State.throughWbs (s : State) (core : Nat) (ws : List (Nat × Byte)) (cmp : Bool) (after : List Nat) : List Nat × State :=
  (dedup (ws.map (fun q => lineOf q.1))).foldl (fun (r : List Nat × State) n =>
    let here := ws.filter (fun q => lineOf q.1 == n)
    let m := here.foldl (fun (m : BitVec 128) q => m ||| BitVec.ofNat 128 (2 ^ (q.1 % 128))) 0
    let l : L1Line := { line := n, valid := m, dirty := m, cmp := cmp, data := here.foldl (fun d q => sput 0 d (q.1 % 128) q.2) [] }
    let (id, s) := r.2.startWb core l after true
    (r.1 ++ [id], s)) ([], s)

/-- Perform the stores of some lanes with their data. -/
def State.issueStore (s : State) (c : Ctx) (w : Nat) (rel : Bool) (l : List (LaneAt × Word)) : Try State :=
  if !s.flefinRoom (l.map (fun q => (q.1.pa, w))) then stall .mem s
  else do
    let (_, s) ← s.coalesce c (l.map (fun q => q.1))
    let win := l.filter (fun q => isWindow q.1.pa)
    let inMem := l.filter (fun q => !isWindow q.1.pa)
    let (plain, packed) := inMem.partition (fun q => !q.1.cmp)
    let send := fun (s : State) => win.foldl (fun s q => s.windowWrite c.core c.slot q.1.pa (leBytes q.2.toNat w)) s
    if !rel then
      let s := send s
      .ok (((s.l1Store c.core c.slot (storeBytes w plain) false).l1Store c.core c.slot (storeBytes w packed) true).advance c)
    else
      let s := if win.isEmpty then s else send (s.flushNow c.core)
      let s := (s.writeBack c.core (fun _ => true)).2
      let ids := (s.core c.core).wbIds
      let (a, s) := s.throughWbs c.core (storeBytes w plain) false ids
      let (b, s) := s.throughWbs c.core (storeBytes w packed) true ids
      .ok ((s.advance c).park c (.order (ids ++ a ++ b) false (win.any (fun q => isFlefin q.1.pa))))

/-- The store instructions. -/
def storeOp (s : State) (f : FmtM) (a : Addr) (data : Ctx → Nat → Word) (src : Opnd) : Host.Outcome State Fault Refusal :=
  s.run fun c => do
    let g := c.guard f.g
    let vec := if a = .scalar then none else some g
    let s ← c.begin s vec (a.ops f ++ [src])
    let lanes := c.accessLanes f.g a
    if lanes.isEmpty then .ok (s.advance c)
    else do
      let w := widBytes f.wid.toNat
      let es := lanes.map (fun l => (l, c.ea f a l))
      alignCheck vec w es
      c.noBoundary s
      let rel := mWide f 2
      let s ← if rel then c.releaseReady s (decide (f.scope = 5)) else .ok s
      let (r, s) ← c.located s f.dom.toNat 1 es
      if r.bad.isEmpty then s.issueStore c w rel (r.ok.map (fun q => (q, data c q.lane)))
      else trapAt r.bad

/-- The data of a vector store: the register, or for WID 5 the pair. -/
def mData (f : FmtM) (c : Ctx) (l : Nat) : Word := if f.wid = 5 then c.vv2 f.t l else (c.vv f.t l).setWidth 64
def mSrc (f : FmtM) : Opnd := .vs f.t 32 (if f.wid = 5 then 2 else 1) (if f.wid.toNat ≤ 3 then 1 else 3)

/-- R234: the scalar store. -/
def execSt (f : FmtM) (s : State) : Host.Outcome State Fault Refusal :=
  storeOp s f .scalar (fun c _ => c.xv f.t) (.xs f.t 32 1)

/-- R234: the unit-stride store. -/
def execVst (f : FmtM) (s : State) : Host.Outcome State Fault Refusal := storeOp s f .unit (mData f) (mSrc f)

/-- R234, R235: the scatter. -/
def execVstg (f : FmtM) (s : State) : Host.Outcome State Fault Refusal := storeOp s f .gather (mData f) (mSrc f)

/-- R234, R235: the strided store. -/
def execVsts (f : FmtM) (s : State) : Host.Outcome State Fault Refusal := storeOp s f .strided (mData f) (mSrc f)

/-! ### Write-backs (R258, R266) -/

/-- Paths of a core that wait for write-backs or link writes go on once those are acknowledged (R266 to R268). -/
def State.orders (s : State) (core : Nat) : State :=
  let ids := (s.core core).wbIds
  let busy := s.portWrites core
  let ready := fun (p : Path) => match p.wait with
    | .order l _ po => l.all (fun i => !ids.contains i) && !(po && busy)
    | _ => false
  let acq := (s.core core).slots.any (fun sl => (s.warp core sl).paths.any (fun p =>
    ready p && (match p.wait with | .order _ a _ => a | _ => false)))
  let s := if acq then s.modCore core (fun k => k.dropClean (fun _ => true)) else s
  (s.core core).slots.foldl (fun s sl => s.modWarp core sl (fun w =>
    { w with paths := modWhere ready (fun p => { p with wait := .none }) w.paths })) s

/-- LINE_EVICTION (R258): core, line. -/
def execLineEviction (s : State) : Host.Outcome State Fault Refusal := .next (s.evict s.ev.a s.ev.b false)

/-- WRITEBACK_ARRIVAL (R258): core, write-back. One that follows others waits for their acknowledgement; those of one line
arrive in order. -/
def execWritebackArrival (s : State) : Host.Outcome State Fault Refusal :=
  let core := s.ev.a
  let k := s.core core
  .next (match k.wbs.find? (fun w => w.id == s.ev.b && !w.arrived) with
    | none => s
    | some w =>
      if w.after.any (fun i => k.wbs.any (fun x => x.id == i)) || k.wbPending w.line w.id then s
      else (s.performWb core w).modCore core (fun k =>
        { k with wbs := modWhere (fun x => x.id == w.id) (fun x => { x with arrived := true }) k.wbs }))

/-- WRITEBACK_ACK (R258): core, write-back. -/
def execWritebackAck (s : State) : Host.Outcome State Fault Refusal :=
  let core := s.ev.a
  if (s.core core).wbs.any (fun w => w.id == s.ev.b && w.arrived) then
    .next ((s.modCore core (fun k => { k with wbs := k.wbs.filter (fun w => w.id != s.ev.b) })).orders core)
  else .next s

/-! ### dprf (R237) -/

/-- The memory line that a prefetch names, with the format of its page; none where its translation would fault, and for a
window (R237). -/
def State.prefetchAt (s : State) (a : Acc) (off : Word) : Option (Nat × Bool) :=
  if a.raw then (if off.toNat < memTop then some (off.toNat, false) else none)
  else if !(s.part a.part).hasVf a.vf then none
  else match s.walk a.part a.vf a.space off 0 (decide (a.level = .user)) with
    | .ok e => if s.admits a (e.pa off) false && !isWindow (e.pa off) then some (e.pa off, e.cmp) else none
    | _ => none

/-- R237: a fault drops the request; the line is requested into the L1, or filled into its home's system cache. -/
def execDprf (f : FmtM) (s : State) : Host.Outcome State Fault Refusal :=
  s.run fun c => do
    let s ← c.begin s none [.xs f.b 24 1]
    if !c.on f.g then .ok (s.advance c)
    else
      let a := c.acc s f.dom.toNat
      match s.prefetchAt a (c.xv f.b + f.off.signExtend 64) with
      | none => .ok (s.advance c)
      | some (pa, cmp) =>
        let cls := if c.svc then (0, none) else (teamClass a.vf, some a.vf)
        let s := s.scRead (lineOf pa) cls.1 cls.2 cmp
        if f.wid = 0 then
          let s := if ((s.core c.core).l1Line (lineOf pa)).isNone then s.l1Miss c.core c.slot (lineOf pa) else s
          .ok ((s.modCore c.core (fun k => { k with reqs := k.reqs ++ [{ line := lineOf pa, slot := c.slot, cmp := cmp }] })).advance c)
        else .ok (s.advance c)

/-! ### fence (R268, R276) -/

/-- R268: release, acquire or both, at die scope or wider; narrower ones retire at issue. -/
def execFence (f : FmtM) (s : State) : Host.Outcome State Fault Refusal :=
  s.run fun c =>
    if !c.on f.g ∨ f.scope.toNat < 3 then .ok (s.advance c)
    else do
      c.noBoundary s
      let acq := decide (f.ord ≠ 2)
      if f.ord = 1 then .ok ((s.modCore c.core (fun k => k.dropClean (fun _ => true))).advance c)
      else do
        let s ← c.releaseReady s (decide (f.scope = 5))
        let s := (s.writeBack c.core (fun _ => true)).2
        let ids := (s.core c.core).wbIds
        if ids.isEmpty then .ok ((if acq then s.modCore c.core (fun k => k.dropClean (fun _ => true)) else s).advance c)
        else .ok ((s.advance c).park c (.order ids acq false))

/-! ### mwait (R275) -/

/-- The condition of an `mwait` (R115). -/
def MWait.met (m : MWait) (v : Word) : Bool :=
  if m.w = 4 then condHolds m.cond (v.setWidth 32) (m.val.setWidth 32 : BitVec 32) else condHolds m.cond v m.val

/-- A byte that an `mwait` takes from the core's L1: a valid one, or at the home only a dirty one. -/
def Core.mwaitByte (k : Core) (m : MWait) (i : Nat) : Option Byte := if m.home then k.l1Dirty (m.pa + i) else k.l1Byte (m.pa + i)

/-- The word under an `mwait` as it stands in the L1, and for the bytes not taken from there at its home. -/
def State.mwaitWord (s : State) (core : Nat) (m : MWait) : Word :=
  let k := s.core core
  let at_ := s.homeBytes m.pa m.w m.cmp
  BitVec.ofNat 64 (ofBytes ((List.range m.w).map (fun i =>
    (k.mwaitByte m i).getD ((k.ownByte (m.pa + i)).getD ((at_[i]?).getD 0)))))

/-- A byte of that word comes from a poisoned block (R243). -/
def State.mwaitBad (s : State) (core : Nat) (m : MWait) : Bool :=
  let k := s.core core
  let held := (List.range m.w).map (fun i => (k.mwaitByte m i).isSome)
  held.any (fun h => h) && k.l1Bad m.pa || held.any (fun h => !h) && s.homeBad m.pa m.cmp

/-- Read the word of an `mwait`: at its home, which brings it into the system cache, or in the L1, which fills the line where a byte is not valid: a
miss of the warp (R281). -/
def State.mwaitRead (s : State) (core slot : Nat) (m : MWait) : Word × State :=
  let line := lineOf m.pa
  let s :=
    if m.home then s.coreRead core slot line m.cmp
    else if (List.range m.w).all (fun i => ((s.core core).l1Byte (m.pa + i)).isSome) then
      (s.modCore core (fun k => k.l1Seen [m.pa])).l1Use core line
    else ((s.l1Miss core slot line).coreRead core slot line m.cmp).l1Fill core slot line m.cmp false (2 ^ (m.pa % 128 / 64))
  (s.mwaitWord core m, s)

/-- Waiters that hold a line monitor of a die (R275). -/
def State.monitorsHeld (s : State) (die : Nat) : Nat :=
  s.cores.foldl (fun n k => k.2.warps.foldl (fun n w => w.2.paths.foldl (fun n p => match p.wait with
    | .mwait m => if m.home && m.poll.isNone && m.op.isNone && s.homeDie m.pa == die then n + 1 else n
    | _ => n) n) n) 0

/-- When a waiter without a line monitor reads again: 256 nc of the core's die from `t` on (R275). -/
def State.pollAt (s : State) (core t : Nat) : Nat := t + 256 * ncPeriod (s.die (dieOf core)).an

/-- The wait of an `mwait` ends: the acquire step, and the path goes on. -/
def State.mwaitEnd (s : State) (core slot path : Nat) (m : MWait) : State :=
  let s := s.modPath core slot path (fun p => { p with wait := .none, pc := p.pc + 8 })
  if m.acq && m.home then s.modCore core (fun k => k.dropClean (fun _ => true)) else s

/-- An `mwait` at a link peer reads at the remote side (R277): a Flefin transaction, whose answer ends the wait or starts the time to the next
read; what a PCIe host answers is free. The link has no line monitor, so the read is made again as one without (log 61). -/
def State.mwaitLink (s : State) (c : Ctx) (off : Word) (wid : Nat) (m : MWait) : Try State :=
  if isFlefin m.pa then
    if !s.flefinRoom [(m.pa, m.w)] then stall .mem s
    else
      let id := (s.core c.core).nextId
      let lane := lowestLane c.p.mask
      let x : LaneLoad := { lane := lane, off := off, pa := m.pa, got := List.replicate m.w none }
      .ok (((s.startLong c .none (laneBit lane) (.load wid [x] false)).sendReads c.core c.slot id m.w [x]).park c (.mwait { m with op := some id }))
  else
    let (b, s) := s.pcieRead m.w
    .ok (if m.met (BitVec.ofNat 64 (ofBytes b)) then s.mwaitEnd c.core c.slot c.p.id m
         else s.park c (.mwait { m with poll := some (s.pollAt c.core s.pkg.now) }))

/-- The answer of a link peer to an `mwait` of a warp. -/
def State.mwaitAnswer (s : State) (core : Nat) (o : LongOp) : State :=
  match (s.warp core o.slot).paths.find? (fun p => match p.wait with | .mwait m => m.op == some o.id | _ => false), o.kind with
  | some p, .load wid (x :: _) _ => match p.wait with
    | .mwait m =>
      if m.met (x.value wid) then s.mwaitEnd core o.slot p.id m
      else s.modPath core o.slot p.id (fun p => { p with wait := .mwait { m with op := none, poll := some (s.pollAt core s.pkg.now) } })
    | _ => s
  | _, _ => s

/-- R275. -/
def execMwait (f : FmtM) (s : State) : Host.Outcome State Fault Refusal :=
  s.run fun c => do
    let s ← c.begin s none [.xs f.b 24 1, .xs f.t 32 2]
    if !c.on f.g then .ok (s.advance c)
    else do
      let w := widBytes f.wid.toNat
      let off := c.xv f.b + mDisp f
      let cv := c.w.xr (opIdx f.t + 1)
      let lane := lowestLane c.p.mask
      alignCheck none w [(lane, off)]
      c.noBoundary s
      let (r, s) ← c.located s f.dom.toNat 0 [(lane, off)]
      match r.ok with
      | [] => trapAt r.bad
      | q :: _ =>
        if 8 ≤ cv.toNat then trapS 0x09 cv
        else
          let m : MWait := { pa := q.pa, cmp := q.cmp, w := w, cond := cv.toNat, val := c.xv f.t, acq := decide (f.ord = 1),
                             home := decide (3 ≤ f.scope.toNat) }
          if isWindow q.pa then s.mwaitLink c off f.wid.toNat m
          else if (s.core c.core).atomicOn (lineOf q.pa) (s.core c.core).nextId then stall .mem s
          else if s.mwaitBad c.core m then trapS 0x14 (integrityInfo off.toNat)
          else
            let (v, s) := s.mwaitRead c.core c.slot m
            if m.met v then .ok (s.mwaitEnd c.core c.slot c.p.id m)
            else
              let poll := if m.home && decide (4096 ≤ s.monitorsHeld (s.homeDie q.pa)) then some (s.pollAt c.core s.pkg.now) else none
              .ok (s.park c (.mwait { m with poll := poll }))

/-- A path in `mwait` starts its instruction again, and so translates again (R317). -/
def Path.rewait (p : Path) : Path := match p.wait with | .mwait .. => { p with wait := .none } | _ => p

/-- Read an `mwait`'s word again and end the wait where it meets the condition. One whose frame no longer admits the path (R320), or whose word
would be consumed poisoned, starts its instruction again, which traps. -/
def State.mwaitAgain (s : State) (core slot path : Nat) : State :=
  let w := s.warp core slot
  match w.path path with
  | some p => match p.wait with
    | .mwait m =>
      if !s.admits (s.accOf core w p.level 0) m.pa false || isWindow m.pa || s.mwaitBad core m then s.modPath core slot path Path.rewait
      else
        let (v, s) := s.mwaitRead core slot m
        if m.met v then s.mwaitEnd core slot path m
        else s.modPath core slot path (fun p => { p with wait := .mwait { m with wrote := false } })
    | _ => s
  | none => s

/-- MWAIT_WAKE (R275): core, slot, path. -/
def execMwaitWake (s : State) : Host.Outcome State Fault Refusal := .next (s.mwaitAgain s.ev.a s.ev.b s.ev.c)

/-- MWAIT_POLL (R275): core, slot, path; a waiter without a line monitor reads again every 256 nc. -/
def execMwaitPoll (s : State) : Host.Outcome State Fault Refusal :=
  let e := s.ev
  .next (match (s.warp e.a e.b).path e.c with
    | some p => match p.wait with
      | .mwait m => match m.poll with
        | some t =>
          if s.pkg.now < t then s
          else (s.modPath e.a e.b e.c (fun p => { p with wait := .mwait { m with poll := some (s.pollAt e.a t) } })).mwaitAgain e.a e.b e.c
        | none => s
      | _ => s
    | none => s)

end Sys2Proof.Machine
end

