-- ==== Sys2Proof/Machine/VecFloat.lean ====
section
/-!
DEFINITION. Row 0x5: floating-point and dot-product lane instructions (R155 to R161).
-/

namespace Sys2Proof.Machine

open Sys2Proof

/-- The value of argument `i` of an element operation, read under FTZ. -/
def argv (F : Ffmt) (ftz : Bool) (l : List Nat) (i : Nat) : Fv := F.read ftz (l.getD i 0)

/-- R156: `a + b`. -/
def execFadd (f : FmtA) (s : State) : Host.Outcome State Fault Refusal :=
  fpOp s f [(f.s1, 24), (f.s2, 16)] 5 10 true fun c F l r => F.rnd c.rm (fvAdd c.rm (argv F c.rm.ftz l 0) (argv F c.rm.ftz l 1)) r

/-- R156: `a - b`. -/
def execFsub (f : FmtA) (s : State) : Host.Outcome State Fault Refusal :=
  fpOp s f [(f.s1, 24), (f.s2, 16)] 5 10 true fun c F l r =>
    F.rnd c.rm (fvAdd c.rm (argv F c.rm.ftz l 0) (argv F c.rm.ftz l 1).negate) r

/-- R156: `a × b`. -/
def execFmul (f : FmtA) (s : State) : Host.Outcome State Fault Refusal :=
  fpOp s f [(f.s1, 24), (f.s2, 16)] 5 10 true fun c F l r => F.rnd c.rm (fvMul (argv F c.rm.ftz l 0) (argv F c.rm.ftz l 1)) r

/-- R156: `a × b + c` with one rounding. -/
def execFma (f : FmtA) (s : State) : Host.Outcome State Fault Refusal :=
  fpOp s f [(f.s1, 24), (f.s2, 16), (f.s3, 8)] 5 10 true fun c F l r =>
    F.rnd c.rm (fvFma c.rm (argv F c.rm.ftz l 0) (argv F c.rm.ftz l 1) (argv F c.rm.ftz l 2)) r

/-- The lesser (`max` clear) or greater of two elements (R157): −0 below +0, a lone NaN loses, and a subnormal under FTZ
is the zero of its sign. -/
def Ffmt.minMax (F : Ffmt) (ftz isMax : Bool) (x y : Nat) : Nat × Nat :=
  let a := F.read ftz x
  let b := F.read ftz y
  let out := fun (v : Nat) => if ftz && F.isSub v then F.zero (Nat.testBit v (F.width - 1)) else v
  let fl := nvIf [a, b]
  if a.isNan && b.isNan then (F.nan, fl)
  else if a.isNan then (out y, fl)
  else if b.isNan then (out x, fl)
  else
    let o := fvCmp a b
    let less := decide (o < 0) || decide (o = 0) && a.sign && !b.sign
    if less != isMax then (out x, fl) else (out y, fl)

/-- R157. -/
def execFmin (f : FmtA) (s : State) : Host.Outcome State Fault Refusal :=
  fpOp s f [(f.s1, 24), (f.s2, 16)] 3 3 false fun c F l _ => F.minMax c.rm.ftz false (l.getD 0 0) (l.getD 1 0)

/-- R157. -/
def execFmax (f : FmtA) (s : State) : Host.Outcome State Fault Refusal :=
  fpOp s f [(f.s1, 24), (f.s2, 16)] 3 3 false fun c F l _ => F.minMax c.rm.ftz true (l.getD 0 0) (l.getD 1 0)

/-- R158: the sign cleared, inverted or set. -/
def execFabn (f : FmtA) (s : State) : Host.Outcome State Fault Refusal :=
  fpOp s f [(f.s1, 24)] 3 3 false fun c F l _ =>
    let x := l.getD 0 0
    let neg := match f.s3.toNat % 4 with
      | 0 => false
      | 1 => !Nat.testBit x (F.width - 1)
      | _ => true
    match F.read c.rm.ftz x with
    | .nan sg => (F.nan, if sg then 16 else 0)
    | .num _ 0 _ => (F.zero neg, 0)
    | _ => (F.signBit neg + x % 2 ^ (F.width - 1), 0)

/-- The divide unit of a pipe and its occupancy (R149). -/
def divUnit (pipe : Nat) : Nat := 4 + pipe
def divOcc (md : Nat) (c : Ctx) : Nat := (if md = 3 then 8 else 2) * cdiv c.slices 4

/-- R156: `a / b`, long-latency. -/
def execFdiv (f : FmtA) (s : State) : Host.Outcome State Fault Refusal :=
  longOp s f [(f.s1, 24), (f.s2, 16)] divUnit (divOcc f.md.toNat) true fun c F l r =>
    F.rnd c.rm (fvDiv (argv F c.rm.ftz l 0) (argv F c.rm.ftz l 1)) r

/-- R156: `√a`, long-latency. -/
def execFsqrt (f : FmtA) (s : State) : Host.Outcome State Fault Refusal :=
  longOp s f [(f.s1, 24)] divUnit (divOcc f.md.toNat) true fun c F l r => F.rnd c.rm (fvSqrt (argv F c.rm.ftz l 0)) r

/-- An exact dot product of element pairs plus an accumulator (R161). -/
def dotEx (rm : Rm) (pairs : List (Fv × Fv)) (acc : Fv) : Ex :=
  let terms := (pairs.filter (fun q => !q.1.isNan && !q.2.isNan)).map (fun q => mulTerm q.1 q.2) ++
    (if acc.isNan then [] else [valTerm acc])
  let vals := acc :: pairs.flatMap (fun q => [q.1, q.2])
  let bad := terms.any (fun t => t == .bad) || (terms.any (fun t => t == .inf true) && terms.any (fun t => t == .inf false))
  if vals.any Fv.isNan || bad then .nan (nvIf vals ||| (if bad then 16 else 0))
  else sumTerms (rm.mode == 3) terms

/-- The shape of `fdot2` and `fdot4`: `n` elements of `F` by `G` per lane, accumulated into FP32. -/
def dotOp (s : State) (f : FmtA) (F G : Ffmt) (n : Nat) : Host.Outcome State Fault Refusal :=
  s.run fun c => do
    let m := c.guard f.g
    let s ← c.begin s (some m) [.vs f.s1 24 1 3, .vs f.s2 16 1 3, .vs f.s3 8 1 3, .vd f.d 1]
    let r := c.eachLane m (c.rm.mode == 4) 32 1 (fun l _ d =>
      let pairs := (List.range n).map (fun k =>
        (F.read c.rm.ftz (elem (c.vv f.s1 l).toNat F.width k), G.read c.rm.ftz (elem (c.vv f.s2 l).toNat G.width k)))
      f32.rnd c.rm (dotEx c.rm pairs (f32.read c.rm.ftz (c.vv f.s3 l).toNat)) d)
    .ok ((((s.setSr c r.sr).landLanes c 6 f.d false r.vals).landFlags c 6 r.flags).advance c)

/-- R161: two FP16 or BF16 elements. -/
def execFdot2 (f : FmtA) (s : State) : Host.Outcome State Fault Refusal :=
  let F := if f.md = 2 then bf16 else f16
  dotOp s f F F 2

/-- R161: four FP8 elements. -/
def execFdot4 (f : FmtA) (s : State) : Host.Outcome State Fault Refusal :=
  dotOp s f (if f.md = 1 ∨ f.md = 3 then e5m2 else e4m3) (if f.md = 1 ∨ f.md = 2 then e5m2 else e4m3) 4

/-- R161: four INT8 elements into INT32. -/
def execVdot4 (f : FmtA) (s : State) : Host.Outcome State Fault Refusal :=
  let md := f.md.toNat
  laneOp s f.g [.vs f.s1 24 1 3, .vs f.s2 16 1 3, .vs f.s3 8 1 3] 6 f.d fun c l =>
    let as_ := decide (md % 4 = 0 ∨ md % 4 = 2)
    let bs := decide (md % 4 = 0 ∨ md % 4 = 3)
    let byte := fun (sg : Bool) (x k : Nat) => if sg then sextN (elem x 8 k) 8 else (elem x 8 k : Int)
    let t := (List.range 4).foldl (fun (t : Int) k =>
      t + byte as_ (c.vv f.s1 l).toNat k * byte bs (c.vv f.s2 l).toNat k) (c.vv f.s3 l).toInt
    wrap32 (if 4 ≤ md then satI t (-2 ^ 31) (2 ^ 31 - 1) else t)

/-- The class bit of an element (R159). -/
def Ffmt.classBit (F : Ffmt) (x : Nat) : Nat :=
  match F.decode x with
  | .nan sg => if sg then 8 else 9
  | .inf n => if n then 0 else 7
  | .num n m _ => if m = 0 then (if n then 3 else 4) else if F.isSub x then (if n then 2 else 5) else (if n then 1 else 6)

/-- R159: the class mask of each element, in one register. -/
def execFclass (f : FmtA) (s : State) : Host.Outcome State Fault Refusal :=
  s.run fun c => do
    let md := f.md.toNat
    let m := c.guard f.g
    let s ← c.begin s (some m) [vsrc md f.s1 24, .vd f.d 1]
    let (F, n) := typeOf md
    let vals := (lanesOf m).map (fun l => (l, (List.range n).foldl (fun x k =>
      x + 2 ^ (F.classBit (elem (c.raw md f.s1 l) F.width k) + 16 * k)) 0))
    .ok (((s.landLanes c 3 f.d false vals).holdIfD c md).advance c)

/-- R160: each element rounded to an integral value in its own format. -/
def execFrnd (f : FmtA) (s : State) : Host.Outcome State Fault Refusal :=
  fpOp s f [(f.s1, 24)] 4 4 true fun c F l r =>
    match argv F c.rm.ftz l 0 with
    | .nan sg => (F.nan, if sg then 16 else 0)
    | .inf n => (F.inf n, 0)
    | .num n m e =>
      if m = 0 then (F.zero n, 0)
      else
        let (v, ex) := rndInt c.rm.mode n (.dy m e) r
        let b := if v = 0 then F.zero n else (F.rndMag { mode := 0 } n (.dy v.natAbs 0) 0).1
        (b, if ex then 0 else 1)

end Sys2Proof.Machine
end

