-- ==== Sys2Proof/Machine/Atomics.lean ====
section
/-!
DEFINITION. Atomics (R238 to R240, R266, R267): performed in the core's L1 at core scope or narrower, at the home of the
line at die scope or wider.
-/

namespace Sys2Proof.Machine

open Sys2Proof

/-- A floating sum under RNE without FTZ, a NaN canonical, no flag raised (R238). -/
def atomFadd (F : Ffmt) (a b : Nat) : Nat :=
  let rm : Rm := { mode := 0, ftz := false }
  (F.rnd rm (fvAdd rm (F.read false a) (F.read false b)) 0).1

/-- The new value of an atomic operation on values of the width (R238). -/
def atomNew (op : Nat) (wide : Bool) (m s : Word) : Word :=
  let sx : Word → Int := fun x => if wide then x.toInt else (x.setWidth 32 : BitVec 32).toInt
  let v := match op with
    | 0 => s
    | 1 => m + s
    | 2 => m &&& s
    | 3 => m ||| s
    | 4 => m ^^^ s
    | 5 => if sx m ≤ sx s then m else s
    | 6 => if sx m ≤ sx s then s else m
    | _ => BitVec.ofNat 64 (if wide then atomFadd f64 m.toNat s.toNat else atomFadd f32 (m.toNat % 2 ^ 32) (s.toNat % 2 ^ 32))
  if wide then v else v.setWidth 32 |>.setWidth 64

/-- What the word becomes. -/
def atomStep (op : Nat) (wide cas : Bool) (m : Word) (l : AtomLane) : Word :=
  if cas then (if m = l.a then l.b else m) else atomNew op wide m l.a

/-- Read a word for an atomic: in the L1, filling the line, or at its home. -/
def State.atomRead (s : State) (core slot : Nat) (here : Bool) (pa w : Nat) (cmp : Bool) : Word × State :=
  if here then
    let hit := (List.range w).all (fun i => ((s.core core).l1Byte (pa + i)).isSome)
    let s := s.l1Access core slot [(lineOf pa, !hit)]
    let s := if hit then s.modCore core (fun k => k.l1Seen [pa])
      else (s.coreRead core slot (lineOf pa) cmp).l1Fill core slot (lineOf pa) cmp false (2 ^ (pa % 128 / 64))
    (BitVec.ofNat 64 (ofBytes ((List.range w).map (fun i => ((s.core core).l1Byte (pa + i)).getD 0))), s)
  else (BitVec.ofNat 64 (ofBytes (s.homeBytes pa w cmp)), s)

/-- Perform one lane of an atomic: its old value. -/
def State.atomLane (s : State) (core slot : Nat) (here : Bool) (op : Nat) (wide cas : Bool) (l : AtomLane) : Word × State :=
  let w := if wide then 8 else 4
  let (m, s) := s.atomRead core slot here l.pa w l.cmp
  let ws := (leBytes (atomStep op wide cas m l).toNat w).zipIdx.map (fun b => (l.pa + b.2, b.1))
  (m, if here then s.l1Store core slot ws l.cmp else s.homeWrite ws l.cmp)

/-- Perform lanes in ascending order (R239). -/
def State.atomLanes (s : State) (core slot : Nat) (here : Bool) (op : Nat) (wide cas : Bool) (l : List AtomLane) :
    List (Nat × Word) × State :=
  l.foldl (fun (r : List (Nat × Word) × State) x =>
    let (m, s) := r.2.atomLane core slot here op wide cas x
    (r.1 ++ [(x.lane, m)], s)) ([], s)

/-- An atomic with a lane in a window: the other lanes are performed at once, after the write-back and drop that R240 requires; PCIe answers are
free values, Flefin lanes wait for their responses (R277, R393), and an acquire's step 2 follows when every lane's read is done (R267). -/
def State.atomWindow (s : State) (c : Ctx) (dest : Dest) (here acq : Bool) (op : Nat) (wide cas : Bool) (l : List AtomLane) : State :=
  let w := if wide then 8 else 4
  let lines := dedup ((l.filter (fun q => !isWindow q.pa)).map (fun q => lineOf q.pa))
  let s := if here then s else (s.flushNow c.core).modCore c.core (fun k => k.dropClean (fun x => lines.contains x.line))
  let id := (s.core c.core).nextId
  let r := l.foldl (fun (r : List LaneLoad × State) x =>
    let ll : LaneLoad := { lane := x.lane, off := 0, pa := x.pa, got := List.replicate w none }
    let bytes := fun (m : Word) => (leBytes m.toNat w).map some
    if isFlefin x.pa then (r.1 ++ [ll], r.2.flefin c.core c.slot (some id) true x.pa w (leBytes x.a.toNat w ++ leBytes x.b.toNat w))
    else if isWindow x.pa then
      let (b, s) := r.2.pcieRead w
      (r.1 ++ [{ ll with got := b.map some }], s.windowWrite c.core c.slot x.pa (leBytes x.a.toNat w))
    else
      let (m, s) := r.2.atomLane c.core c.slot here op wide cas x
      (r.1 ++ [{ ll with got := bytes m }], s)) ([], s)
  r.2.startLong c dest (maskOf (l.map (fun q => q.lane))) (.load (if wide then 5 else 4) r.1 acq)

/-- Issue an atomic of some lanes. -/
def State.issueAtomic (s : State) (c : Ctx) (f : FmtN) (dest : Dest) (cas : Bool) (l : List AtomLane) : Try State :=
  let here := decide (f.scope.toNat < 3)
  let rel := !here && decide (2 ≤ f.ord.toNat)
  let acq := !here && decide (f.ord.toNat % 2 = 1)
  let op := f.aop.toNat % 8
  let wide := decide (8 ≤ f.aop.toNat)
  let mask := maskOf (l.map (fun q => q.lane))
  let id := (s.core c.core).nextId
  if (here && l.any (fun q => (s.core c.core).atomicOn (lineOf q.pa) id)) || !s.flefinRoom (l.map (fun q => (q.pa, 64))) then stall .mem s
  else do
    let (late, s) ← s.coalesce c (l.map (fun q => { lane := q.lane, off := 0, pa := q.pa, cmp := q.cmp }))
    if l.any (fun q => isWindow q.pa) then
      .ok (((s.atomWindow c dest here acq op wide cas l).advance c).park c (if rel || acq then .op id .mem else .none))
    else if here then
      let r := s.atomLanes c.core c.slot true op wide cas l
      .ok ((r.2.startLong c dest mask (.done (destWrites dest r.1) 0) (delay := late)).advance c)
    else
      let s := s.startLong c dest mask .atomic
      let lines := dedup (l.map (fun q => lineOf q.pa))
      let s := lines.foldl (fun s n => s.evict c.core n false) s
      let s := if rel then (s.writeBack c.core (fun _ => true)).2 else s
      let wbs := if rel then (s.core c.core).wbIds
        else (((s.core c.core).wbs.filter (fun w => lines.contains w.line)).map (fun w => w.id))
      let h : HomeAtomic := { id := id, slot := c.slot, path := c.p.id, lanes := l, aop := op, wide := wide, cas := cas, dest := dest,
                              wbs := wbs, acq := acq }
      let s := (s.modCore c.core (fun k => { k with atomics := k.atomics ++ [h] })).advance c
      .ok (if rel || acq then s.park c (.op id .mem) else s)

/-- The atomic instructions: address, operands and old value by lane. -/
def atomicOp (s : State) (f : FmtN) (vec cas : Bool) (ea : Ctx → Nat → Word) (a b : Ctx → Nat → Word) (srcs : List Opnd)
    (dest : Ctx → Dest) (dop : Opnd) : Host.Outcome State Fault Refusal :=
  s.run fun c => do
    let g := c.guardN f.g
    let m := if vec then some g else none
    let s ← c.begin s m (srcs ++ [dop])
    let lanes := if vec then lanesOf g else if c.onN f.g then [lowestLane c.p.mask] else []
    if lanes.isEmpty then .ok (s.advance c)
    else do
      let w := if 8 ≤ f.aop.toNat then 8 else 4
      let es := lanes.map (fun l => (l, ea c l))
      alignCheck m w es
      c.noBoundary s
      let s ← if 2 ≤ f.ord.toNat ∧ 3 ≤ f.scope.toNat then c.releaseReady s (decide (f.scope = 5)) else .ok s
      let (r, s) ← c.located s f.dom.toNat 2 es
      if !r.bad.isEmpty then trapAt r.bad
      else
        let bad := fun (q : LaneAt) => !isWindow q.pa &&
          (if decide (f.scope.toNat < 3) && ((s.core c.core).l1Byte q.pa).isSome then (s.core c.core).l1Bad q.pa else s.homeBad q.pa q.cmp)
        match r.ok.find? bad with
        | some q => .error (.trap 0x14 (integrityInfo q.off.toNat) m [])
        | none =>
          let cut := fun (x : Word) => if w = 8 then x else x.setWidth 32 |>.setWidth 64
          s.issueAtomic c f (dest c) cas (r.ok.map (fun q =>
            { lane := q.lane, pa := q.pa, cmp := q.cmp, a := cut (a c q.lane), b := cut (b c q.lane) }))

/-- The scalar destination. -/
def nDest (f : FmtN) (_ : Ctx) : Dest := if opIdx f.d = 0 then .none else .x (opIdx f.d)
/-- The vector destination: a pair for w64. -/
def nWide (f : FmtN) : Bool := decide (8 ≤ f.aop.toNat)
def nVdest (f : FmtN) (c : Ctx) : Dest := .v (c.dregs f.d (nWide f))
/-- A vector operand of the width, `k` registers or pairs after S. -/
def nVal (f : FmtN) (k : Nat) (c : Ctx) (l : Nat) : Word :=
  let b := f.s + BitVec.ofNat 8 (if nWide f then 2 * k else k)
  if nWide f then c.vv2 b l else (c.vv b l).setWidth 64

/-- R239: scalar read-modify-write. -/
def execAtom (f : FmtN) (s : State) : Host.Outcome State Fault Refusal :=
  atomicOp s f false false (fun c _ => c.xv f.b) (fun c _ => c.xv f.s) (fun _ _ => 0) [.xs f.b 24 1, .xs f.s 16 1] (nDest f) (.xd f.d)

/-- R239: per-lane read-modify-write. -/
def execVatom (f : FmtN) (s : State) : Host.Outcome State Fault Refusal :=
  atomicOp s f true false (fun c l => c.vv2 f.b l) (nVal f 0) (fun _ _ => 0)
    [.vs f.b 24 2 3, .vs f.s 16 (if nWide f then 2 else 1) 3] (nVdest f) (.vd f.d (if nWide f then 2 else 1))

/-- R239: scalar compare-and-swap; the compare value in S, the new value in the register after it. -/
def execCas (f : FmtN) (s : State) : Host.Outcome State Fault Refusal :=
  atomicOp s f false true (fun c _ => c.xv f.b) (fun c _ => c.xv f.s) (fun c _ => c.w.xr (opIdx f.s + 1))
    [.xs f.b 24 1, .xs f.s 16 2] (nDest f) (.xd f.d)

/-- R239: per-lane compare-and-swap. -/
def execVcas (f : FmtN) (s : State) : Host.Outcome State Fault Refusal :=
  atomicOp s f true true (fun c l => c.vv2 f.b l) (nVal f 0) (nVal f 1)
    [.vs f.b 24 2 3, .vs f.s 16 (if nWide f then 4 else 2) 3] (nVdest f) (.vd f.d (if nWide f then 2 else 1))

/-- An atomic is performed at its home, its line leaving the core's L1; an acquire's step 2 follows (R240, R267). -/
def State.atomHome (s : State) (core : Nat) (a : HomeAtomic) : State :=
  let lines := dedup (a.lanes.map (fun q => lineOf q.pa))
  let s := lines.foldl (fun s n => s.arriveLine core n a.id) s
  let s := (a.lanes.map (fun q => (lineOf q.pa, q.cmp))).foldl (fun s q => s.coreRead core a.slot q.1 q.2) s
  let r := s.atomLanes core a.slot false a.aop a.wide a.cas a.lanes
  let s := r.2.modCore core (fun k => { k.dropClean (fun x => lines.contains x.line) with
    atomics := k.atomics.filter (fun x => x.id != a.id),
    longs := modWhere (fun o => o.id == a.id) (fun o => { o with kind := .done (destWrites a.dest r.1) 0 }) k.longs })
  (if a.acq then s.modCore core (fun k => k.dropClean (fun _ => true)) else s).opDone core a.slot a.id

/-- ATOMIC_AT_HOME (R240): core, atomic. Performed once the write-backs before it are acknowledged and earlier atomics of the core on its lines
are performed (R259). -/
def execAtomicAtHome (s : State) : Host.Outcome State Fault Refusal :=
  let k := s.core s.ev.a
  .next (match k.atomics.find? (fun a => a.id == s.ev.b) with
    | none => s
    | some a =>
      if a.wbs.any (fun i => k.wbs.any (fun w => w.id == i)) || a.lanes.any (fun q => k.atomicOn (lineOf q.pa) a.id) then s
      else s.atomHome s.ev.a a)

/-! ### Settling (R316, R322, R344) -/

/-- Perform what a core has under way at the homes: its write-backs, then its atomics in the order of issue, each after the loads issued before it
on its lines, then the other loads that wait for lines. Any moment is a possible one for each. -/
def State.settleCore (s : State) (core : Nat) : State :=
  let s := ((s.core core).wbs.filter (fun w => !w.arrived)).foldl (fun s w => s.performWb core w) s
  let s := (s.modCore core (fun k => { k with wbs := [] })).orders core
  let s := (s.core core).atomics.foldl (fun s a => s.atomHome core a) s
  let lines := dedup ((s.core core).longs.flatMap (fun o => o.missing))
  lines.foldl (fun s n => s.arriveLine core n (s.core core).nextId) s

/-- The same of every core. -/
def State.settleAll (s : State) : State := s.coreIds.foldl (fun s c => s.settleCore c) s

end Sys2Proof.Machine
end

