-- ==== Sys2Proof/Machine/LocalStores.lean ====
section
/-!
DEFINITION. The scratchpad and the Loam store as lanes reach them (R176 to R182, R188 to R194).
-/

namespace Sys2Proof.Machine

open Sys2Proof

/-! ### Scratchpad addresses (R177, R178, R188) -/

/-- The physical address of `n` bytes at a team-relative address: in the team's allocation, or at supervisor level in
the reserved area. -/
def Team.spPhys (t : Team) (lv : Level) (ea n : Nat) : Option Nat :=
  if ea + n ≤ t.spb then some (t.base + ea)
  else if Level.supervisor.rank ≤ lv.rank ∧ 0x100000 ≤ ea ∧ ea + n ≤ 0x104000 then some (0xFC000 + (ea - 0x100000))
  else none

/-- Write listed bytes; a word of which every byte is written loses its poison (R182). -/
def Core.putSp (k : Core) (ws : List (Nat × Byte)) : Core :=
  let m : SMap Bool := ws.foldl (fun m q => sput false m q.1 true) []
  let clear := (dedup (ws.map (fun q => q.1 / 8))).filter (fun w => (List.range 8).all (fun i => sget false m (8 * w + i)))
  { k with spad := ws.foldl (fun m q => sput 0 m q.1 q.2) k.spad,
           ssingle := if k.ssingle.isEmpty then k.ssingle else ws.foldl (fun p q => sput false p (q.1 / 8) false) k.ssingle,
           spoison := if k.spoison.isEmpty then k.spoison else clear.foldl (fun p w => sput false p w false) k.spoison }

/-- Log a latent scratchpad error (R182). -/
def spLog (old : Word) (word : Nat) : Word :=
  let n := if bit old 0 then satInc (bits old 31 24) 255 1 else 1
  BitVec.ofNat 64 (1 + word % 2 ^ 17 * 2 + n * 2 ^ 24)

/-- What a read of `n` bytes at each of some addresses finds in the 32-byte units that it touches (R182): single-bit errors are corrected
and counted in `rfcor`, and poisoned words that nothing consumes are logged. -/
def Core.spSeen (k : Core) (l : List Nat) (n : Nat) : Core :=
  if k.spoison.isEmpty && k.ssingle.isEmpty then k
  else
    let used := dedup (l.flatMap (fun a => (List.range ((a + n - 1) / 8 + 1 - a / 8)).map (fun i => a / 8 + i)))
    let near := dedup (used.flatMap (fun w => (List.range 4).map (fun i => w / 4 * 4 + i)))
    let k := { k with rfcor := satInc k.rfcor (2 ^ 32 - 1) (near.filter (fun w => sget false k.ssingle w)).length }
    (near.filter (fun w => sget false k.spoison w && !used.contains w)).foldl (fun k w => { k with sperr := spLog k.sperr w }) k

/-! ### The lane-access queue (R179, R180) -/

/-- The banks of the 32-byte units of some addresses with `n` bytes each. -/
def spBanks (l : List Nat) (n : Nat) : Nat :=
  (dedup (l.flatMap (fun a => (List.range ((a + n - 1) / 32 + 1 - a / 32)).map (fun i => (a / 32 + i) % 64)))).foldl (fun m b => m ||| 2 ^ b) 0

/-- An access enters the queue in vc `now`, behind those before it, and takes its banks for `rows` vc: the first of them, and the queue then. -/
def enqueue (now banks rows : Nat) (q : Nat × Nat) : Nat × (Nat × Nat) :=
  if q.1 < now then (now, (now + rows - 1, banks))
  else if q.2 &&& banks = 0 ∧ rows = 1 then (q.1, (q.1, q.2 ||| banks))
  else (q.1 + 1, (q.1 + rows, banks))

/-- A lane access enters the queue; its warp waits for its bank until it is performed (R179). -/
def State.laneAccess (s : State) (c : Ctx) (banks rows : Nat) : State :=
  let (p, q) := enqueue c.vc banks rows (s.core c.core).laneQ
  (s.modCore c.core (fun k => { k with laneQ := q })).modWarp c.core c.slot (fun w => { w with spWait := max w.spWait p })

/-- The vc by which an access that just entered is performed later than it issued. -/
def State.bankDelay (s : State) (c : Ctx) : Nat := (s.warp c.core c.slot).spWait - c.vc

/-- The information word of a scratchpad error (R182): the team-relative address of the word. -/
def spInfo (rel : Nat) : Word := BitVec.ofNat 64 (2 + rel % 2 ^ 20 * 2 ^ 8)

/-- The lanes of a scratchpad access with their physical addresses, or the checks' trap (R188). Addresses are exact: one past 2^64 is out of range. -/
def Ctx.spLanes (c : Ctx) (s : State) (f : FmtM) (m : Mask) : Try (List (Nat × Nat)) := do
  let w := widBytes f.wid.toNat
  let a := c.xv f.b + mDisp f
  if a.toNat % w ≠ 0 then trapV 0x05 a m
  else
    let t := (s.teamOf c.w).getD { handle := 0, idx := 0, core := 0, wpt := 0, slots := [], base := 0, size := 0, spb := 0, vf := 0, part := 0 }
    let es := (lanesOf m).map (fun l => let ea := a.toNat + w * l; (l, ea, t.spPhys c.p.level ea w))
    match es.find? (fun q => q.2.2.isNone) with
    | some q => trapV 0x06 (BitVec.ofNat 64 q.2.1) m
    | none => .ok (es.map (fun q => (q.1, q.2.2.getD 0)))

/-- Scratchpad lanes read: the good lanes' values and the poisoned lanes with the first poisoned word. -/
def Core.spRead (k : Core) (wid : Nat) (l : List (Nat × Nat)) : List (Nat × Word) × List (Nat × Nat) :=
  let w := widBytes wid
  ((l.filter (fun q => (k.spBad q.2 w).isNone)).map (fun q => (q.1, widValue wid (k.sp q.2 w))),
   l.filterMap (fun q => (k.spBad q.2 w).map (fun b => (q.1, b))))

/-- The pending result of a scratchpad read: done, or with failed lanes (R427). -/
def spPending (wid base : Nat) (d : Dest) (l : List (Nat × Nat)) (r : List (Nat × Word) × List (Nat × Nat)) : Pending :=
  match r.2 with
  | [] => .done (destWrites d r.1) 0
  | q :: _ => .bad (destWrites d r.1) (maskOf (r.2.map (fun x => x.1))) (spInfo (8 * q.2 - base))
      (.spad wid base (l.filter (fun x => r.2.any (fun y => y.1 == x.1))))

/-- R188: the load, read in the order of the lane-access queue, which is the order of issue. -/
def execSpld (f : FmtM) (s : State) : Host.Outcome State Fault Refusal :=
  s.run fun c => do
    let m := c.guard f.g
    let s ← c.begin s (some m) [.xs f.b 24 1, mDop f]
    if m = 0 then .ok (s.advance c)
    else do
      let l ← c.spLanes s f m
      let k := s.core c.core
      let d := mDest f c
      let base := match s.teamOf c.w with | some t => t.base | none => 0
      let n := widBytes f.wid.toNat
      let s := (s.modCore c.core (fun k => k.spSeen (l.map (fun q => q.2)) n)).laneAccess c (spBanks (l.map (fun q => q.2)) n) 1
      .ok ((s.startLong c d m (spPending f.wid.toNat base d l (k.spRead f.wid.toNat l)) (delay := s.bankDelay c)).advance c)

/-- R188: the store. -/
def execSpst (f : FmtM) (s : State) : Host.Outcome State Fault Refusal :=
  s.run fun c => do
    let m := c.guard f.g
    let s ← c.begin s (some m) [.xs f.b 24 1, mSrc f]
    if m = 0 then .ok (s.advance c)
    else do
      let l ← c.spLanes s f m
      let ws := l.flatMap (fun q => (leBytes (mData f c q.1).toNat (widBytes f.wid.toNat)).zipIdx.map (fun b => (q.2 + b.2, b.1)))
      .ok (((s.modCore c.core (fun k => k.putSp ws)).laneAccess c (spBanks (l.map (fun q => q.2)) (widBytes f.wid.toNat)) 1).advance c)

/-- R189: zeroes a range of the team's allocation. -/
def execSpzero (f : FmtA) (s : State) : Host.Outcome State Fault Refusal :=
  s.run fun c => do
    let s ← c.begin s none [.xs f.s1 24 1, .xs f.s2 16 1]
    let a := c.xv f.s1
    let n := c.xv f.s2
    if !c.on f.g || decide (n = 0) then .ok (s.advance c)
    else if a.toNat % 32 ≠ 0 then trapS 0x05 a
    else if n.toNat % 32 ≠ 0 then trapS 0x05 n
    else match s.teamOf c.w with
      | none => trapS 0x06 a
      | some t =>
        if t.spb < a.toNat + n.toNat then trapS 0x06 a
        else .ok (((s.modCore c.core (fun k =>
          { k with spad := sfilter (fun b => decide (b < t.base + a.toNat ∨ t.base + a.toNat + n.toNat ≤ b)) k.spad,
                   spoison := clearWords k.spoison (t.base + a.toNat) n.toNat,
                   ssingle := clearWords k.ssingle (t.base + a.toNat) n.toNat })).laneAccess c (2 ^ 64 - 1) (cdiv n.toNat 2048)).advance c)

/-! ### The Loam store (R190 to R194) -/

/-- DIE, REGION and OFFSET of a Loam address (R190). -/
def loamDie (a : Nat) : Nat := a / 2 ^ 30 % 2
def loamRegion (a : Nat) : Nat := a / 2 ^ 24 % 64
def loamOffset (a : Nat) : Nat := a % 2 ^ 24

/-- The range of `n` bytes at `a` lies in one region of the store. -/
def loamIn (a n : Nat) : Bool := decide (a < 2 ^ 31 ∧ loamOffset a + n ≤ 0xC00000)

/-- The frame at `a` is owned by the partition (R191). -/
def State.loamOwned (s : State) (p a : Nat) : Bool := decide (bits (s.loamFotOf a) 11 0 = 0xE00 + p)

/-- Both conditions of a Loam read (R191). -/
def State.loamReadable (s : State) (t : Team) (a : Nat) : Bool :=
  s.loamOwned t.part a &&
    (match s.launch t.handle with | some l => Nat.testBit (fieldAt l.lpb (0x30 + 8 * loamDie a) 8) (loamRegion a) | none => false)

/-- `loamclk` of a die in ns (R193). -/
def State.loamClock (s : State) (d : Nat) : Nat := (s.die d).loamOff + s.ns

/-- The bank group of an address, and ns until its refresh window ends, 0 outside it (R193). -/
def loamGroup (a : Nat) : Nat := a / 4096 % 16
def State.refreshWait (s : State) (a : Nat) : Nat :=
  let t := s.loamClock (loamDie a) % 24000
  let g := loamGroup a
  if 1500 * g ≤ t ∧ t < 1500 * g + 1500 then 1500 * g + 1500 - t else 0

/-- A read of this core is delayed by a refresh window, for `w` ns (R193). -/
def Core.loamStall (k : Core) (w : Nat) : Core :=
  { k with stlHits := satInc k.stlHits (2 ^ 32 - 1) 1, stlWait := satInc k.stlWait (2 ^ 32 - 1) (w / 16) }

/-- Bytes of the Loam store that fail their check: the first poisoned 64-byte block. -/
def State.loamBad (s : State) (a n : Nat) : Option Nat :=
  ((List.range ((a + n - 1) / 64 + 1 - a / 64)).map (fun i => a / 64 + i)).find? (fun b => sget false s.loamPoison (loamKey (64 * b) / 64))

/-- R194: a Loam read, delayed by a refresh window of the bank groups that it touches. -/
def execLdl (f : FmtM) (s : State) : Host.Outcome State Fault Refusal :=
  s.run fun c => do
    let m := c.guard f.g
    let s ← c.begin s (some m) [.xs f.b 24 1, mDop f]
    if m = 0 then .ok (s.advance c)
    else
      let w := widBytes f.wid.toNat
      let a := c.xv f.b + mDisp f
      let hi := w * (lanesOf m).foldl max 0 + w
      if a.toNat % w ≠ 0 then trapV 0x05 a m
      else if !loamIn a.toNat hi then trapV 0x07 a m
      else match s.teamOf c.w with
        | none => trapV 0x12 a m
        | some t =>
          let l := (lanesOf m).map (fun i => (i, a.toNat + w * i))
          match l.find? (fun q => !s.loamReadable t q.2) with
          | some q => trapV 0x12 (BitVec.ofNat 64 q.2) m
          | none =>
            let wait := l.foldl (fun n q => max n (s.refreshWait q.2)) 0
            let s := if wait = 0 then s else s.modCore c.core (fun k => k.loamStall wait)
            .ok ((s.startLong c (mDest f c) m (.loam f.wid.toNat l (s.pkg.now + wait * refUnit))).advance c)

/-- The bank group whose window is open on a die (R193). -/
def State.refreshing (s : State) (d : Nat) : Nat := s.loamClock d % 24000 / 1500

/-- LOAM_REFRESH_WINDOW_START (R193): die, group. -/
def execLoamRefreshWindowStart (s : State) : Host.Outcome State Fault Refusal :=
  .next (if s.refreshing s.ev.a = s.ev.b then
      s.modDie s.ev.a (fun d => if d.refresh.contains s.ev.b then d else { d with refresh := d.refresh ++ [s.ev.b] })
    else s)

/-- LOAM_REFRESH_WINDOW_END (R193): die, group; its waiting reads proceed. -/
def execLoamRefreshWindowEnd (s : State) : Host.Outcome State Fault Refusal :=
  .next (if s.refreshing s.ev.a = s.ev.b then s else s.modDie s.ev.a (fun d => { d with refresh := d.refresh.filter (fun g => g != s.ev.b) }))

end Sys2Proof.Machine
end

