-- ==== Sys2Proof/Machine/Frames.lean ====
section
/-!
DEFINITION. Translation maintenance and frame ownership as row 0xE changes them (R316, R317, R321 to R323, R327, R328).
-/

namespace Sys2Proof.Machine

open Sys2Proof

/-- The level check of row 0xE (R43): before any source is read, whatever the guard. -/
def Ctx.needs (c : Ctx) (lv : Level) : Try Unit := if c.p.level.rank < lv.rank then trapS 0x02 c.word else .ok ()

/-- The shape of row 0xE: the level, the sources, then under the scalar guard rule the effect. -/
def sysDo (s : State) (lv : Level) (g : BitVec 5) (ops : List Opnd) (f : Ctx → State → Try State) :
    Host.Outcome State Fault Refusal :=
  s.run fun c => do
    c.needs lv
    let s ← c.begin s none ops
    if c.on g then f c s else .ok (s.advance c)

/-! ### tlbinv (R316) -/

/-- What one form of `tlbinv` removes. -/
structure Inv where
  tlb : TlbEntry → Bool
  wc : WalkEntry → Bool
  walk : Walk → Bool
  restart : Nat → Bool := fun _ => false
  /-- Whose accesses, by VF and partition, it may concern. -/
  acc : Nat → Nat → Bool

/-- Every translation and every stage-1 walk-cache entry of a VF. -/
def invVf (v : Nat) : Inv :=
  { tlb := fun e => e.vf == v, wc := fun e => e.vf == some v, walk := fun w => w.vf == v, acc := fun u _ => u == v }
/-- Those of one space. -/
def invSpace (v sp : Nat) : Inv :=
  { tlb := fun e => e.vf == v && e.space == sp, wc := fun e => e.vf == some v && e.space == sp,
    walk := fun w => w.vf == v && w.space == sp, acc := fun u _ => u == v }
/-- Those that cover one offset, and the entries on its walk path. -/
def invPage (v sp : Nat) (off : Word) : Inv :=
  { tlb := fun e => e.vf == v && e.space == sp && e.page == off.toNat / 2 ^ e.log2,
    wc := fun e => e.vf == some v && e.space == sp && decide (1 ≤ e.lvl ∧ e.lvl ≤ 3) && e.index == off.toNat / 2 ^ leafLog e.lvl,
    walk := fun w => w.vf == v && w.space == sp, acc := fun u _ => u == v }
/-- Everything of a partition. -/
def invPart (p : Nat) : Inv :=
  { tlb := fun e => e.part == p, wc := fun e => e.part == p, walk := fun w => w.part == p, restart := fun _ => true, acc := fun _ q => q == p }
/-- A noted GPA page shares bytes with the page of 2^`lg` bytes that holds `g`. -/
def gpaMeets (g lg : Nat) (q : Nat × Nat) : Bool := let m := max lg q.2; q.1 * 2 ^ q.2 / 2 ^ m == g / 2 ^ m

/-- What used the GPA page of 2^`lg` bytes that holds `g`: translations, stage-2 entries on its path and translations of it, stage-1 entries read
from it; walks held on it restart. -/
def invGpa (p g lg : Nat) : Inv :=
  { tlb := fun e => e.part == p && e.gpas.any (gpaMeets g lg),
    wc := fun e => e.part == p && (if e.vf = none ∧ e.lvl ≠ 5 then e.index == g / 2 ^ leafLog e.lvl else e.gpas.any (gpaMeets g lg)),
    walk := fun w => w.part == p, restart := fun h => h / 2 ^ lg == g / 2 ^ lg, acc := fun _ q => q == p }

/-- The size of the stage-2 page that holds a GPA, as the tables stand: 64 KiB where they map none. -/
def State.gpaLog (s : State) (p g : Nat) : Nat := match (s.s2 p g false false false []).1 with | .ok _ log2 .. => log2 | .bad _ => 16

/-- Every waiting `mwait` that a test of its core, warp and wait picks starts again. -/
def State.rewait (s : State) (f : Nat → Warp → Wait → Bool) : State :=
  { s with cores := s.cores.map (fun q => (q.1, { q.2 with
      warps := smapv {} (fun w => { w with paths := w.paths.map (fun p => if f q.1 w p.wait then p.rewait else p) }) q.2.warps })) }

/-- For whom a warp's accesses are made: VF and partition (R312). -/
def State.accOwner (s : State) (core : Nat) (w : Warp) : Option (Nat × Nat) :=
  if isSvc core then (s.partOfSvc core).map (fun p => ((s.part p).vfsel, p)) else (s.teamOf w).map (fun t => (t.vf, t.part))

/-- The steps of R316 after the checks: table stores and every access under way are performed, then the entries go,
with the faults that walks kept for cores; an `mwait` that they may concern starts again. -/
def State.invalidate (s : State) (c : Ctx) (i : Inv) : Try State := do
  let s ← c.releaseReady s false
  if s.ports.any (fun p => !p.2.txns.isEmpty) then stall .mem s
  else
    let s := ((s.writeBack c.core (fun _ => true)).2).settleAll
    let s := s.dropTranslations i.tlb i.wc i.walk i.restart
    let s := s.rewait (fun core w _ => match s.accOwner core w with | some (v, p) => i.acc v p | none => false)
    .ok { s with cores := smapv {} (fun k => { k with wfaults := [] }) s.cores }

/-- The supervisor forms act on the issuing VF. -/
def tlbinvOp (s : State) (f : FmtA) (ops : List Opnd) (i : Ctx → Nat → Inv) : Host.Outcome State Fault Refusal :=
  sysDo s .supervisor f.g ops fun c s =>
    match c.vfOf s with
    | none => .ok (s.advance c)
    | some v => do
      let s ← s.invalidate c (i c v)
      .ok (s.advance c)

/-- The hypervisor forms act on the issuing partition. -/
def tlbinvHyp (s : State) (f : FmtA) (ops : List Opnd) (i : Ctx → State → Nat → Inv) : Host.Outcome State Fault Refusal :=
  sysDo s .hypervisor f.g ops fun c s =>
    match c.part s with
    | none => .ok (s.advance c)
    | some p => do
      let s ← s.invalidate c (i c s p)
      .ok (s.advance c)

/-- The space ID of a domain operand byte. -/
def Ctx.spaceOf (c : Ctx) (b : BitVec 8) : Nat := (c.w.dr (b.toNat % 8)).toNat

/-- R316, MOD 0. -/
def execTlbinvAll (f : FmtA) (s : State) : Host.Outcome State Fault Refusal := tlbinvOp s f [] fun _ v => invVf v

/-- R316, MOD 1. -/
def execTlbinvSpace (f : FmtA) (s : State) : Host.Outcome State Fault Refusal :=
  tlbinvOp s f [] fun c v => invSpace v (c.spaceOf f.s2)

/-- R316, MOD 2. -/
def execTlbinvPage (f : FmtA) (s : State) : Host.Outcome State Fault Refusal :=
  tlbinvOp s f [.xs f.s1 24 1] fun c v => invPage v (c.spaceOf f.s2) (c.xv f.s1)

/-- R316, MOD 3. -/
def execTlbinvS2all (f : FmtA) (s : State) : Host.Outcome State Fault Refusal := tlbinvHyp s f [] fun _ _ p => invPart p

/-- R316, MOD 4. -/
def execTlbinvS2page (f : FmtA) (s : State) : Host.Outcome State Fault Refusal :=
  tlbinvHyp s f [.xs f.s1 24 1] fun c s p => let g := (c.xv f.s1).toNat % 2 ^ 50; invGpa p g (s.gpaLog p g)

/-! ### mapfp (R327, R328) -/

/-- Where a stage-1 walk ends: at an entry with its home address, whether its page is compressed (R244), and its level, in a stage-2 fault, or at no entry. -/
inductive FtEnd where
  | ent (e : Word) (home : Nat) (cmp : Bool) (lvl : Nat)
  | s2
  | none
  deriving DecidableEq, Repr

/-- One entry's home address and whether its page is compressed; or a stage-2 fault. -/
def State.ftRead (s : State) (p vf gpa : Nat) : Option (Nat × Bool) × Bool :=
  match (s.s2 p gpa true false false []).1 with
  | .bad _ => (none, true)
  | .ok a _ _ _ _ cmp => (if s.fotAllows ⟨some vf, some p, .supervisor⟩ a false then some (a, cmp) else none, false)

/-- Stage 1 from level `l` with the table at `t`, to the entry that ends the walk. -/
def State.ftWalk (s : State) (p vf : Nat) (off : Word) (t : Nat) : Nat → FtEnd
  | 0 => .none
  | l + 1 =>
    match s.ftRead p vf (t + 8 * (off.toNat / 2 ^ leafLog l % 4096)) with
    | (none, true) => .s2
    | (none, false) => .none
    | (some (a, cmp), _) =>
      let e := s.tableWord a cmp
      if !bit e 0 || bad1 e l || bit e 1 then .ent e a cmp l else s.ftWalk p vf off (entAddr e) l

/-- The stage-1 walk of R328 from the space table. -/
def State.ftEnd (s : State) (p vf space : Nat) (off : Word) : FtEnd :=
  let sb := (s.vf vf).spbase
  if !bit sb 0 then .none
  else match s.ftRead p vf (bits sb 49 19 * 2 ^ 19 + 8 * space) with
    | (none, true) => .s2
    | (none, false) => .none
    | (some (a, cmp), _) =>
      let e := s.tableWord a cmp
      if !bit e 0 || decide (bits e 14 1 ≠ 0 ∨ bits e 63 50 ≠ 0) then .none else s.ftWalk p vf off (entAddr e) 4

/-- What `mapfp` ends in: D, an empty pool, or a page that is refused. -/
inductive MapRes where
  | ok (d : Word) (s : State)
  | wait
  | empty
  | bad (g : Nat) (s : State)
  deriving DecidableEq, Repr

/-- The indivisible part of R328. -/
def State.mapFirstTouch (s : State) (p vf space : Nat) (off : Word) : MapRes :=
  match s.ftEnd p vf space off with
  | .s2 => .wait
  | .none => .ok 2 s
  | .ent e home cmp lvl =>
    if bit e 0 && !bad1 e lvl then .ok (BitVec.ofNat 64 (1 + bits e 49 16 * 65536)) s
    else if bit e 0 || lvl ≠ 0 || !bit e 7 then .ok 2 s
    else
      let desc := bits (s.vf vf).fpool 49 5 * 32
      let head := s.num (desc + 16) 8
      if desc = 0 ∨ head = s.num (desc + 24) 8 then .empty
      else
        let size := 2 ^ (s.num (desc + 8) 8 % 32)
        let g := s.num (s.num desc 8 + 8 * (head % size)) 8 / 65536 % 2 ^ 34 * 65536
        let s := s.homeWrite ((leBytes (head + 1) 8).zipIdx.map (fun b => (desc + 16 + b.2, b.1))) false
        match (s.s2 p g true true false []).1 with
        | .bad _ => .bad g s
        | .ok a _ _ _ _ _ =>
          if bits (s.fotOf a) 11 0 ≠ vf + 1 then .bad g s
          else
            let leaf := bits e 5 2 * 4 + 3 + g
            let s := s.homeWrite ((leBytes leaf 8).zipIdx.map (fun b => (home + b.2, b.1))) cmp
            let mine := fun (f : WalkFault) => f.vf == vf && f.space == space && f.off.toNat / 65536 == off.toNat / 65536
            .ok (BitVec.ofNat 64 g) { s with cores := smapv {} (fun k => { k with wfaults := k.wfaults.filter (fun f => !mine f) }) s.cores }

/-- R328: a stage-2 fault on the way is served under R324 while the path waits. A refused page has been consumed. -/
def execMapfp (f : FmtA) (s : State) : Host.Outcome State Fault Refusal :=
  sysDo s .supervisor f.g [.xs f.s1 24 1, .xd f.d] fun c s =>
    let off := c.xv f.s1
    let sp := c.spaceOf f.s2
    match c.part s, c.vfOf s with
    | some p, some v =>
      (match s.mapFirstTouch p v sp off with
      | .ok d s => .ok ((s.landX c 1 (opIdx f.d) d).advance c)
      | .wait => stall .mem (s.translate c.core 0 p v sp off 1 .supervisor).2
      | .empty => trapS 0x13 off
      | .bad g s => .ok (s.takeTrap c 0x12 (BitVec.ofNat 64 g) none []))
    | _, _ => .ok ((s.landX c 1 (opIdx f.d) 2).advance c)

/-! ### frscrub and fotset (R321 to R323) -/

/-- The frame operand: aligned and inside memory or the Loam store. -/
def frameOk (loam : Bool) (a : Word) : Bool :=
  decide (a.toNat % 65536 = 0) && (if loam then loamIn a.toNat 65536 else decide (a.toNat < memTop))

/-- A frame's entry, in the table of memory or of the Loam store. -/
def State.frameEntry (s : State) (loam : Bool) (a : Nat) : BitVec 32 := if loam then s.loamFotOf a else s.fotOf a
def State.setFrameEntry (s : State) (loam : Bool) (a : Nat) (e : BitVec 32) : State :=
  if loam then { s with loamFot := sput fotReset s.loamFot (loamKey a / 65536) e } else { s with fot := sput fotReset s.fot (a / 65536) e }

/-- Live launches that name a Loam region, of any partition (R192). -/
def State.regionLocked (s : State) (a : Nat) : Bool :=
  s.launches.any (fun l => (l.state == .queued || l.state == .accepted) &&
    Nat.testBit (fieldAt l.lpb (0x30 + 8 * loamDie a) 8) (loamRegion a))

/-- A lane load that has not read its Loam bytes, or a Flefin answer outstanding. -/
def LongOp.readsLoam (o : LongOp) (a : Nat) : Bool :=
  match o.kind with
  | .loam w l _ => l.any (fun q => decide (loamKey a < loamKey q.2 + widBytes w ∧ loamKey q.2 < loamKey a + 65536))
  | _ => false

/-- R322, steps 1 to 3: from here the frame is nobody's; SHR and CODE stay. No copy of its lines is left, and no translation or walk-cache entry at
all, so none that maps into the frame or was read from it (log 56). An `mwait` on a word of it starts again. -/
def State.scrubBegin (s : State) (loam : Bool) (a keyp : Nat) : State :=
  let s := s.settleAll
  let s := s.setFrameEntry loam a ((s.frameEntry loam a &&& 0xFFE0B000) ||| BitVec.ofNat 32 (keyp * 2 ^ 16))
  if loam then { s with pairs := smapv {} (fun p => { p with permCache := p.permCache.filter (fun f => f != loamKey a / 65536) }) s.pairs }
  else
    let inF := fun (line : Nat) => line * 128 / 65536 == a / 65536
    let s := { s with
      cores := smapv {} (fun k => { k with l1 := k.l1.filter (fun l => !inF l.line), reqs := k.reqs.filter (fun r => !inF r.line) }) s.cores,
      dies := smapv {} (fun d => { d with sc := d.sc.filter (fun l => !inF l.line) }) s.dies }
    (s.dropTranslations (fun _ => true) (fun _ => true) (fun _ => true) (fun _ => false)).rewait (fun _ _ w => match w with
      | .mwait m => m.pa / 65536 == a / 65536
      | _ => false)

/-- R322, steps 4 and 5: zeros with fresh check words in raw form, and SCRUB. -/
def State.scrubEnd (s : State) (loam : Bool) (a : Nat) : State :=
  let lo := if loam then loamKey a else a
  let out := fun (unit k : Nat) => decide (k * unit < lo ∨ lo + 65536 ≤ k * unit)
  let s := s.setFrameEntry loam a (s.frameEntry loam a ||| 0x4000)
  if loam then { s with loam := sfilter (out 1) s.loam, loamPoison := sfilter (out 64) s.loamPoison }
  else { s with mem := sfilter (out 1) s.mem, memPoison := sfilter (out 64) s.memPoison, memCmp := sfilter (out 256) s.memCmp }

/-- The frames whose scrub is under way. -/
def State.scrubbing (s : State) (loam : Bool) (a : Nat) : Bool :=
  s.cores.any (fun k => k.2.ops.any (fun o => o.2.1 == (if loam then 2 else 1) && o.2.2 == a))

/-- R322: the checks in order, then steps 1 to 3; the path waits for step 5. -/
def execFrscrub (f : FmtA) (s : State) : Host.Outcome State Fault Refusal :=
  sysDo s .hypervisor f.g [.xs f.s1 24 1, .xs f.s2 16 1] fun c s =>
    let loam := decide (f.md = 1)
    let a := c.xv f.s1
    let k := (c.xv f.s2).toNat
    let e := s.frameEntry loam a.toNat
    let o := bits e 11 0
    let hypOk := match c.part s with | some p => (o == 0 || s.ownerPart o == some p) && k == p | none => false
    if !frameOk loam a then trapS 0x09 a
    else if c.p.level ≠ .root && !hypOk then trapS 0x12 a
    else if (decide (19 < k) && k != 31) || bit e 13 || (loam && s.regionLocked a.toNat) then trapS 0x09 a
    else if s.scrubbing loam a.toNat || s.cores.any (fun q => q.2.longs.any (fun o => o.readsLoam a.toNat)) then stall .mem s
    else
      let s := s.scrubBegin loam a.toNat k
      let (id, s) := s.newId c.core
      let s := s.modCore c.core (fun q => { q with ops := q.ops ++ [(id, if loam then 2 else 1, a.toNat)] })
      .ok ((s.advance c).park c (.op id .mem))

/-- FRSCRUB_COMPLETE (R322): core, slot. -/
def execFrscrubComplete (s : State) : Host.Outcome State Fault Refusal :=
  let core := s.ev.a
  let slot := s.ev.b
  let mine := fun (o : Nat × Nat × Nat) => decide (o.2.1 = 1 ∨ o.2.1 = 2) &&
    ((s.core core).warp slot).paths.any (fun p => match p.wait with | .op i _ => i == o.1 | _ => false)
  .next (match (s.core core).ops.find? mine with
    | none => s
    | some (id, kind, a) =>
      ((s.scrubEnd (kind == 2) a).modCore core (fun k => { k with ops := k.ops.filter (fun o => o.1 != id) })).opDone core slot id)

/-- An owner ID that R318 assigns. -/
def ownerKnown (o : Nat) : Bool := decide (o ≤ 0x200 ∨ 0xE00 ≤ o ∧ o ≤ 0xE13 ∨ o = 0xFFF)

/-- The value checks of R323. -/
def State.fotBad (s : State) (loam : Bool) (cur new : BitVec 32) (root : Bool) : Bool :=
  let o := bits new 11 0
  let k := bits cur 20 16
  bit new 15 || decide (bits new 31 21 ≠ 0) || !ownerKnown o || decide (20 ≤ bits new 20 16 ∧ bits new 20 16 ≤ 30) ||
    bit new 13 != bit cur 13 || bits new 20 16 != k || (loam && decide (1 ≤ o ∧ o ≤ 0x200)) || decide (o = 0) ||
    (decide (o ≠ bits cur 11 0) &&
      (decide (bits cur 11 0 ≠ 0) || !bit cur 14 || (if o = 0xFFF then !root || k != 31 else s.ownerPart o != some k)))

/-- R323. -/
def execFotset (f : FmtA) (s : State) : Host.Outcome State Fault Refusal :=
  sysDo s .hypervisor f.g [.xs f.s1 24 1, .xs f.s2 16 1] fun c s =>
    let loam := decide (f.md = 1)
    let a := c.xv f.s1
    let new : BitVec 32 := (c.xv f.s2).setWidth 32
    let cur := s.frameEntry loam a.toNat
    let hypOk := match c.part s with | some p => bits cur 20 16 == p && s.ownerPart (bits new 11 0) == some p | none => false
    if !frameOk loam a then trapS 0x09 a
    else if c.p.level ≠ .root && !hypOk then trapS 0x12 a
    else if s.fotBad loam cur new (c.p.level == .root) then trapS 0x09 (c.xv f.s2)
    else
      let changed := bits new 11 0 != bits cur 11 0
      let v := (cur &&& ~~~0x1FFF) ||| (new &&& 0x1FFF)
      let s := s.setFrameEntry loam a.toNat (if changed then v &&& ~~~0x4000 else v)
      .ok ((if loam then { s with pairs := smapv {} (fun p => { p with permCache := p.permCache.filter (fun f => f != loamKey a.toNat / 65536) }) s.pairs }
        else s).advance c)

end Sys2Proof.Machine
end

