-- ==== Sys2Proof/Machine/Engines.lean ====
section
/-!
DEFINITION. Engine commands in general (R44 to R46, R97 to R101, R247, R248, R253, R255, R271 to R273, R330, R332, R339):
the journal, the queues and their instructions, markers, and faults that commands meet.
-/

namespace Sys2Proof.Machine

open Sys2Proof

/-! ### The journal (R339) -/

/-- Fields of an engine word (R44). -/
def ewSig (w : Word) : Nat := bits w 63 60
def ewWait (w : Word) : Nat := bits w 59 48
def ewOp (w : Word) : Nat := bits w 47 40
def ewOnce (w : Word) : Bool := bit w 39
def ewMod (w : Word) : Nat := bits w 38 36
def ewNarg (w : Word) : Nat := bits w 35 32
def ewStep (w : Word) : Int := sextN (bits w 31 16) 16
def ewRep (w : Word) : Nat := bits w 15 0

/-- The words of a copy command, header first. -/
def Cmd.words (c : Cmd) : List Word := match c.pay with | .copy w _ => w | _ => []

/-- A command's journal entry as bytes. -/
def Cmd.entry (c : Cmd) (cslot : Nat) (done : Bool) : List Byte :=
  let b := fun (x : Bool) (n : Nat) => if x then 2 ^ n else 0
  let narg := match c.words with | h :: _ => ewNarg h | [] => 0
  leBytes (c.seq % 2 ^ 32 + c.eng * 2 ^ 32 + c.slot * 2 ^ 34 + b c.started 39 + b done 40 + b c.once 41 + b c.abnd 42 +
    b c.mark 43 + narg * 2 ^ 44 + c.sig * 2 ^ 48) 8 ++ leBytes cslot 8

/-- Write a command's journal entry into the reserved area (R177). -/
def State.journal (s : State) (core : Nat) (c : Cmd) (done : Bool) : State :=
  let cs := match s.team c.handle c.team with | some t => t.cslot | none => 0
  s.modCore core (fun k => k.setSp (0xFC000 + 16 * (c.seq % 512)) (c.entry cs done))

/-- The command of a core with this number. -/
def Core.cmd (k : Core) (seq : Nat) : Option Cmd := k.cmds.find? (fun c => c.seq == seq)

/-- Change a command and its journal entry. -/
def State.modCmd (s : State) (core seq : Nat) (f : Cmd → Cmd) : State :=
  let s := s.modCore core (fun k => { k with cmds := modWhere (fun c => c.seq == seq) f k.cmds })
  match (s.core core).cmd seq with | some c => s.journal core c false | none => s

/-- A command gets its number and its entry. -/
def State.addCmd (s : State) (core : Nat) (c : Cmd) : State :=
  let seq := (s.core core).nextSeq
  let c := { c with seq := seq, at_ := s.pkg.now }
  (s.modCore core (fun k => { k with cmds := k.cmds ++ [c], nextSeq := (seq + 1) % 2 ^ 32 })).journal core c false

/-- A command is done: its entry is freed. -/
def State.freeCmd (s : State) (core : Nat) (c : Cmd) : State :=
  (s.modCore core (fun k => { k with cmds := k.cmds.filter (fun x => x.seq != c.seq) })).journal core c true

/-- A command as its pushing warp begins it. -/
def Ctx.newCmd (c : Ctx) (eng sig : Nat) (pay : Payload) : Cmd :=
  { seq := 0, eng := eng, slot := c.slot, handle := c.w.handle, team := c.w.team, widx := c.w.widx, sig := sig, pay := pay,
    pc := c.p.pc, level := c.p.level }

/-- A push finds room in the journal, else it waits. -/
def Ctx.journalRoom (c : Ctx) (s : State) : Try Unit :=
  if 512 ≤ (s.core c.core).cmds.length then stall .queue s else .ok ()

/-! ### Queues (R99, R100) -/

/-- A command that its engine has not taken yet. -/
def Cmd.waiting (c : Cmd) : Bool := match c.stage with | .partly | .queued => true | _ => false

/-- What a push queue holds: q0, q4 and q6 count commands, q2 engine words; markers count one (bit number `q / 2`). -/
def Core.queued (k : Core) (q : Nat) : Nat :=
  let mark := (k.markers.filter (fun m => m.queue == q / 2 && !m.arrived)).length
  let mine := k.cmds.filter (fun c => c.waiting && c.eng == q / 2)
  mark + (if q = 2 then mine.foldl (fun n c => n + c.words.length) 0 else mine.length)

/-- The capacity of a queue (R99). -/
def queueCap (q : Nat) : Nat :=
  match q with | 0 => 32 | 1 => 32 | 2 => 64 | 3 => 64 | 4 => 8 | 5 => 8 | 6 => 16 | _ => 16

/-- Slots of a pop queue in use or reserved by commands under way. -/
def Core.popUsed (k : Core) (q : Nat) : Nat :=
  (k.pops.filter (fun r => r.queue == q)).length + (k.cmds.filter (fun c => c.rec_ && 2 * c.eng + 1 == q)).length

/-- The records of a pop queue that a warp sees. -/
def Core.popsOf (k : Core) (q slot : Nat) : List PopRec := k.pops.filter (fun r => r.queue == q && r.slot == slot)

/-- Post a record. -/
def State.post (s : State) (core q slot : Nat) (w : Word) : State :=
  s.modCore core (fun k => { k with pops := k.pops ++ [{ queue := q, slot := slot, word := w }] })

/-! ### Pushing engine words (R46, R248, R250) -/

/-- NARG of a copy operation, the EMODs it accepts, and whether its STEP must be 0. -/
def copyOp (op : Nat) : Option (Nat × List Nat × Bool) :=
  match op with
  | 0x01 => some (4, [0, 1, 2, 3, 4, 5, 6, 7], false)
  | 0x02 => some (6, [0, 1, 2, 3, 4, 5, 6, 7], false)
  | 0x03 => some (3, [0, 2, 4, 5], false)
  | 0x10 => some (5, [0, 1, 2], true)
  | 0x11 => some (3, [0, 1, 2], true)
  | _ => none

/-- A header that breaks R46. -/
def badHeader (h : Word) : Bool :=
  (decide (12 ≤ ewSig h ∧ ewSig h ≤ 14)) ||
    (match copyOp (ewOp h) with
      | none => true
      | some (n, mods, z) => decide (ewNarg h ≠ n) || !mods.contains (ewMod h) || (z && decide (ewStep h ≠ 0)))

/-- A command enters its engine behind those already in it. -/
def Core.cmdLast (k : Core) (seq : Nat) : Core :=
  { k with cmds := k.cmds.filter (fun c => c.seq != seq) ++ k.cmds.filter (fun c => c.seq == seq) }

/-- Push one word for the issuing warp: the header of a new command, or the next argument of the one it is assembling. -/
def Ctx.pushWord (c : Ctx) (m : Option Mask) (s : State) (w : Word) : Try State :=
  let k := s.core c.core
  if 64 ≤ k.queued 2 then stall .queue s
  else match k.cmds.find? (fun x => x.eng == 1 && x.slot == c.slot && x.stage == .partly) with
    | none =>
      if badHeader w then .error (.trap 0x0A w m [])
      else do
        c.journalRoom s
        let s ← c.flagInc s (ewSig w)
        let cmd := c.newCmd 1 (ewSig w) (.copy [w] ((List.range 8).map (fun i => (c.w.dr i).toNat)))
        .ok (s.addCmd c.core { cmd with stage := .partly, wait := ewWait w, once := ewOnce w })
    | some x =>
      let ws := x.words ++ [w]
      let first := decide (x.words.length = 1)
      if first && bit w 6 && decide (64 ≤ k.popUsed 3) then stall .queue s
      else
        let whole := match ws with | h :: a => decide (a.length = ewNarg h) | [] => false
        let s := s.modCmd c.core x.seq (fun y => { y with
          pay := (match y.pay with | .copy _ d => .copy ws d | p => p),
          rec_ := if first then bit w 6 else y.rec_, comm := if first then bit w 7 else y.comm,
          stage := if whole then .queued else .partly })
        .ok (if whole then s.modCore c.core (fun k => k.cmdLast x.seq) else s)

/-- Push words in order. -/
def Ctx.pushWords (c : Ctx) (m : Option Mask) (s : State) : List Word → Try State
  | [] => .ok s
  | w :: l => do
    let s ← c.pushWord m s w
    c.pushWords m s l

/-- Push all the words, or none while one of them is held up: an instruction that stalls has not issued. -/
def Ctx.pushAll (c : Ctx) (m : Option Mask) (s : State) (l : List Word) : Try State :=
  match c.pushWords m s l with
  | .error (.stall k _) => stall k s
  | r => r

/-- R247: push a word. -/
def execQpush (f : FmtA) (s : State) : Host.Outcome State Fault Refusal :=
  scalarDo s f.g [.xs f.s1 24 1] fun c s => c.pushWord none s (c.xv f.s1)

/-- R247: push a word of each participating lane; nothing where a header fails. -/
def execQpushv (f : FmtA) (s : State) : Host.Outcome State Fault Refusal :=
  s.run fun c => do
    let m := c.guard f.g
    let s ← c.begin s (some m) [.vs f.s1 24 2 3]
    let s ← c.pushAll (some m) s ((lanesOf m).map (fun l => c.vv2 f.s1 l))
    .ok (s.advance c)

/-- Remove the oldest `n` records that a warp sees in a queue. -/
def Core.pop (k : Core) (q slot n : Nat) : Core :=
  { k with pops := (k.pops.foldl (fun (r : Nat × List PopRec) x =>
      if 0 < r.1 ∧ x.queue = q ∧ x.slot = slot then (r.1 - 1, r.2) else (r.1, r.2 ++ [x])) (n, [])).2 }

/-- R247: pop a record. -/
def execQpop (f : FmtA) (s : State) : Host.Outcome State Fault Refusal :=
  scalarDo s f.g [.xd f.d] fun c s =>
    let q := opIdx f.s1
    match (s.core c.core).popsOf q c.slot with
    | [] => stall .queue s
    | r :: _ =>
      let s := s.modCore c.core (fun k => k.pop q c.slot 1)
      if opIdx f.d = 0 then .ok s
      else .ok (s.startLong c (.x (opIdx f.d)) (laneBit (lowestLane c.p.mask)) (.done [.x (opIdx f.d) r.word] 0))

/-- R247: pop a record for each participating lane, ascending. -/
def execQpopv (f : FmtA) (s : State) : Host.Outcome State Fault Refusal :=
  s.run fun c => do
    let m := c.guard f.g
    let s ← c.begin s (some m) [.vd f.d 2]
    let q := opIdx f.s1
    let n := (lanesOf m).length
    let l := ((s.core c.core).popsOf q c.slot).take n
    if n = 0 then .ok (s.advance c)
    else if l.length < n then stall .queue s
    else
      let s := s.modCore c.core (fun k => k.pop q c.slot n)
      let regs := c.dregs f.d true
      .ok ((s.startLong c (.v regs) m (.done (laneWrites regs ((lanesOf m).zip (l.map (fun r => r.word.toNat)))) 0)).advance c)

/-- R247: free push slots of q2, or the records available to this warp. -/
def execQpeek (f : FmtA) (s : State) : Host.Outcome State Fault Refusal :=
  scalarDo s f.g [.xd f.d] fun c s =>
    let q := opIdx f.s1
    let k := s.core c.core
    .ok (s.landX c 4 (opIdx f.d) (BitVec.ofNat 64 (if q = 2 then 64 - k.queued 2 else (k.popsOf q c.slot).length)))

/-- `cpy` and `cpyz`: a whole command from consecutive registers (R255). -/
def cpyOp (s : State) (f : FmtA) (ops : List Nat) : Host.Outcome State Fault Refusal :=
  s.run fun c => do
    let s ← c.begin s none [.xs f.s1 24 1]
    if !c.on f.g then .ok (s.advance c)
    else do
      let h := c.xv f.s1
      let n := ewNarg h
      if badHeader h || !ops.contains (ewOp h) || decide (63 < opIdx f.s1 + n) then trapS 0x0A h
      else do
        let s ← c.begin s none [.xs f.s1 24 (n + 1)]
        let s ← c.pushAll none s ((List.range (n + 1)).map (fun i => c.w.xr (opIdx f.s1 + i)))
        .ok (s.advance c)

/-- R255: LINE, BOX and FILL. -/
def execCpy (f : FmtA) (s : State) : Host.Outcome State Fault Refusal := cpyOp s f [0x01, 0x02, 0x03]

/-- R255: ZPACK and ZUNPACK. -/
def execCpyz (f : FmtA) (s : State) : Host.Outcome State Fault Refusal := cpyOp s f [0x10, 0x11]

/-! ### Flags that a command waits for (R45) -/

/-- WAIT of a command is met: the counters of its warp are zero, or, where that warp has ended, its earlier commands
tagged with those flags have completed. -/
def State.waitOver (s : State) (core : Nat) (c : Cmd) : Bool :=
  let w := s.warp core c.slot
  let named := idxs 12 (fun i => Nat.testBit c.wait i)
  if w.live && decide (w.handle = c.handle ∧ w.team = c.team) then named.all (fun i => w.fr i == 0)
  else
    (s.core core).cmds.all (fun x =>
      let ago := (c.seq + 2 ^ 32 - x.seq) % 2 ^ 32
      !(decide (0 < ago ∧ ago < 2 ^ 31) && x.slot == c.slot && x.handle == c.handle && x.team == c.team && named.contains x.sig))

/-! ### Faults of commands (R223, R253, R330, R332) -/

/-- The warp that a cause is delivered to: the pushing warp, or the lowest-indexed one that has not ended. -/
def State.asyncWarp (s : State) (t : Team) (widx : Nat) : Option Nat :=
  let live := fun (i : Nat) => (s.warp t.core (t.slots.getD i 32)).live
  if live widx then some widx else (List.range t.wpt).find? live

/-- Take an asynchronous cause: the warp stops with skid 0 at its next word to issue, and the halt of the team begins. -/
def State.takeAsync (s : State) (t : Team) (a : AsyncFault) : State :=
  match s.asyncWarp t a.widx with
  | none => s
  | some i =>
    let slot := t.slots.getD i 32
    let w := s.warp t.core slot
    match w.paths with
    | [] => s
    | q :: l =>
      let p := l.foldl (fun b x => if lowestLane x.mask < lowestLane b.mask then x else b) q
      let h : Halt := { cause := a.cause, async := true, info := a.info, pc := p.pc, path := p.id,
                        lanes := laneBit (lowestLane p.mask), seq := a.seq }
      let s := s.modWarp t.core slot (fun w => { w with stopped := true, halt := some h, paths := w.paths.map (fun p => { p with skid := 0 }) })
      let s := if a.cause = 0x15 ∨ a.cause = 0x16 then s
        else s.modWarp t.core slot (fun w => { w with flmask := 1, fladdr := sput 0 [] 0 a.off, flinfo := sput 0 [] 0 a.flinfo })
      s.startHalt t .halted (some i)

/-- ASYNC_FAULT_DELIVERY (R330, R332): handle, team. Delivered while the team is not halted. -/
def execAsyncFaultDelivery (s : State) : Host.Outcome State Fault Refusal :=
  .next (match s.team s.ev.a s.ev.b with
    | some t => match t.heldAsync with
      | a :: r =>
        if t.state = .running then (s.modTeam t.handle t.idx (fun t => { t with heldAsync := r })).takeAsync t a else s
      | [] => s
    | none => s)

/-- ENGINE_COMMAND_FAULT (R223, R253): core, command. The command is abandoned, its flag stays. A matrix command reports
matrix-fault with the underlying code. The address recorded is the pushing instruction's, or the faulting offset of a
translation or protection fault of another engine (R325, log 52). -/
def execEngineCommandFault (s : State) : Host.Outcome State Fault Refusal :=
  let core := s.ev.a
  .next (match (s.core core).cmd s.ev.b with
    | some c => match c.fault with
      | some a =>
        if c.abnd then s
        else
          let a := { a with seq := c.seq, widx := c.widx, cause := if c.eng = 0 then 0x17 else a.cause,
                            info := BitVec.ofNat 64 (c.seq + (if c.eng = 0 then a.cause * 2 ^ 32 else 0)),
                            off := if c.eng ≠ 0 ∧ (a.cause = 0x11 ∨ a.cause = 0x12) then a.off else c.pc }
          (s.modCmd core c.seq (fun c => { c with abnd := true })).holdAsync c.handle c.team a
      | none => s
    | none => s)

/-! ### mfence and mjoin (R271 to R273) -/

/-- The engine of a marker's queue bit is a command's. -/
def Cmd.under (c : Cmd) (bit slot : Nat) : Bool := c.eng == bit && c.slot == slot

/-- Push a marker into one queue, over the warp's earlier markers there. -/
def Core.pushMarker (k : Core) (slot bit : Nat) : Core :=
  let covers := (k.cmds.filter (fun c => c.under bit slot && c.stage != .partly)).map (fun c => c.seq)
  { k with markers := k.markers.filter (fun m => !(m.slot == slot && m.queue == bit)) ++
      [{ slot := slot, queue := bit, covers := covers, arrived := covers.isEmpty }] }

/-- R271. -/
def execMfence (f : FmtI) (s : State) : Host.Outcome State Fault Refusal :=
  scalarDo s f.g [] fun c s =>
    let qs := idxs 4 (fun i => f.imm.getLsbD i)
    let k := s.core c.core
    if qs.any (fun b => decide (queueCap (2 * b) ≤ k.queued (2 * b))) then stall .queue s
    else .ok (s.modCore c.core (fun k => qs.foldl (fun k b => k.pushMarker c.slot b) k))

/-- Every command that a marker covers has read its sources. -/
def Core.reached (k : Core) (m : Marker) : Bool := m.covers.all (fun q => match k.cmd q with | some c => c.readDone | none => true)

/-- MARKER_ARRIVAL (R271): core, slot, queue bit. Every covered command has read its sources. -/
def execMarkerArrival (s : State) : Host.Outcome State Fault Refusal :=
  let e := s.ev
  .next (s.modCore e.a (fun k =>
    let due := fun (m : Marker) => m.slot == e.b && m.queue == e.c && k.reached m
    { k with markers := modWhere due (fun m => { m with arrived := true }) k.markers }))

/-- R272: waits for the warp's markers, which are then joined; their commands are marked (R339). -/
def execMjoin (f : FmtA) (s : State) : Host.Outcome State Fault Refusal :=
  scalarDo s f.g [] fun c s =>
    let mine := (s.core c.core).markers.filter (fun m => m.slot == c.slot)
    if mine.any (fun m => !m.arrived) then stall .token s
    else
      let s := (mine.flatMap (fun m => m.covers)).foldl (fun s q => s.modCmd c.core q (fun x => { x with mark := true })) s
      .ok (s.modCore c.core (fun k => { k with markers := k.markers.filter (fun m => m.slot != c.slot) }))

end Sys2Proof.Machine
end

