-- ==== Sys2Proof/Machine/Points.lean ====
section
/-!
DEFINITION. Splits, re-fusion points and the waits behind them (R70, R74, R75, R80 to R83, R260, R264): what a warp does
when a path reaches a point or lanes exit, and what a team's arrival sets in motion.
-/

namespace Sys2Proof.Machine

open Sys2Proof

/-! ### Group counters (R82) -/

/-- The counter of a group on a die. -/
def Die.group (d : Die) (h g : Nat) : Option GroupCtr := d.groups.find? (fun c => c.handle == h && c.group == g)
def State.modGroup (s : State) (d h g : Nat) (f : GroupCtr → GroupCtr) : State :=
  s.modDie d (fun k => { k with groups := modWhere (fun c => c.handle == h && c.group == g) f k.groups })

/-- `gred`'s combination of two values (R83). -/
def gredOp (md : Nat) (a b : Word) : Word :=
  match md with
  | 0 => a + b
  | 1 => if a.toInt ≤ b.toInt then a else b
  | 2 => if a.toInt ≤ b.toInt then b else a
  | 3 => a &&& b
  | 4 => a ||| b
  | 5 => a ^^^ b
  | 6 => if a.toNat ≤ b.toNat then a else b
  | _ => if a.toNat ≤ b.toNat then b else a

/-- The bytes of an overflow record (R82). -/
def GroupCtr.record (c : GroupCtr) : List Nat :=
  [c.handle + c.group * 2 ^ 32 + (if c.home then 2 ^ 41 else 0) + 2 ^ 63, c.memb + c.arr * 2 ^ 21, c.gen + c.op * 2 ^ 32, c.acc.toNat, 0, 0, 0, 0]

/-- Bring the overflow record of a counter that has one up to date. -/
def State.syncGroup (s : State) (d h g : Nat) : State :=
  match (s.die d).group h g with
  | some c => (match c.rec_ with | some a => s.setBytes a (wordsBytes c.record) | none => s)
  | none => s

/-- A team's arrival at group `g` on its die, with its `gred` value and MOD where it has one. -/
def State.groupArrival (s : State) (t : Team) (g : Nat) (md : Option Nat) (v : Word) : State :=
  let d := dieOf t.core
  (s.modGroup d t.handle g (fun c =>
    { c with arr := c.arr + 1,
             op := (match md with | some m => m + 1 | none => c.op),
             acc := (match md with | some m => if c.op = 0 then v else gredOp m c.acc v | none => c.acc) })).syncGroup d t.handle g

/-- Warps of a team that have not ended, with slot and warp. -/
def State.liveWarps (s : State) (t : Team) : List (Nat × Warp) :=
  (t.slots.map (fun sl => (sl, s.warp t.core sl))).filter (fun q => q.2.live && !t.ended.contains q.2.widx)

/-- A COMM copy command of the team that has not completed (R274). -/
def State.commPending (s : State) (t : Team) : Bool :=
  (s.core t.core).cmds.any (fun c => c.handle == t.handle && c.team == t.idx && c.comm && c.stage != .done)

/-- A team arrives at a group once all of its live warps stand at the same instruction, of that group, and for `sstep` once
its COMM copies have completed (R81, R83, R274). It arrives once. -/
def State.groupArrive (s : State) (h i : Nat) : State :=
  match s.team h i with
  | none => s
  | some t =>
    match s.liveWarps t with
    | [] => s
    | (_, w) :: r =>
      match w.standBody, w.grp with
      | some b, some g =>
        let op := bodyOp b
        let with_ := fun (q : Nat × Warp) => q.2.grp == some g && (match q.2.standBody with | some x => bodyOp x == op | none => false)
        if op = 0xD0 ∨ t.arrived.contains g ∨ !(r.all with_) ∨ (op = 0x98 ∧ s.commPending t = true) then s
        else
          let md := if op = 0xD2 then some (b / 32 % 8) else none
          ((s.groupArrival t g md (t.gredVals.getD 0)).modTeam h i (fun t => { t with arrived := g :: t.arrived, gredVals := none }))
      | _, _ => s

/-! ### Phase-boundary requests (R260, R262) -/

/-- Request a boundary of a core. -/
def Core.request (k : Core) (b : Boundary) : Core :=
  if k.bstage != .idle && k.bat == k.vc then { k with bserve := k.bserve ++ [b] } else { k with bnext := k.bnext ++ [b] }

/-- The DPA of slot `i` of a partition's pool. -/
def State.slotAt (s : State) (p i : Nat) : Nat := bits (s.part p).ctxpool 49 21 * 2 ^ 21 + i * 2 ^ 21

/-- A reconvergence entry's four words. -/
def Entry.bytes (e : Entry) : List Byte :=
  wordsBytes [e.tmask.toNat, e.nmask.toNat, e.fmt.toNat + e.rrb % 64 * 2 ^ 32 + e.token % 2 ^ 19 * 2 ^ 38 + (if e.hnd then 2 ^ 57 else 0),
    e.arrived.toNat]

/-- A reconvergence entry as memory holds it. -/
def State.readEntry (s : State) (a : Nat) (e : Entry) : Entry :=
  let w := s.num (a + 16) 8
  { e with tmask := BitVec.ofNat 64 (s.num a 8), nmask := BitVec.ofNat 64 (s.num (a + 8) 8), fmt := BitVec.ofNat 32 w, rrb := w / 2 ^ 32 % 64,
           token := w / 2 ^ 38 % 2 ^ 19, hnd := Nat.testBit w 57, arrived := BitVec.ofNat 64 (s.num (a + 24) 8) }

/-- The entries of a stack that the 16 in hardware leave in memory: the oldest (R74). -/
def spilled (l : List Entry) : List Entry := l.take (l.length - 16)

/-- What a change of a warp's stack moves between hardware and the team context area (R74): entries that now lie in memory are written there where they
changed, and those filled back are read. -/
def State.syncStack (s : State) (core slot : Nat) (old : List Entry) : State :=
  let w := s.warp core slot
  let was := spilled old
  let now := spilled w.stack
  if was.isEmpty && now.isEmpty then s
  else match s.teamOf w with
    | none => s
    | some t =>
      let at_ := fun (i : Nat) => s.slotAt t.part t.cslot + 0x51000 + 0xA000 * w.widx + 0x8D00 + 32 * i
      let fill := fun (e : Entry) => if now.any (fun x => x.id == e.id) then e
        else match was.findIdx? (fun x => x.id == e.id) with | some i => s.readEntry (at_ i) e | none => e
      let s := s.modWarp core slot (fun w => { w with stack := w.stack.map fill })
      now.zipIdx.foldl (fun s q => if was[q.2]? = some q.1 then s else s.setBytes (at_ q.2) q.1.bytes) s

/-! ### Splitting (R70, R74) -/

/-- Spilling or filling an entry withholds issue from the warp for 12 vc. -/
def Warp.withhold (w : Warp) (vc : Nat) (when_ : Bool) : Warp := if when_ then { w with holdUntil := max w.holdUntil (vc + 13) } else w

/-- The token of a split (R74). -/
def splitToken (pc : Word) : Nat := pc.toNat / 64 % 2 ^ 19

/-- Results on their way to a path are on their way to its copy too. -/
def Warp.copyLandings (w : Warp) (old new : Nat) : Warp :=
  { w with land := w.land.flatMap (fun e => match e.w with
      | .fmt p v => if p = old then [e, { e with w := .fmt new v }] else [e]
      | .rrb p n => if p = old then [e, { e with w := .rrb new n }] else [e]
      | _ => [e]) }

/-- The issuing path as its issue leaves it, for what splits or fuses it at once. -/
def Ctx.issuer (c : Ctx) : Path :=
  { c.p.marked c.vc with skid := if c.w.skidUntil.isSome then c.p.skid + 1 else c.p.skid }

/-- Split a path: the entry pushed, the not-taken side going on under the path's number at the next word, the taken side
as a new path at the target. An empty side creates no path. -/
def Warp.split (w : Warp) (p : Path) (taken : Mask) (target : Word) (vc : Nat) : Warp :=
  let n := p.mask &&& ~~~taken
  let e : Entry := { id := w.nextEntry, tmask := taken, nmask := n, fmt := p.fmt, rrb := p.rrb, token := splitToken p.pc, parent := p.entry, hnd := p.handler }
  let w := w.withhold vc (decide (16 ≤ w.stack.length))
  let w := { w with stack := w.stack ++ [e], nextEntry := w.nextEntry + 1 }
  let goes : Path := { p.redirect target vc with mask := taken, entry := some e.id, skid := 0 }
  let stays : Path := { p with mask := n, entry := some e.id, pc := p.pc + 8 }
  if n = 0 then w.modPath p.id (fun _ => goes)
  else if taken = 0 then w.modPath p.id (fun _ => stays)
  else
    let w := (w.modPath p.id (fun _ => stays)).copyLandings p.id w.nextPath
    { w with paths := w.paths ++ [{ goes with id := w.nextPath, buf := [] }], nextPath := w.nextPath + 1 }

/-! ### Re-fusion (R75) -/

/-- Of two paths, the one with the lower lane. -/
def lowerPath (a b : Path) : Path := if lowestLane b.mask < lowestLane a.mask then b else a

/-- The later of two issues. -/
def laterIssue : Option Nat → Option Nat → Option Nat
  | some a, some b => some (max a b)
  | none, b => b
  | a, none => a

/-- The path that stands for `l` fused: their lanes, going on as the one with the lowest lane would; its previous
instruction is the latest issue among them (R33), and their skids count together (R331). -/
def fuseOf (id : Nat) : List Path → Option Path
  | [] => none
  | p :: l => some { l.foldl lowerPath p with
      id := id, mask := l.foldl (fun m q => m ||| q.mask) p.mask, lastIssue := l.foldl (fun t q => laterIssue t q.lastIssue) p.lastIssue,
      skid := l.foldl (fun n q => n + q.skid) p.skid }

/-- The paths that wait at the `rejoin` of an entry. -/
def Warp.atRejoin (w : Warp) (e : Entry) : List Path :=
  w.paths.filter (fun p => p.entry == some e.id && (match p.wait with | .rejoin _ => true | _ => false))

/-- The entry's lanes have all arrived or exited. -/
def Entry.covered (e : Entry) : Bool := decide ((e.tmask ||| e.nmask) &&& ~~~e.arrived = 0)

/-- Fuse at an entry that is covered: the entry is popped, and the fused path takes its FMT and RRB and goes on after
the `rejoin`. -/
def Warp.fuseEntry (w : Warp) (e : Entry) (vc : Nat) : Warp :=
  let l := w.atRejoin e
  let w := w.withhold vc (decide (16 < w.stack.length))
  let w := { w with stack := w.stack.filter (fun x => x.id != e.id),
                    paths := w.paths.filter (fun p => !l.any (fun q => q.id == p.id)) }
  match fuseOf w.nextPath l with
  | none => w
  | some p =>
    { w with paths := w.paths ++ [{ p with fmt := e.fmt, rrb := e.rrb, entry := e.parent, pc := p.pc + 8, wait := .none }],
             nextPath := w.nextPath + 1 }

/-- The entries below a handler's own splits: those that the interrupted paths keep, and its base entry (R333). -/
def Warp.below (w : Warp) : Nat := match w.handler with | some h => h.depth + 1 | none => 0

/-- The oldest entry that a whole warp's fusion meets: inside a handler its base entry, which stays (R333). -/
def Warp.oldest (w : Warp) : Option Entry := match w.handler with | some h => w.stack[h.depth]? | none => w.stack.head?

/-- Fuse at every entry that is covered, the newest first; inside a handler at the entries of its own region. -/
def Warp.fuseEntries (w : Warp) (vc : Nat) : Warp :=
  (w.stack.drop w.below).reverse.foldl (fun w e =>
    match w.stack.find? (fun x => x.id == e.id) with
    | some x => if x.covered then w.fuseEntry x vc else w
    | none => w) w

/-- The paths that take part in re-fusion: the handler's while one runs, else every path. -/
def Warp.active (w : Warp) : List Path := if w.handler.isSome then w.paths.filter (fun p => p.handler) else w.paths

/-- The point at which every path waits. -/
def Warp.atPoint (w : Warp) : Option Nat :=
  match w.active with
  | [] => none
  | p :: l => match p.wait with
    | .point b => if l.all (fun q => q.wait == .point b) then some b else none
    | _ => none

/-- Fuse the whole warp at a point: every entry is popped, and FMT and RRB are those of the oldest. The fused path
still waits; a path alone that meets no entry keeps its number, and with it what has yet to land on it. Inside a handler the entries of its own splits are popped, and the base entry gives it its start values (R333). -/
def Warp.fusePoint (w : Warp) : Warp :=
  let act := w.active
  let rest := w.paths.filter (fun p => !act.any (fun q => q.id == p.id))
  match fuseOf w.nextPath act with
  | none => w
  | some p =>
    let p := match w.oldest with
      | none => p
      | some e => { p with fmt := e.fmt, rrb := e.rrb, entry := e.parent }
    match w.oldest, act with
    | none, [_] => { w with stack := w.stack.take w.below, paths := w.paths.map (fun q => if act.any (fun a => a.id == q.id) then { p with id := q.id } else q) }
    | _, _ => { w with stack := w.stack.take w.below, paths := rest ++ [p], nextPath := w.nextPath + 1 }

/-- A re-fusion is tried in the next vc: of the handler's paths where one runs. -/
def Warp.setSettles (w : Warp) (b : Bool) : Warp :=
  match w.handler with
  | some h => { w with handler := some { h with settles := b } }
  | none => { w with settles := b }
def Warp.settling (w : Warp) : Bool := match w.handler with | some h => h.settles | none => w.settles

/-- A wait at a point ends: the fused path goes on at the next word. -/
def Warp.resumePoint (w : Warp) : Warp :=
  { w with paths := w.paths.map (fun p => match p.wait with | .point _ => { p with wait := .none, pc := p.pc + 8 } | _ => p) }

/-- `phase` once its warp has fused (R264): the guard fails in every lane, or a flag is named, or the path waits. A flag that
has no room meanwhile stalls it: it is tried again in the next vc (R97). -/
def State.phaseFused (s : State) (core slot b : Nat) : State :=
  let w := s.warp core slot
  let sig := b / 2 ^ 8 % 16
  let on := w.active.any (fun p =>
    let q := w.pr (physP p.rrb (b % 16))
    decide ((if Nat.testBit b 4 then ~~~q else q) &&& p.mask ≠ 0))
  let w' := w.resumePoint
  if !on then s.setWarp core slot w'
  else
    let (op, s) := s.newId core
    if sig ≠ 15 ∧ 63 ≤ w.fr sig then s.setWarp core slot (w.setSettles true)
    else if sig = 15 then
      (s.setWarp core slot { w' with paths := w'.paths.map (fun p =>
        if w.active.any (fun q => q.id == p.id) then { p with wait := .op op .phase } else p) }).modCore core
        (fun k => k.request (.phase slot w.handle w.team 15 op))
    else
      (s.setWarp core slot (w'.fw sig (w'.fr sig + 1))).modCore core
        (fun k => k.request (.phase slot w.handle w.team sig op))

/-- What a warp's fusion at a point sets in motion: an arrival at the team barrier or at a group, or `phase`. -/
def State.afterFuse (s : State) (core slot b : Nat) : State :=
  let w := s.warp core slot
  let op := bodyOp b
  if op = 0x95 then s.phaseFused core slot b
  else if op = 0xD0 then
    s.modTeam w.handle w.team (fun t => { t with barMask := t.barMask ||| 2 ^ w.widx })
  else
    let g := if op = 0xD2 then (w.xr (b / 2 ^ 16 % 128)).toNat else b / 32 % 2 ^ 19
    let v := w.xr (b / 2 ^ 24 % 128)
    let s := s.modWarp core slot (fun w => { w with grp := some g })
    let s := if op = 0xD2 then s.modTeam w.handle w.team (fun t =>
        { t with gredVals := some (match t.gredVals with | some x => gredOp (b / 32 % 8) x v | none => v) }) else s
    s.groupArrive w.handle w.team

/-- Re-fuse what can be re-fused after a path has arrived at a point or lanes have exited. -/
def State.settle (s : State) (core slot : Nat) : State :=
  let old := (s.warp core slot).stack
  let w := (s.warp core slot).fuseEntries (s.core core).vc
  let s := s.setWarp core slot w
  match w.atPoint with
  | some b => (s.setWarp core slot w.fusePoint).afterFuse core slot b
  | none => s.syncStack core slot old

/-- Every path waits at a point or a `rejoin`, and nothing can fuse (R75), nor will in the next vc. -/
def Warp.mismatched (w : Warp) : Bool :=
  let l := w.active
  w.live && (!w.stopped || w.handler.isSome) && !l.isEmpty && l.all (fun p => match p.wait with | .point _ | .rejoin _ => true | _ => false) &&
    w.atPoint.isNone && !w.settling

/-! ### The end of a warp -/

/-- A token of a warp that ends becomes FREE, and goes to the longest waiting warp (R202, R205). -/
def State.freeTokens (s : State) (core half widx : Nat) : State :=
  s.modPair (core / 2) (fun p => { p with
    tokens := (List.range 8).foldl (fun m n => if sget .free m n = .held half widx then sput .free m n .free else m) p.tokens,
    waiters := p.waiters.filter (fun q => !(q.2.1 == half && q.2.2.1 == widx)) })

/-- A warp whose lanes have all exited ends (R76): its team notes it, its tokens become free, its barrier arrivals and
its group's may now be complete. -/
def State.endWarp (s : State) (core slot : Nat) : State :=
  let w := s.warp core slot
  let s := s.setWarp core slot { w with live := false, paths := [], stack := [], land := [] }
  match s.teamOf w with
  | none => s
  | some t =>
    let s := match t.half with | some h => s.freeTokens core h w.widx | none => s
    let s := s.modTeam w.handle w.team (fun t => { t with ended := w.widx :: t.ended.filter (fun n => n != w.widx) })
    s.groupArrive w.handle w.team

/-- The re-fusions that an exit of the vc before completes are made (R75). -/
def State.settleDue (s : State) (core : Nat) : State :=
  (s.core core).slots.foldl (fun s sl =>
    if (s.warp core sl).settling then (s.modWarp core sl (fun w => w.setSettles false)).settle core sl else s) s

/-- Lanes of a path exit (R75, R76): they are added to ARRIVED of every entry that holds them. What that completes is fused
in the next vc. -/
def State.exitLanes (s : State) (core slot path : Nat) (m : Mask) : State :=
  let w := s.warp core slot
  let old := w.stack
  let w := { w with
    stack := w.stack.map (fun e => { e with arrived := e.arrived ||| (m &&& (e.tmask ||| e.nmask)) }),
    paths := (w.paths.map (fun p => if p.id = path then { p with mask := p.mask &&& ~~~m } else p)).filter (fun p => p.mask != 0) }
  let s := s.setWarp core slot w
  if w.paths.isEmpty then s.endWarp core slot else (s.setWarp core slot (w.setSettles true)).syncStack core slot old

end Sys2Proof.Machine
end

