-- ==== Sys2Proof/Machine/Copies.lean ====
section
/-!
DEFINITION. The copy engine (R192, R242, R249 to R257, R269, R270): starting a command, its operations over their
repetitions, and completion.
-/

namespace Sys2Proof.Machine

open Sys2Proof

/-! ### What an engine access ends in -/

/-- Why an engine stops short: it waits for a walk or a credit, meets a fault, or ends with a status. -/
inductive EngStop where
  | miss (s : State)
  | fault (cause : Nat) (off flinfo : Word)
  | status (n : Nat)
  deriving DecidableEq, Repr

abbrev Eng (α : Type) := Except EngStop α

/-- A side of a transfer: 0 memory, 1 scratchpad, 2 Loam (R250). -/
structure Side where
  kind : Nat
  space : Nat
  deriving DecidableEq, Repr

/-- The pieces of a range that lie in one 256-byte block each: offset and length, at most `fuel` of them. -/
def pieces : Nat → Word → Nat → List (Word × Nat)
  | 0, _, _ => []
  | f + 1, a, n =>
    if n = 0 then []
    else
      let m := min n (256 - a.toNat % 256)
      (a, m) :: pieces f (a + BitVec.ofNat 64 m) (n - m)
def piecesOf (a : Word) (n : Nat) : List (Word × Nat) := pieces (n / 256 + 2) a n

/-- The requester of an engine's memory access. -/
def engAcc (t : Team) (c : Cmd) (space : Nat) : Acc := { t.acc space c.level with slot := c.slot }

/-- Where a piece lies after translation, or why the engine stops. -/
def State.engAt (s : State) (core eng : Nat) (a : Acc) (off : Word) (acc : Nat) : Eng (Nat × Bool × State) :=
  match s.locate core eng a off acc with
  | (.ok pa cmp, s) => .ok (pa, cmp, s)
  | (.miss, s) => .error (.miss s)
  | (.fault k lv, _) =>
    .error (.fault (if k = 6 then 0x12 else 0x11) off (flinfoOf k lv acc (decide (a.level = .user)) a.space))

/-! ### Forks and joins (R270) -/

/-- The pieces of a range that lie in one 64 KiB page each, at most `fuel` of them. -/
def pagePieces : Nat → Word → Nat → List (Word × Nat)
  | 0, _, _ => []
  | f + 1, a, n =>
    if n = 0 then []
    else
      let m := min n (65536 - a.toNat % 65536)
      (a, m) :: pagePieces f (a + BitVec.ofNat 64 m) (n - m)

/-- Where an offset lies in memory as the tables stand; none for a window and where it does not translate. -/
def State.placeAt (s : State) (a : Acc) (off : Word) (acc : Nat) : Option Nat :=
  if !(s.part a.part).hasVf a.vf then none
  else match s.walk a.part a.vf a.space off acc (decide (a.level = .user)) with
    | .ok e => if isWindow (e.pa off) then none else some (e.pa off)
    | _ => none

/-- The memory under some ranges: addresses with lengths. -/
def State.extents (s : State) (a : Acc) (acc : Nat) (l : List (Word × Nat)) : List (Nat × Nat) :=
  (l.flatMap (fun q => pagePieces (q.2 / 65536 + 2) q.1 q.2)).filterMap (fun q => (s.placeAt a q.1 acc).map (fun p => (p, q.2)))

/-- A line overlaps one of some extents. -/
def inExtents (l : List (Nat × Nat)) (line : Nat) : Bool :=
  l.any (fun q => decide (line * 128 < q.1 + q.2 ∧ q.1 < line * 128 + 128))

/-- Fork: write back every dirty line over some extents; the write-backs to wait for, those of evictions among them. -/
def State.forkBack (s : State) (core : Nat) (l : List (Nat × Nat)) : List Nat × State :=
  let s := (s.writeBack core (fun x => inExtents l x.line)).2
  (((s.core core).wbs.filter (fun w => inExtents l w.line)).map (fun w => w.id), s)

/-- Join: drop the clean part of every line over some extents. -/
def State.joinDrop (s : State) (core : Nat) (l : List (Nat × Nat)) : State :=
  s.modCore core (fun k => k.dropClean (fun x => inExtents l x.line))

/-! ### Memory -/

/-- Read memory for an engine: bytes, each with whether its block is poisoned. -/
def State.engRead (s : State) (core eng : Nat) (a : Acc) : List (Word × Nat) → Eng (List (Byte × Bool) × State)
  | [] => .ok ([], s)
  | (off, n) :: l => do
    let (pa, cmp, s) ← s.engAt core eng a off 4
    let (b, s) : List (Byte × Bool) × State :=
      if isWindow pa then ((s.pcieRead n).1.map (fun x => (x, false)), (s.pcieRead n).2)
      else
        let bad := (s.homeBlock pa cmp).2
        (((s.homeBytes pa n cmp).zipIdx).map (fun q => (q.1, Nat.testBit bad ((pa + q.2) / 64 % 4))),
         s.scReads pa n (17 + 2 * a.vf) (some a.vf) cmp)
    let (r, s) ← s.engRead core eng a l
    .ok (b ++ r, s)

/-- Write memory for an engine. A poisoned byte list marks whole blocks whose check word was forwarded. -/
def State.engWrite (s : State) (core eng : Nat) (a : Acc) : List (Word × Nat) → List (Byte × Bool) → Eng State
  | [], _ => .ok s
  | (off, n) :: l, b => do
    let (pa, cmp, s) ← s.engAt core eng a off 5
    let here := (b.take n).zipIdx.map (fun q => (pa + q.2, q.1.1))
    if isFlefin pa && !s.flefinRoom [(pa, n)] then .error (.miss s)
    else
      let s := if isWindow pa then s.windowWrite core a.slot pa (here.map (fun q => q.2)) ((b.take n).any (fun q => q.2)) else s.homeWrite here cmp
      let s := if isWindow pa then s else (b.take n).zipIdx.foldl (fun s q =>
        if q.1.2 then { s with memPoison := sput false s.memPoison ((pa + q.2) / 64) true } else s) s
      s.engWrite core eng a l (b.drop n)

/-- The first poisoned byte of data that must be verified raises the integrity fault. -/
def engVerify (off : Word) (b : List (Byte × Bool)) : Eng Unit :=
  match (b.zipIdx).find? (fun q => q.1.2) with
  | some q => .error (.fault 0x14 (off + BitVec.ofNat 64 q.2) 0)
  | none => .ok ()

/-- Read a range of a side. -/
def State.sideRead (s : State) (core : Nat) (t : Team) (c : Cmd) (d : Side) (a : Word) (n : Nat) : Eng (List (Byte × Bool) × State) :=
  match d.kind with
  | 0 => s.engRead core 1 (engAcc t c d.space) (piecesOf a n)
  | 1 =>
    if t.spb < a.toNat + n then .error (.fault 0x06 a 0)
    else if ((s.core core).spBad (t.base + a.toNat) n).isSome then .error (.fault 0x14 a 0)
    else .ok (((s.core core).sp (t.base + a.toNat) n).map (fun b => (b, false)), s.modCore core (fun k => k.spSeen [t.base + a.toNat] n))
  | _ =>
    if !loamIn a.toNat n then .error (.fault 0x07 a 0)
    else if (piecesOf a n).any (fun q => !s.loamReadable t q.1.toNat) then .error (.fault 0x12 a 0)
    else if (s.loamBad a.toNat n).isSome then .error (.fault 0x14 a 0)
    else .ok ((s.loamBytes a.toNat n).map (fun b => (b, false)), s)

/-- Write a range of a side. -/
def State.sideWrite (s : State) (core : Nat) (t : Team) (c : Cmd) (d : Side) (a : Word) (b : List (Byte × Bool)) : Eng State :=
  let n := b.length
  match d.kind with
  | 0 => s.engWrite core 1 (engAcc t c d.space) (piecesOf a n) b
  | 1 =>
    if t.spb < a.toNat + n then .error (.fault 0x06 a 0)
    else .ok (s.modCore core (fun k => k.putSp ((b.zipIdx).map (fun q => (t.base + a.toNat + q.2, q.1.1)))))
  | _ =>
    if !loamIn a.toNat n then .error (.fault 0x07 a 0)
    else if (piecesOf a n).any (fun q => !s.loamOwned t.part q.1.toNat) then .error (.fault 0x12 a 0)
    else .ok (s.setLoam a.toNat (b.map (fun q => q.1)))

/-! ### The operations (R250, R251) -/

/-- The arguments of a copy command. -/
def Cmd.arg (c : Cmd) (i : Nat) : Word := (c.words.drop (i + 1)).headD 0
def Cmd.header (c : Cmd) : Word := c.words.headD 0
def Cmd.doms (c : Cmd) : List Nat := match c.pay with | .copy _ d => d | _ => []

/-- The kinds of EMOD. -/
def emodSides (m : Nat) : Nat × Nat :=
  match m with
  | 0 => (0, 0) | 1 => (0, 1) | 2 => (1, 0) | 3 => (1, 1) | 4 => (0, 2) | 5 => (1, 2) | 6 => (2, 0) | _ => (2, 1)

def Cmd.src (c : Cmd) : Side := ⟨(emodSides (ewMod c.header)).1, c.doms.getD (bits (c.arg 0) 2 0) 0⟩
def Cmd.dst (c : Cmd) : Side := ⟨(emodSides (ewMod c.header)).2, c.doms.getD (bits (c.arg 0) 5 3) 0⟩

/-- The address of a repetition: base plus k x STEP x unit. -/
def Cmd.at (c : Cmd) (base : Word) (k unit : Nat) : Word := base + wrap64 (ewStep c.header * k * unit)

/-- Two ranges of one kind (and, in memory, of one space) overlap. -/
def overlaps (a : Side) (x : Word) (n : Nat) (b : Side) (y : Word) (m : Nat) : Bool :=
  a.kind == b.kind && (a.kind != 0 || a.space == b.space) && decide (x.toNat < y.toNat + m ∧ y.toNat < x.toNat + n)

/-- Move `n` bytes. Check words are forwarded between memory ranges at one offset within 64 bytes (R242). -/
def State.move (s : State) (core : Nat) (t : Team) (c : Cmd) (x y : Word) (n : Nat) : Eng State := do
  let (b, s) ← s.sideRead core t c c.src x n
  let forward := decide (c.src.kind = 0 ∧ c.dst.kind = 0 ∧ x.toNat % 64 = y.toNat % 64)
  let _ ← if forward then .ok () else engVerify x b
  s.sideWrite core t c c.dst y b

/-- The source ranges of one repetition; of a packed command, of its next chunk. -/
def Cmd.sources (c : Cmd) (k : Nat) : List (Word × Nat) :=
  let n := bits (c.arg 3) 31 0
  match ewOp c.header with
  | 0x01 => [(c.at (c.arg 1) k 1, n)]
  | 0x02 => (List.range (bits (c.arg 3) 63 32)).map (fun r => (c.at (c.arg 1) k 4096 + BitVec.ofNat 64 r * c.arg 4, n))
  | 0x10 => [(c.arg 1 + BitVec.ofNat 64 c.srcPos, 256 * (bits (c.arg 4) 7 0 + 1))]
  | 0x11 => [(c.arg 1 + BitVec.ofNat 64 c.srcPos, 16)]
  | _ => []

/-- The ns for which a refresh window holds a Loam range back. -/
def State.rangeWait (s : State) (a : Word) (n : Nat) : Nat :=
  ((List.range (min 16 ((a.toNat + n - 1) / 4096 + 1 - a.toNat / 4096))).map (fun i => s.refreshWait (a.toNat + 4096 * i))).foldl max 0

/-- A repetition reads its Loam sources once the refresh window that they meet has ended; the delay counts once (R193). -/
def State.loamGate (s : State) (core : Nat) (c : Cmd) (k : Nat) : Eng State :=
  if c.src.kind ≠ 2 then .ok s
  else match ((s.core core).cmd c.seq).bind (fun x => x.gate.filter (fun g => g.1 == k)) with
    | some (_, t) => if s.pkg.now < t then .error (.miss s) else .ok s
    | none =>
      let w := ((c.sources k).map (fun q => s.rangeWait q.1 q.2)).foldl max 0
      if w = 0 then .ok s
      else .error (.miss ((s.modCore core (fun x => x.loamStall w)).modCmd core c.seq (fun x => { x with gate := some (k, s.pkg.now + w * refUnit) })))

/-- One repetition of LINE. -/
def State.lineRep (s : State) (core : Nat) (t : Team) (c : Cmd) (k : Nat) : Eng State :=
  let n := bits (c.arg 3) 31 0
  let x := c.at (c.arg 1) k 1
  let y := c.at (c.arg 2) k 1
  if n = 0 then .ok s
  else if overlaps c.src x n c.dst y n then .error (.status 4)
  else s.move core t c x y n

/-- One repetition of BOX: its rows in ascending order. A Loam range that leaves the region of its first row is out of bounds (R253). -/
def State.boxRep (s : State) (core : Nat) (t : Team) (c : Cmd) (k : Nat) : Eng State :=
  let n := bits (c.arg 3) 31 0
  let rows := bits (c.arg 3) 63 32
  let x := fun (r : Nat) => c.at (c.arg 1) k 4096 + BitVec.ofNat 64 r * c.arg 4
  let y := fun (r : Nat) => c.at (c.arg 2) k 4096 + BitVec.ofNat 64 r * c.arg 5
  let out := fun (d : Side) (a : Nat → Word) => if d.kind ≠ 2 then none else
    ((List.range rows).find? (fun r => !loamIn (a r).toNat n || decide ((a r).toNat / 2 ^ 24 ≠ (a 0).toNat / 2 ^ 24))).map a
  if n = 0 then .ok s
  else if let some a := (out c.src x).or (out c.dst y) then .error (.fault 0x07 a 0)
  else if (List.range rows).any (fun i => (List.range rows).any (fun j => overlaps c.src (x i) n c.dst (y j) n)) then .error (.status 4)
  else (List.range rows).foldlM (fun s r => s.move core t c (x r) (y r) n) s

/-- One repetition of FILL: the byte at address x is pattern byte x mod 4. -/
def State.fillRep (s : State) (core : Nat) (t : Team) (c : Cmd) (k : Nat) : Eng State :=
  let n := bits (c.arg 2) 31 0
  let y := c.at (c.arg 1) k 1
  let pat := leBytes (bits (c.arg 2) 63 32) 4
  if n = 0 then .ok s
  else s.sideWrite core t c c.dst y ((List.range n).map (fun i => (pat.getD ((y.toNat + i) % 4) 0, false)))

/-- Run the repetitions from `k`, `n` of them; the repetition at which it stops short, with the reason. -/
def runReps (rep : State → Nat → Eng State) : Nat → Nat → State → Nat × State × Option EngStop
  | 0, k, s => (k, s, none)
  | n + 1, k, s => match rep s k with
    | .ok s => runReps rep n (k + 1) s
    | .error e => (k, s, some e)

/-- Run a copy command's repetitions: it finishes, waits where it is, meets a fault or ends with a status. Loam regions
are left as they were by a command that does not finish (R192). -/
def State.runCopy (s : State) (core : Nat) (c : Cmd) (rep : State → Nat → Eng State) : State :=
  let (k, u, r) := runReps (fun u k => do rep (← u.loamGate core c k) k) (ewRep c.header + 1 - c.rep) c.rep s
  let loam := decide (c.dst.kind = 2)
  let undo := fun (v : State) => if loam then { v with loam := s.loam, loamPoison := s.loamPoison } else v
  let upTo := if loam then 0 else k
  match r with
  | none => u.modCmd core c.seq (fun x => { x with stage := .finished, rep := k, readDone := true })
  | some (.miss v) => (undo v).modCmd core c.seq (fun x => { x with rep := upTo })
  | some (.fault cause off fl) =>
    (undo u).modCmd core c.seq (fun x => { x with rep := upTo, fault := some { seq := c.seq, widx := c.widx, cause := cause, info := 0, off := off, flinfo := fl } })
  | some (.status n) => (undo u).modCmd core c.seq (fun x => { x with stage := .finished, status := n, chunk := k, readDone := true })

/-- The running copy command that an event names, with its team. -/
def State.runningCopy (s : State) (core seq op : Nat) : Option (Cmd × Team) :=
  match (s.core core).cmd seq with
  | some c => if c.eng = 1 ∧ c.stage = .running ∧ c.abnd = false ∧ c.fault = none ∧ ewOp c.header = op then
      (s.team c.handle c.team).map (fun t => (c, t)) else none
  | none => none

/-- LINE (R250): core, command. -/
def execLine (s : State) : Host.Outcome State Fault Refusal :=
  .next (match s.runningCopy s.ev.a s.ev.b 0x01 with
    | some (c, t) => s.runCopy s.ev.a c (fun u k => u.lineRep s.ev.a t c k)
    | none => s)

/-- BOX (R250): core, command. -/
def execBox (s : State) : Host.Outcome State Fault Refusal :=
  .next (match s.runningCopy s.ev.a s.ev.b 0x02 with
    | some (c, t) => s.runCopy s.ev.a c (fun u k => u.boxRep s.ev.a t c k)
    | none => s)

/-- FILL (R250): core, command. -/
def execFill (s : State) : Host.Outcome State Fault Refusal :=
  .next (match s.runningCopy s.ev.a s.ev.b 0x03 with
    | some (c, t) => s.runCopy s.ev.a c (fun u k => u.fillRep s.ev.a t c k)
    | none => s)

/-! ### Packed streams (R256, R257) -/

/-- Split bytes into blocks of 256. -/
def blocksOf : Nat → List Byte → List (List Byte)
  | 0, _ => []
  | n + 1, b => b.take 256 :: blocksOf n (b.drop 256)

/-- A chunk of blocks. -/
def chunkBytes (raw : List Byte) (n : Nat) : List Byte :=
  let body := (blocksOf n raw).flatMap (fun b => let e := zStream b; e ++ List.replicate ((4 - e.length % 4) % 4) 0)
  leBytes (n - 1 + (16 + body.length) * 2 ^ 32) 8 ++ leBytes (crc32c raw).toNat 8 ++ body

/-- Decode the blocks of a chunk's body; none where a block does not decode or they do not end at its end. -/
def chunkDecode : Nat → List Byte → Option (List Byte)
  | 0, b => if b.isEmpty then some [] else none
  | n + 1, b =>
    let len := zLen b
    let step := cdiv len 4 * 4
    if b.length < step ∨ ((b.take step).drop len).any (fun x => x != 0) then none
    else match zDecode (b.take step) false, chunkDecode n (b.drop step) with
      | some d, some r => some (d ++ r)
      | _, _ => none

/-- One chunk of ZPACK: the command's positions advance. -/
def State.zpackRep (s : State) (core : Nat) (t : Team) (c : Cmd) : Eng (Nat × Nat × State) := do
  let n := bits (c.arg 4) 7 0 + 1
  let x := c.arg 1 + BitVec.ofNat 64 c.srcPos
  let y := c.arg 2 + BitVec.ofNat 64 c.dstPos
  let (b, s) ← s.sideRead core t c c.src x (256 * n)
  engVerify x b
  let out := chunkBytes (b.map (fun q => q.1)) n
  if overlaps c.src x (256 * n) c.dst y out.length then .error (.status 4)
  else do
    let s ← s.sideWrite core t c c.dst y (out.map (fun q => (q, false)))
    .ok (256 * n, cdiv out.length 64 * 64, s)

/-- One chunk of ZUNPACK: staged, checked, and only then written. -/
def State.zunpackRep (s : State) (core : Nat) (t : Team) (c : Cmd) : Eng (Nat × Nat × State) := do
  let x := c.arg 1 + BitVec.ofNat 64 c.srcPos
  let y := c.arg 2 + BitVec.ofNat 64 c.dstPos
  let (h, s) ← s.sideRead core t c c.src x 16
  engVerify x h
  let w0 := ofBytes ((h.take 8).map (fun q => q.1))
  let w1 := ofBytes ((h.drop 8).map (fun q => q.1))
  let n := w0 % 256 + 1
  let plen := w0 / 2 ^ 32
  if w0 / 256 % 2 ^ 24 ≠ 0 ∨ w1 / 2 ^ 32 ≠ 0 ∨ plen < 16 ∨ 16 + 260 * n < plen then .error (.status 1)
  else do
    let (b, s) ← s.sideRead core t c c.src (x + 16) (plen - 16)
    engVerify x b
    match chunkDecode n (b.map (fun q => q.1)) with
    | none => .error (.status 1)
    | some raw =>
      if (crc32c raw).toNat ≠ w1 % 2 ^ 32 then .error (.status 2)
      else if overlaps c.src x plen c.dst y raw.length then .error (.status 4)
      else do
        let s ← s.sideWrite core t c c.dst y (raw.map (fun q => (q, false)))
        .ok (cdiv plen 64 * 64, 256 * n, s)

/-- Run the chunks of a packed command, keeping its positions. -/
def runChunks (core seq : Nat) (rep : State → Cmd → Eng (Nat × Nat × State)) : Nat → State → State × Option EngStop
  | 0, s => (s, none)
  | n + 1, s => match (s.core core).cmd seq with
    | none => (s, none)
    | some c => match (do rep (← s.loamGate core c c.rep) c) with
      | .error e => (s, some e)
      | .ok (a, b, s) =>
        runChunks core seq rep n (s.modCmd core seq (fun c => { c with srcPos := c.srcPos + a, dstPos := c.dstPos + b, rep := c.rep + 1 }))

/-- Run a packed command; `last` writes what completion writes. -/
def State.runPacked (s : State) (core : Nat) (c : Cmd) (rep : State → Cmd → Eng (Nat × Nat × State))
    (last : State → Cmd → Eng State) : State :=
  let (u, r) := runChunks core c.seq rep (ewRep c.header + 1 - c.rep) s
  let c := ((u.core core).cmd c.seq).getD c
  let stop := match r with
    | some e => some e
    | none => match last u c with | .error e => some e | .ok _ => none
  match stop with
  | none => (match last u c with | .ok v => v | .error _ => u).modCmd core c.seq (fun x => { x with stage := .finished, readDone := true })
  | some (.miss v) => { u with dies := v.dies, cores := v.cores, free := v.free }
  | some (.fault cause off fl) =>
    u.modCmd core c.seq (fun x => { x with fault := some { seq := c.seq, widx := c.widx, cause := cause, info := 0, off := off, flinfo := fl } })
  | some (.status n) => u.modCmd core c.seq (fun x => { x with stage := .finished, status := n, chunk := c.rep, readDone := true })

/-- ZPACK (R256): core, command. The packed length of the command goes to the result word. -/
def execZpack (s : State) : Host.Outcome State Fault Refusal :=
  .next (match s.runningCopy s.ev.a s.ev.b 0x10 with
    | some (c, t) => s.runPacked s.ev.a c (fun u c => u.zpackRep s.ev.a t c) (fun u c =>
        if c.arg 3 = 0 then .ok u else u.sideWrite s.ev.a t c c.dst (c.arg 3) ((leBytes c.dstPos 8).map (fun b => (b, false))))
    | none => s)

/-- ZUNPACK (R257): core, command. -/
def execZunpack (s : State) : Host.Outcome State Fault Refusal :=
  .next (match s.runningCopy s.ev.a s.ev.b 0x11 with
    | some (c, t) => s.runPacked s.ev.a c (fun u c => u.zunpackRep s.ev.a t c) (fun u _ => .ok u)
    | none => s)

/-! ### Start and completion (R249, R252, R270) -/

/-- Live launches of a partition that name a Loam region lock it (R192). -/
def State.loamLocked (s : State) (p a : Nat) : Bool :=
  s.launches.any (fun l => l.part == p && (l.state == .queued || l.state == .accepted) &&
    Nat.testBit (fieldAt l.lpb (0x30 + 8 * loamDie a) 8) (loamRegion a))

/-- Commands of an engine that it has started and not completed. -/
def Core.inFlight (k : Core) (eng : Nat) : Nat :=
  (k.cmds.filter (fun c => c.eng == eng && (match c.stage with | .fork _ | .running | .finished => true | _ => false))).length

/-- The longest chunk of a packed stream with `n` blocks (R256). -/
def chunkMost (n : Nat) : Nat := cdiv (16 + 260 * n) 64 * 64

/-- The source ranges of a command over all its repetitions. A packed source is taken at its longest. -/
def Cmd.reads (c : Cmd) : List (Word × Nat) :=
  let reps := List.range (ewRep c.header + 1)
  let n := bits (c.arg 3) 31 0
  match ewOp c.header with
  | 0x01 => reps.map (fun k => (c.at (c.arg 1) k 1, n))
  | 0x02 => reps.flatMap (fun k => (List.range (bits (c.arg 3) 63 32)).map (fun r =>
      (c.at (c.arg 1) k 4096 + BitVec.ofNat 64 r * c.arg 4, n)))
  | 0x10 => [(c.arg 1, reps.length * (256 * (bits (c.arg 4) 7 0 + 1)))]
  | 0x11 => [(c.arg 1, reps.length * chunkMost 256)]
  | _ => []

/-- The destination ranges of a command over all its repetitions; what a packed command writes is `len` long, and ZPACK's
result word follows. -/
def Cmd.writes (c : Cmd) (len : Nat) : List (Word × Nat) :=
  let reps := List.range (ewRep c.header + 1)
  let n := bits (c.arg 3) 31 0
  match ewOp c.header with
  | 0x01 => reps.map (fun k => (c.at (c.arg 2) k 1, n))
  | 0x02 => reps.flatMap (fun k => (List.range (bits (c.arg 3) 63 32)).map (fun r =>
      (c.at (c.arg 2) k 4096 + BitVec.ofNat 64 r * c.arg 5, n)))
  | 0x03 => reps.map (fun k => (c.at (c.arg 1) k 1, bits (c.arg 2) 31 0))
  | 0x10 => [(c.arg 2, len), (c.arg 3, if c.arg 3 = 0 then 0 else 8)]
  | _ => [(c.arg 2, len)]

/-- The most that a packed command writes. -/
def Cmd.most (c : Cmd) : Nat :=
  (ewRep c.header + 1) * (if ewOp c.header = 0x10 then chunkMost (bits (c.arg 4) 7 0 + 1) else 65536)

/-- The Loam addresses at which the ranges that a command would write begin (R192). A range of no bytes writes no region, and an address from
2^31 up names none (R190). -/
def Cmd.loamDests (c : Cmd) : List Nat :=
  if c.dst.kind ≠ 2 then []
  else (((c.writes c.most).filter (fun q => decide (q.2 ≠ 0))).map (fun q => q.1.toNat)).filter (fun a => decide (a < 2 ^ 31))

/-- The memory that a command reads, and that it writes. -/
def State.readExtents (s : State) (t : Team) (c : Cmd) : List (Nat × Nat) :=
  if c.src.kind = 0 then s.extents (engAcc t c c.src.space) 4 c.reads else []
def State.writeExtents (s : State) (t : Team) (c : Cmd) (len : Nat) : List (Nat × Nat) :=
  if c.dst.kind = 0 then s.extents (engAcc t c c.dst.space) 5 (c.writes len) else []

/-- A copy command still has repetitions to issue: the engine fetches the next word after its last (R45). -/
def Core.issuing (k : Core) (eng : Nat) : Bool :=
  eng == 1 && k.cmds.any (fun c => c.eng == 1 && c.fault.isNone && !c.abnd && (match c.stage with | .fork _ | .running => true | _ => false))

/-- The next command that an engine may start. -/
def Core.nextQueued (k : Core) (eng : Nat) : Option Cmd :=
  if k.issuing eng then none else k.cmds.find? (fun c => c.eng == eng && c.stage == .queued && !c.abnd)

/-- The fork write-back of a command has been acknowledged (R270). -/
def Cmd.forkOver (c : Cmd) (k : Core) : Bool := match c.stage with | .fork l => !l.any (fun i => k.wbIds.contains i) | _ => false

/-- ENGINE_WORD_START (R45, R249, R270, R192): core, command. The fork write-back publishes the core's dirty lines over
the command's ranges, and the command runs once it is acknowledged; a locked Loam region ends the command with status 3. -/
def execEngineWordStart (s : State) : Host.Outcome State Fault Refusal :=
  let core := s.ev.a
  let k := s.core core
  .next (match k.cmd s.ev.b with
    | none => s
    | some c =>
      if c.forkOver k then s.modCmd core c.seq (fun x => { x with stage := .running })
      else if (k.nextQueued c.eng).map (fun x => x.seq) ≠ some c.seq ∨ !s.waitOver core c ∨ 512 ≤ k.inFlight c.eng then s
      else if c.eng ≠ 1 then s.modCmd core c.seq (fun x => { x with stage := .running, started := true })
      else match s.team c.handle c.team with
        | none => s
        | some t =>
          if c.loamDests.any (fun a => s.loamLocked t.part a) then
            s.modCmd core c.seq (fun x => { x with stage := .finished, started := true, status := 3, readDone := true })
          else if c.src.kind = 0 ∨ c.dst.kind = 0 then
            let r := s.forkBack core (s.readExtents t c ++ s.writeExtents t c c.most)
            r.2.modCmd core c.seq (fun x => { x with stage := .fork r.1, started := true })
          else s.modCmd core c.seq (fun x => { x with stage := .running, started := true }))

/-- A completion record (R252). -/
def Cmd.record (c : Cmd) : Word :=
  let op := ewOp c.header
  BitVec.ofNat 64 (c.seq + c.status % 256 * 2 ^ 32 + op * 2 ^ 40 + (if 0x10 ≤ op then c.chunk % 256 * 2 ^ 48 else 0))

/-- The join of a command: the core's clean bytes over what it wrote go. -/
def State.copyJoin (s : State) (core : Nat) (c : Cmd) : State :=
  match s.team c.handle c.team with
  | some t => s.joinDrop core (s.writeExtents t c c.dstPos)
  | none => s

/-- COPY_COMMAND_COMPLETE (R252, R270): core, command. -/
def execCopyCommandComplete (s : State) : Host.Outcome State Fault Refusal :=
  let core := s.ev.a
  .next (match (s.core core).cmd s.ev.b with
    | none => s
    | some c =>
      if c.stage ≠ .finished ∨ c.eng ≠ 1 then s
      else
        let s := s.copyJoin core c
        let s := if c.rec_ then s.post core 3 c.slot c.record
          else if c.status ≠ 0 then s.holdAsync c.handle c.team { seq := c.seq, widx := c.widx, cause := 0x15, info := c.record }
          else s
        ((s.flagDec core c.slot c.handle c.team c.sig).freeCmd core c).groupArrive c.handle c.team)

end Sys2Proof.Machine
end

