-- ==== Sys2Proof/Machine/Reach.lean ====
section
/-!
DEFINITION. How the distributor, the raster, the merger and the links reach memory (R65, R67, R264, R312, R320, R364, R395):
through the tables as they stand at the homes, past every L1.
-/

namespace Sys2Proof.Machine

open Sys2Proof

/-- What an autonomous unit's access ends in: done, held behind a stage-2 fault, or a fault with its cause. -/
inductive Got (α : Type) where
  | ok (a : α) (s : State)
  | wait (s : State)
  | bad (cause : Nat)

/-- Sequencing. -/
def Got.bind {α β : Type} (x : Got α) (f : α → State → Got β) : Got β :=
  match x with
  | .ok a s => f a s
  | .wait s => .wait s
  | .bad c => .bad c

/-- One place: address and compression. A stage-2 fault enters the walk queue of `core`'s die, so that the hypervisor
sees it (R324). -/
def State.unitAt (s : State) (core : Nat) (a : Acc) (off : Word) (acc : Nat) : Got (Nat × Bool) :=
  if a.raw then (if off.toNat < memTop then .ok (off.toNat, false) s else .bad 0x11)
  else if !(s.part a.part).hasVf a.vf then .bad 0x11
  else match s.walk a.part a.vf a.space off acc (decide (a.level = .user)) with
    | .ok e => if s.admits a (e.pa off) (accNeeds acc).2.1 then .ok (e.pa off, e.cmp) s else .bad 0x12
    | .s1 k _ => .bad (if k = 6 then 0x12 else 0x11)
    | .s2 .. => .wait (s.translate core 0 a.part a.vf a.space off acc a.level).2

/-- Read the pieces of a range, each byte with whether its block failed its check, which ends a read whose data is consumed with an integrity
fault; what a link answers is free (log 5). -/
def State.unitReads (s : State) (core cls : Nat) (a : Acc) (consume : Bool) : List (Word × Nat) → Got (List (Byte × Bool))
  | [] => .ok [] s
  | (off, n) :: l => (s.unitAt core a off 0).bind fun q s =>
    let win := isWindow q.1
    let bad := (s.homeBlock q.1 q.2).2
    let fails := (List.range n).map (fun i => !win && Nat.testBit bad ((q.1 + i) / 64 % 4))
    if consume && fails.any (fun x => x) then .bad 0x14
    else
      let b : List (Byte × Bool) × State := if win then ((s.pcieRead n).1.map (fun x => (x, false)), (s.pcieRead n).2)
        else ((s.homeBytes q.1 n q.2).zip fails, s.scReads q.1 n cls (if cls < 16 then none else some a.vf) q.2)
      (b.2.unitReads core cls a consume l).bind fun r s => .ok (b.1 ++ r) s

/-- Read a range as requester class `cls` (R386). -/
def State.unitRead (s : State) (core cls : Nat) (a : Acc) (off : Word) (n : Nat) : Got (List Byte) :=
  (s.unitReads core cls a true (piecesOf off n)).bind fun l s => .ok (l.map (fun q => q.1)) s

/-- Read a range to send it over a link: bytes, and whether a block of them failed its check; that is logged at the die (R243). -/
def State.egressRead (s : State) (core cls : Nat) (a : Acc) (off : Word) (n : Nat) : Got (List Byte × Bool) :=
  (s.unitReads core cls a false (piecesOf off n)).bind fun l s =>
    let bad := l.any (fun q => q.2)
    .ok (l.map (fun q => q.1), bad) (if bad then s.logEvent 5 (dieOf core) else s)

/-- Write the pieces of a range, each where it lies. -/
def State.unitWrites (s : State) (core : Nat) (a : Acc) : List (Word × Nat) → List Byte → Got Unit
  | [], _ => .ok () s
  | (off, n) :: l, b => (s.unitAt core a off 1).bind fun q s =>
    let here := b.take n
    if isFlefin q.1 && !s.flefinRoom [(q.1, n)] then .wait s
    else
      let s := if isWindow q.1 then s.windowWrite core 32 q.1 here else s.homeWrite (here.zipIdx.map (fun x => (q.1 + x.2, x.1))) q.2
      s.unitWrites core a l (b.drop n)

def State.unitWrite (s : State) (core : Nat) (a : Acc) (off : Word) (b : List Byte) : Got Unit :=
  s.unitWrites core a (piecesOf off b.length) b

end Sys2Proof.Machine
end

