-- ==== Sys2Proof/Machine/Launch.lean ====
section
/-!
DEFINITION. Launches (R62 to R65, R67, R269): submitting one, its validation and its completion.
-/

namespace Sys2Proof.Machine

open Sys2Proof

/-! ### Fields of the launch parameter block (R62) -/

/-- A field of `n` bytes. -/
def Launch.fld (l : Launch) (off n : Nat) : Nat := fieldAt l.lpb off n
def Launch.wpt (l : Launch) : Nat := l.fld 0x08 1
def Launch.lanes (l : Launch) : Nat := l.fld 0x09 1
def Launch.chkpt (l : Launch) : Bool := Nat.testBit (l.fld 0x0A 1) 0
def Launch.twin (l : Launch) : Bool := Nat.testBit (l.fld 0x0A 1) 1
def Launch.split (l : Launch) : Nat := l.fld 0x0A 1 / 4 % 4
def Launch.prio (l : Launch) : Nat := l.fld 0x0A 1 / 16 % 4
def Launch.declared (l : Launch) : Bool := Nat.testBit (l.fld 0x0A 1) 6
def Launch.spb (l : Launch) : Nat := l.fld 0x0C 4
def Launch.tokens (l : Launch) : Nat := l.fld 0x14 2
def Launch.rsig (l : Launch) : Nat := l.fld 0x16 1 % 16
def Launch.crec (l : Launch) : Nat := l.fld 0x50 8
def Launch.dep (l : Launch) (i : Nat) : Nat := l.fld (0x40 + 4 * i) 4
def Launch.gridX (l : Launch) : Nat := l.fld 0x2A 2
def Launch.gridY (l : Launch) : Nat := l.fld 0x2C 2
/-- Every group that a team is a member of, the whole launch among them (R67). -/
def Launch.groupsOf (l : Launch) (i : Nat) : List Nat := idxs l.groups.length (fun g => l.member g i) ++ [256]
/-- A launch that has been accepted and is not complete, or waits for validation (R192). -/
def Launch.live (l : Launch) : Bool := l.state == .queued || l.state == .accepted

/-- The LPB's accesses are those of its VF at the launching level. -/
def Launch.acc (l : Launch) (space : Nat) : Acc :=
  { part := l.part, vf := l.vf, space := space, level := l.level, id := ⟨some l.vf, some l.part, l.level⟩ }
/-- A core of the launch's die, at which a stage-2 fault of the distributor is recorded. -/
def Launch.unit (l : Launch) : Nat := 128 * l.die

/-! ### Submitting (R64) -/

/-- What a die's launch queue holds: the launches with teams that have not left it, of VFs that are scheduled (R385). -/
def State.launchQueue (s : State) (d : Nat) : List Launch :=
  s.launches.filter (fun l => l.die == d && bit (s.vf l.vf).vfq 1 && (l.state == .queued || (l.state == .accepted && decide (l.next < l.count))))

/-- No entry is left for a partition: 256 in all, 8 guaranteed to each. -/
def State.launchFull (s : State) (d p : Nat) : Bool :=
  let q := s.launchQueue d
  let of := fun (i : Nat) => (q.filter (fun l => l.part == i)).length
  let kept := ((List.range 20).filter (fun i => (s.part i).valid && i != p)).foldl (fun n i => n + (8 - of i)) 0
  decide (256 ≤ q.length) || (decide (8 ≤ of p) && decide (256 ≤ q.length + kept))

/-- The next handle of a die: never 0, its sequence wraps from 2^31 - 1 to 1, a live handle passed over. -/
def State.newHandle (s : State) (d : Nat) : Nat × State :=
  let seq := fun (i : Nat) => ((s.die d).handleSeq - 1 + i) % (2 ^ 31 - 1) + 1
  let i := ((List.range (s.launches.length + 1)).find? (fun i => (s.launch (seq i + d * 2 ^ 31)).isNone)).getD 0
  (seq i + d * 2 ^ 31, s.modDie d (fun k => { k with handleSeq := seq i % (2 ^ 31 - 1) + 1 }))

/-- A launch enters its die's queue. -/
def State.submit (s : State) (l : Launch) : Nat × State :=
  let (h, s) := s.newHandle l.die
  (h, { s with launches := s.launches ++ [{ l with handle := h }] })

/-- The effect of `launch`: the queue, the CSIG byte at its home after the fork release, the flag, the handle (R64). -/
def Ctx.submit (c : Ctx) (s : State) (a : Acc) (addr : Word) : Try (Nat × State) :=
  let d := dieOf c.core
  let lane := lowestLane c.p.mask
  if addr.toNat % 64 ≠ 0 then trapS 0x05 addr
  else if s.launchFull d a.part then stall .queue s
  else do
    let r := s.locateLanes c.core 0 a 0 [(lane, addr + 0x58)]
    if r.1.miss then stall .mem r.2
    else
      let s := r.2.flushNow c.core
      match r.1.ok with
      | [] => trapAt r.1.bad
      | q :: _ =>
        if !isWindow q.pa && s.homeBad q.pa q.cmp then trapS 0x14 (integrityInfo q.off.toNat)
        else
          let b : List Byte × State := if isWindow q.pa then s.pcieRead 1 else (s.homeBytes q.pa 1 q.cmp, s)
          let v := ofBytes b.1
          let sig := if 16 ≤ v ∨ 12 ≤ v % 16 ∧ v % 16 ≤ 14 then 16 else v
          let s ← c.flagInc b.2 (if sig ≤ 11 then sig else 15)
          .ok (s.submit {
            handle := 0, die := d, vf := a.vf, part := a.part, level := a.level, space := BitVec.ofNat 16 a.space, addr := addr,
            doms := (List.range 8).map (fun i => c.w.dr i), csig := sig,
            launcher := some (if c.svc then (0, c.core, 0) else (c.w.handle, c.w.team, c.w.widx)) })

/-- R64. -/
def execLaunch (f : FmtA) (s : State) : Host.Outcome State Fault Refusal :=
  s.run fun c => do
    let s ← c.begin s none [.xs f.s1 24 1, .xd f.d]
    if !c.on f.g then .ok (s.advance c)
    else do
      let (h, s) ← c.submit s (c.acc s f.md.toNat) (c.xv f.s1)
      .ok ((s.landX c 8 (opIdx f.d) (BitVec.ofNat 64 h)).advance c)

/-! ### Validation (R62, R65, R67, R354) -/

/-- A range or a reserved field of the block is broken. -/
def Launch.badBlock (l : Launch) : Bool :=
  let n := l.fld 0x04 4
  let le := l.fld 0x0B 1
  let rs := l.rsig
  let cs := l.fld 0x58 1
  decide (l.fld 0x00 2 / 4096 ≠ 0) || (l.batch.isNone && decide (n = 0 ∨ 2 ^ 20 < n)) || decide (l.wpt = 0 ∨ 16 < l.wpt) ||
  decide (l.lanes = 0 ∨ 64 < l.lanes) || Nat.testBit (l.fld 0x0A 1) 7 || decide (l.split = 3) ||
  (l.twin && decide (n % 2 ≠ 0)) || (decide (l.split = 2) && decide (n % (if l.twin then 4 else 2) ≠ 0)) ||
  (if l.declared then decide (le = 0 ∨ 128 < le) else decide (le ≠ 0)) || decide (l.spb % 256 ≠ 0 ∨ 1032192 < l.spb) ||
  decide (12 ≤ rs ∧ rs ≤ 14) || decide (l.fld 0x16 2 / 16 ≠ 0) || decide (l.fld 0x1C 4 ≠ 0) ||
  decide (l.fld 0x28 2 = 0 ∧ l.fld 0x20 8 ≠ 0) || decide (256 < l.fld 0x28 2) || decide (65535 < l.gridX * l.gridY) ||
  decide (l.fld 0x2E 2 ≠ 0) || (l.lpb.drop 0x62 |>.take 0x1E).any (fun b => b != 0) ||
  decide (16 ≤ cs ∨ 12 ≤ cs ∧ cs ≤ 14 ∨ l.csig = 16) || decide (l.fld 0x58 8 / 16 ≠ 0)

/-- The further rules for the block of a draw batch. -/
def Launch.badImplicit (l : Launch) : Bool :=
  decide (l.wpt ≠ 1 ∨ l.lanes ≠ 64 ∨ l.fld 0x04 4 ≠ 0 ∨ l.fld 0x20 8 ≠ 0 ∨ l.fld 0x28 2 ≠ 0 ∨ l.gridX ≠ 0 ∨ l.gridY ≠ 0 ∨ l.crec ≠ 0 ∨
    l.fld 0x58 1 % 16 ≠ 15 ∨ 2 ≤ l.split)

/-- Strictly ascending. -/
def ascending : List Nat → Bool
  | a :: b :: l => decide (a < b) && ascending (b :: l)
  | _ => true

/-- The words of a team list, four bytes each. -/
def teamWords : Nat → List Byte → List Nat
  | 0, _ => []
  | n + 1, b => ofBytes (b.take 4) :: teamWords n (b.drop 4)

/-- The groups whose entries are given, in order; none where one breaks R67. -/
def State.readGroups (s : State) (l : Launch) (n : Nat) : List Nat → Got (Option (List (List Nat)))
  | [] => .ok (some []) s
  | e :: r =>
    let off := e % 2 ^ 40
    let cnt := e / 2 ^ 40
    if off % 4 ≠ 0 ∨ cnt = 0 ∨ 2 ^ 20 < cnt then .ok none s
    else (s.unitRead l.unit (17 + 2 * l.vf) (l.acc l.space.toNat) (BitVec.ofNat 64 (l.fld 0x20 8 + off)) (4 * cnt)).bind fun b s =>
      let ts := teamWords cnt b
      if !ascending ts || ts.any (fun t => decide (n ≤ t)) then .ok none s
      else (s.readGroups l n r).bind fun q s => .ok (q.map (fun q => ts :: q)) s

/-- Every team is in at most 4 table groups. -/
def fewGroups (gs : List (List Nat)) : Bool :=
  gs.all (fun g => g.all (fun t => decide ((gs.filter (fun h => h.contains t)).length ≤ 4)))

/-- The group table. -/
def State.groupTable (s : State) (l : Launch) (n : Nat) : Got (Option (List (List Nat))) :=
  let cnt := l.fld 0x28 2
  if cnt = 0 then .ok (some []) s
  else (s.unitRead l.unit (17 + 2 * l.vf) (l.acc l.space.toNat) (BitVec.ofNat 64 (l.fld 0x20 8)) (8 * cnt)).bind fun b s =>
    (s.readGroups l n ((List.range cnt).map (fun g => fieldAt b (8 * g) 8))).bind fun q s =>
      .ok (q.bind (fun gs => if fewGroups gs then some gs else none)) s

/-- Change RES of a module by a signed amount (R29). -/
def State.addRes (s : State) (p m : Nat) (d : Int) : State :=
  s.setNum (s.modAddr p m + 4) 4 (((s.modEntry p m).res : Int) + d).toNat

/-- The partition can never place a team: no pair of it, or with SPLIT none on one of the dies. -/
def State.neverPlaced (s : State) (l : Launch) : Bool :=
  let p := s.part l.part
  decide (p.pairs 0 = 0 ∧ p.pairs 1 = 0) || (decide (l.split ≠ 0) && decide (p.pairs 0 = 0 ∨ p.pairs 1 = 0))

/-- Replace a launch. -/
def State.putLaunch (s : State) (l : Launch) : State := s.modLaunch l.handle (fun _ => l)

/-- Validation refuses a launch with a status. -/
def State.refuse (s : State) (l : Launch) (status : Nat) : State := s.putLaunch { l with state := .refused status }

/-! ### The launch ring (R385) -/

/-- The record of a launch in its VF's ring (R385) and image (R349): the block as read; its reserved bytes hold the handle, the tile counter, CSIG, and where in the image the
copy of its group table lies with the number of groups (log 65). -/
def Launch.record (l : Launch) (groupsAt : Nat) : List Byte :=
  l.lpb.take 0x64 ++ leBytes l.handle 4 ++ leBytes l.tileCtr 4 ++ leBytes l.csig 4 ++ leBytes groupsAt 4 ++ leBytes l.groups.length 4 ++ (l.lpb.drop 0x78).take 0x88

/-- The block that a record holds. -/
def recordBlock (b : List Byte) : List Byte := b.take 0x62 ++ List.replicate 0x1E 0 ++ b.drop 0x80

/-- The launches of a VF that have teams to place. -/
def State.taskRecords (s : State) (v : Nat) : List Launch :=
  s.launches.filter (fun l => l.vf == v && l.state == .accepted && decide (l.next < l.count))

/-- Where a VF's launch ring lies. -/
def State.ringBase (s : State) (v : Nat) : Nat := bits (s.vf v).vfq 49 16 * 65536

/-- A VF's task records are written to its ring. -/
def State.ringStore (s : State) (v : Nat) : State :=
  ((s.taskRecords v).take 256).zipIdx.foldl (fun s q => s.setBytes (s.ringBase v + 256 * q.2) (q.1.record 0)) s

/-- A VF's ring is loaded: each launch that has teams to place takes the block that its record holds. -/
def State.ringLoad (s : State) (v : Nat) : State :=
  (List.range 256).foldl (fun s i =>
    let b := s.bytes (s.ringBase v + 256 * i) 256
    s.modLaunch (fieldAt b 0x64 4) (fun l => if l.vf = v ∧ l.state = .accepted ∧ l.next < l.count then { l with lpb := recordBlock b } else l)) s

/-- Acceptance: residency, the launch's space and teams, and a run of the arbiter on each die (R295). The record of
a VF that is not scheduled goes to its ring (R385). -/
def State.acceptLaunch (s : State) (l : Launch) (entry : Word) (gs : List (List Nat)) : State :=
  let sp := l.fld 0x60 2
  let l := { l with
    state := .accepted, entry := entry, groups := gs,
    count := if l.batch.isSome then l.count else l.fld 0x04 4,
    doms := BitVec.ofNat 16 (if sp = 0 then (l.doms.headD 0).toNat else sp) :: l.doms.tail,
    ocstep := l.fld 0x10 2, ocwt := l.fld 0x12 2 }
  let s := (s.putLaunch l).addRes l.part (l.fld 0x00 2 % 4096) 1
  (if bit (s.vf l.vf).vfq 1 then s else s.ringStore l.vf).soon [{ step := .arbiterRun, a := 0 }, { step := .arbiterRun, a := 1 }]

/-- The checks of a block that has been read: module, fields, completion record, group table, resources. -/
def State.checkLaunch (s : State) (l : Launch) : State :=
  let n := if l.batch.isSome then l.count else l.fld 0x04 4
  let deps := (List.range 4).map l.dep
  let depBad := deps.any (fun h => h != 0 && !s.launches.any (fun x => x.handle == h && x.part == l.part && x.live))
  match s.entryOf l.part (l.fld 0x00 2 % 4096) (l.fld 0x02 2) with
  | none => s.refuse l 1
  | some entry =>
    if l.badBlock || (l.batch.isSome && l.badImplicit) || depBad || decide (l.crec % 16 ≠ 0) then s.refuse l 2
    else
      let rec_ := if l.crec = 0 then Got.ok (0, false) s else s.unitAt l.unit (l.acc l.space.toNat) (BitVec.ofNat 64 l.crec) 1
      match rec_ with
      | .wait s => s
      | .bad _ => s.refuse l 2
      | .ok _ s =>
        match s.groupTable l n with
        | .wait s => s
        | .bad _ => s.refuse l 3
        | .ok none s => s.refuse l 3
        | .ok (some gs) s => if s.neverPlaced l then s.refuse l 4 else s.acceptLaunch l entry gs

/-- LAUNCH_VALIDATION (R65): handle. A read held behind a stage-2 fault, or a VF being
saved (R349), leaves the launch queued. The block of a draw
batch was read by the raster (R354). -/
def execLaunchValidation (s : State) : Host.Outcome State Fault Refusal :=
  .next (match s.launch s.ev.a with
    | none => s
    | some l =>
      if l.state ≠ .queued ∨ (s.vf l.vf).saving = true then s
      else if l.batch.isSome then s.checkLaunch l
      else match s.unitRead l.unit (17 + 2 * l.vf) (l.acc l.space.toNat) l.addr 256 with
        | .wait s => s
        | .bad _ => s.refuse l 2
        | .ok b s => s.checkLaunch { l with lpb := b })

/-! ### Completion (R65) -/

/-- Core and slot of a warp of a resident team, or of a service core's thread. -/
def State.warpAt (s : State) (w : Nat × Nat × Nat) : Option (Nat × Nat) :=
  if w.1 = 0 then some (w.2.1, 0)
  else match s.team w.1 w.2.1 with
    | some t => (t.slots[w.2.2]?).map (fun sl => (t.core, sl))
    | none => none

/-- The join of an operation that ends for a warp: the clean part of its core's L1 is dropped, then the flag is counted
down (R269). For a warp whose team is out the join is noted for its restore; nothing is done for one that has ended. -/
def State.join (s : State) (w : Nat × Nat × Nat) (sig : Nat) : State :=
  match s.warpAt w with
  | none => s.modTeam w.1 w.2.1 (fun t => { t with joined := t.slots.isEmpty })
  | some (core, slot) =>
    let x := s.warp core slot
    (s.modCore core (fun k => k.dropClean (fun _ => true))).flagDec core slot x.handle x.team sig

/-- Every instruction cache drops the tags of a module (R29). -/
def State.dropTags (s : State) (p m : Nat) (pick : Nat → Bool) : State :=
  let keep := fun (e : Nat × Nat × Block) => !(e.1 == m + 4096 * p && pick e.2.1)
  { s with cores := smapv {} (fun k => { k with l1i := k.l1i.filter keep }) s.cores,
           pairs := smapv {} (fun k => { k with l2i := k.l2i.filter keep }) s.pairs,
           dies := smapv {} (fun k => { k with l3i := k.l3i.filter keep }) s.dies }

/-- RES of a module falls by one; a releasing module that nothing holds leaves every instruction cache (R29, R30). -/
def State.dropRes (s : State) (p m : Nat) : State :=
  let s := s.addRes p m (-1)
  let e := s.modEntry p m
  if e.state = 3 ∧ e.res = 0 then (s.dropTags p m (fun _ => true)).soon [{ step := .moduleReleaseComplete, a := p, b := m }] else s

/-- The group counters of a launch go, with their overflow records (R82). -/
def State.dropGroups (s : State) (h : Nat) : State :=
  let recs := [0, 1].flatMap (fun d => ((s.die d).groups.filter (fun c => c.handle == h)).filterMap (fun c => c.rec_))
  let s := recs.foldl (fun s a => s.setBytes a (List.replicate 64 0)) s
  { s with dies := smapv {} (fun d => { d with groups := d.groups.filter (fun c => c.handle != h) }) s.dies }

/-- The R65 status of a launch that is due to complete: refused, or with every team gone. A team that was suspended after a nested fault, saved,
restored and then retired gives 0; the model keeps 5 for a launch of which a team was killed (log 63). -/
def Launch.due (l : Launch) : Option Nat :=
  match l.state with
  | .refused st => some st
  | .accepted => if l.retired = l.count then some (if l.killed then 5 else 0) else none
  | _ => none

/-- The completion record. -/
def State.recordOf (s : State) (l : Launch) (status : Nat) : List Byte := wordsBytes [l.handle + status * 2 ^ 32, s.ns]

/-- The event of a failed record write. -/
def State.recordFault (s : State) (l : Launch) (cause : Nat) : State :=
  s.postEvent l.part [l.handle, 0x22 + cause * 256, l.crec, 0, 0, 0, 0, 2 ^ 63]

/-- The STATUS of a batch takes the end of its implicit launch (R365): a refused block draws nothing, whatever setup met;
otherwise the first status stands. -/
def Batch.ends (b : Batch) (status : Nat) : Batch :=
  { b with ended := true,
           status := if status = 0 ∨ status = 5 ∧ b.status % 256 ≠ 0 then b.status else if status = 5 then 5 else 2 + status * 256 }

/-- The batch of an implicit launch learns its end. -/
def State.batchEnded (s : State) (q : Nat × Nat) (h status : Nat) : State :=
  let mine := fun (b : Batch) => b.home == q.1 && b.num == q.2 && b.launch == some h
  { s with dies := smapv {} (fun d => { d with batches := modWhere mine (fun b => b.ends status) d.batches }) s.dies }

/-- What follows the record: flag, residency, counters, arbiter; the batch of an implicit launch learns its end. -/
def State.endLaunch (s : State) (l : Launch) (status : Nat) : State :=
  let accepted := l.state == .accepted
  let s := match l.launcher with | some w => (if l.csig ≤ 11 then s.join w l.csig else s) | none => s
  let s := if accepted then s.dropRes l.part (l.fld 0x00 2 % 4096) else s
  let s := match l.batch with | some q => s.batchEnded q l.handle status | none => s
  let s := { (s.dropGroups l.handle) with launches := s.launches.filter (fun x => x.handle != l.handle), foots := s.foots.filter (fun f => f.handle != l.handle) }
  if accepted then s.soon [{ step := .arbiterRun, a := 0 }, { step := .arbiterRun, a := 1 }] else s

/-- LAUNCH_COMPLETION (R65): handle. -/
def execLaunchCompletion (s : State) : Host.Outcome State Fault Refusal :=
  .next (match s.launch s.ev.a with
    | none => s
    | some l => match l.due with
      | none => s
      | some st =>
        if l.crec = 0 ∨ l.crec % 16 ≠ 0 then s.endLaunch l st
        else match s.unitWrite l.unit (l.acc l.space.toNat) (BitVec.ofNat 64 l.crec) (s.recordOf l st) with
          | .ok _ s => s.endLaunch l st
          | .wait s => s
          | .bad cause => (s.recordFault l cause).endLaunch l st)

end Sys2Proof.Machine
end

