-- ==== Sys2Proof/Machine/Place.lean ====
section
/-!
DEFINITION. Teams on cores (R60, R61, R63, R66, R68, R69, R76, R82, R178, R195, R202, R343, R358): cluster queues and
placement, the start of a team, balancing, retirement, and the tile queries of a launch.
-/

namespace Sys2Proof.Machine

open Sys2Proof

/-! ### Room -/

/-- The teams resident on a core. -/
def State.teamsOn (s : State) (core : Nat) : List Team := s.teams.filter (fun t => t.core == core && !t.slots.isEmpty)
/-- Free warp slots of a core. -/
def State.freeSlots (s : State) (core : Nat) : List Nat :=
  let used := (s.teamsOn core).flatMap (fun t => t.slots)
  (List.range 32).filter (fun i => !used.contains i)
/-- Scratchpad rows of an allocation (R178). -/
def spRows (spb : Nat) : Nat := cdiv spb 2048
/-- The lowest free range of `n` rows below the reserved area, as a byte address. -/
def State.freeRows (s : State) (core n : Nat) : Option Nat :=
  let ts := s.teamsOn core
  ((List.range (505 - n)).find? (fun r => ts.all (fun t => decide (2048 * (r + n) ≤ t.base ∨ t.base + t.size ≤ 2048 * r)))).map (fun r => 2048 * r)
/-- Slots and base that a core has for a team of a launch. -/
def State.fits (s : State) (l : Launch) (core : Nat) : Option (List Nat × Nat) :=
  let sl := s.freeSlots core
  if sl.length < l.wpt then none else (s.freeRows core (spRows l.spb)).map (fun b => (sl.take l.wpt, b))

/-- R296: the distance of a requested class from a tuple of steps, weighted. -/
def tupleCost (step wt g : Nat) : Nat :=
  (List.range 4).foldl (fun n k =>
    let r := step / 16 ^ k % 16
    let q := g / 16 ^ k % 16
    n + wt / 16 ^ k % 16 * (if r < q then q - r else r - q)) 0
/-- A pool's granted tuple: matrix, vector, network, memory, lowest first. -/
def Pool.tuple (q : Pool) : Nat := q.gm + 16 * q.gv + 256 * q.gn + 4096 * q.gy
/-- The pool whose clusters may take a launch's teams on a die (R66, R295): its class's own, else the one of the partition
with the least cost. -/
def State.poolFor (s : State) (l : Launch) (d : Nat) : Option Pool :=
  let ps := (s.die d).pools.filter (fun q => q.part == l.part)
  match ps.find? (fun q => q.ocstep == l.ocstep && q.ocwt == l.ocwt) with
  | some q => some q
  | none =>
    let cost := fun (q : Pool) => tupleCost l.ocstep l.ocwt q.tuple
    match ps with
    | [] => none
    | q :: r => some (r.foldl (fun a b => if decide (cost b < cost a) || (decide (cost b = cost a) && decide (b.num < a.num)) then b else a) q)

/-- The dies that may take team `i`, in order of preference (R66, R366). -/
def Launch.dies (l : Launch) (i : Nat) : List Nat :=
  if l.split = 2 then [if i < l.count / 2 then 0 else 1]
  else if l.batch.isSome && decide (l.split = 1) then [l.die]
  else [l.die, 1 - l.die]

/-- A core can take a team of the launch now: partition, pool, slots and scratchpad, a free pair for twins, placement not
stopped for its VF (R385) and the core not kept for another launch (R342). -/
def State.canTake (s : State) (l : Launch) (core : Nat) : Bool :=
  s.coreIn l.part core && bit (s.vf l.vf).vfq 1 && !(s.vf l.vf).saving && !(l.drained.any (fun q => q.1 == core)) &&
    (match s.poolFor l (dieOf core) with | some q => q.clusters.contains (clusterOf core) | none => false) &&
    (s.fits l core).isSome &&
    (!l.twin || (decide (core % 2 = 0) && (s.fits l (core + 1)).isSome && (s.pair (core / 2)).twins.isNone))

/-- The cores of a die. -/
def coresOf (d : Nat) : List Nat := (List.range 128).map (fun i => 128 * d + i)

/-- The first core that can take team `i`, the preferred die first. -/
def State.coreFor (s : State) (l : Launch) (i : Nat) : Option Nat :=
  ((l.dies i).flatMap coresOf).find? (fun c => s.canTake l c)

/-- The machine as it will be once a queued team has started on the first core of its cluster that can take it. -/
def State.claim (s : State) (cl : Nat) (e : Nat × Nat) : State :=
  match s.launch e.1 with
  | none => s
  | some l => match ((List.range 8).map (fun i => 8 * cl + i)).find? (fun c => s.canTake l c) with
    | none => s
    | some c =>
      let take := fun (s : State) (i c : Nat) => match s.fits l c with
        | some (slots, base) => { s with teams := s.teams ++ [{ handle := l.handle, idx := i, core := c, wpt := l.wpt, slots := slots, base := base, size := 2048 * spRows l.spb, spb := l.spb, vf := l.vf, part := l.part }] }
        | none => s
      if l.twin then (take (take s e.2 c) (e.2 + 1) (c + 1)).modPair (c / 2) (fun p => { p with twins := some (l.handle, e.2) })
      else take s e.2 c

/-- The machine as it will be once every queued team that can has started. -/
def State.withQueued (s : State) : State :=
  (List.range 32).foldl (fun s cl => (sget [] (s.die (cl / 16)).clusterQ (cl % 16)).foldl (fun s e => s.claim cl e) s) s

/-- The core whose cluster team `i` is pushed to: the first that can take it besides the teams already queued (log 55). -/
def State.pushCore (s : State) (l : Launch) (i : Nat) : Option Nat := s.withQueued.coreFor l i

/-! ### Group counters (R82) -/

/-- The member teams of a group. -/
def Launch.members (l : Launch) (g : Nat) : List Nat := if g = 256 then List.range l.count else l.groups.getD g []

/-- The die on which a member is placed or to be placed; none once it has retired. -/
def State.memberDie (s : State) (l : Launch) (j : Nat) : Option Nat :=
  match s.team l.handle j with
  | some t => some (dieOf t.core)
  | none => if j < l.started then none else some ((l.dies j).headD 0)

/-- A free overflow record of a partition. -/
def State.freeRecord (s : State) (p : Nat) : Option Nat :=
  let v := (s.part p).pstov
  ((List.range (bits v 11 0)).map (fun i => bits v 49 12 * 4096 + 64 * i)).find? (fun a => !Nat.testBit (s.num a 8) 63)

/-- The counter of a group on a die, allocated where it has none; none where neither a counter nor a record is free. -/
def State.counterOn (s : State) (l : Launch) (g d : Nat) : Option State :=
  if ((s.die d).group l.handle g).isSome then some s
  else
    let rec_ := if ((s.die d).groups.filter (fun c => c.rec_.isNone)).length < 1024 then some none else (s.freeRecord l.part).map some
    rec_.map (fun r =>
      let c : GroupCtr := { handle := l.handle, group := g, home := ((s.die (1 - d)).group l.handle g).isNone,
                            memb := ((l.members g).filter (fun j => s.memberDie l j == some d)).length, rec_ := r }
      (s.modDie d (fun k => { k with groups := k.groups ++ [c] })).syncGroup d l.handle g)

/-- Add to MEMB and ARR of a group's counter. -/
def State.addMember (s : State) (h g d : Nat) (memb arr : Int) : State :=
  (s.modGroup d h g (fun c => { c with memb := ((c.memb : Int) + memb).toNat, arr := ((c.arr : Int) + arr).toNat })).syncGroup d h g

/-- Team `i`, which stands in `s.teams` on `core`, joins its groups there; one that was to be placed on die `was` leaves
that die's counters. -/
def State.joinGroups (s : State) (l : Launch) (i core was : Nat) : Option State :=
  (l.groupsOf i).foldlM (fun s g => do
    let d := dieOf core
    let had := ((s.die d).group l.handle g).isSome
    let s ← s.counterOn l g d
    if d = was then some s
    else
      let s := if had then s.addMember l.handle g d 1 0 else s
      some (s.addMember l.handle g was (-1) 0)) s

/-! ### Placing (R61, R63, R66, R178, R343) -/

/-- A context slot whose frames the partition owns with SHR = 0 (R343): the device keeps no team's context in another. -/
def State.slotOwned (s : State) (p i : Nat) : Bool :=
  let a := s.slotAt p i
  (List.range 32).all (fun k =>
    let e := s.fotOf (a + 65536 * k)
    decide (a + 65536 * (k + 1) ≤ memTop ∧ bits e 11 0 = 0xE00 + p) && !bit e 12)

/-- A free context slot of a partition. -/
def State.freeCslot (s : State) (p : Nat) : Option Nat :=
  (List.range (bits (s.part p).ctxpool 11 0)).find? (fun i => !(s.part p).slotsUsed.contains i && s.slotOwned p i)

/-- Pixel of a lane of a footprint (R357). -/
def lanePixel (ox oy l : Nat) : Nat × Nat :=
  let q := l / 4
  (ox + 2 * (q % 4) + l % 2, oy + 2 * (q / 4) + l / 2 % 2)

/-- A warp of a launch as it starts (R63), for a draw batch with its footprint (R354, R358). -/
def Launch.newWarp (l : Launch) (e : ModEntry) (foot : Option Footprint) (i widx vc rows : Nat) (rank : Int) : Warp :=
  let mask := match foot with | some f => f.mask | none => BitVec.ofNat 64 (2 ^ l.lanes - 1)
  let p : Path := { id := 0, mask := mask, module := l.fld 0x00 2 % 4096, space := BitVec.ofNat 16 e.space, cbase := e.cbase,
                    csize := e.csize, pc := l.entry }
  let w : Warp := {
    live := true, handle := l.handle, team := i, widx := widx, paths := [p], sr := srSeeded 1, holdUntil := vc + rows, rank := rank,
    units := if l.declared then l.fld 0x0B 1 else 8, decl := l.declared, measPart := true }
  let w := (List.range 16).foldl (fun w k => w.xw (16 + k) (BitVec.ofNat 64 (l.fld (0x80 + 8 * k) 8))) w
  let w := (List.range 8).foldl (fun w k => w.dw k (l.doms.getD k 0)) w
  match foot, l.batch with
  | some f, _ =>
    let w := w.xw 15 (BitVec.ofNat 64 (f.ox + f.oy * 2 ^ 16 + f.tri * 2 ^ 32))
    let w := w.vws 0 ((List.range 64).map (fun n => let q := lanePixel f.ox f.oy n; (n, BitVec.ofNat 32 (q.1 + q.2 * 2 ^ 16))))
    (w.vws 1 ((lanesOf f.mask).map (fun n => (n, sget 0 f.z n)))).pw 1 (BitVec.allOnes 64) (if f.front then BitVec.allOnes 64 else 0)
  | none, some _ => w.xw 15 (BitVec.allOnes 64)
  | none, none => w

/-- The footprint of a team. -/
def State.foot (s : State) (h i : Nat) : Option Footprint := s.foots.find? (fun f => f.handle == h && f.team == i)

/-- Seat team `i` of a launch on a core: slots, scratchpad zeroed, context slot, group counters, warps. -/
def State.seat (s : State) (l : Launch) (i core : Nat) (half : Option Nat) : Option State := do
  let (slots, base) ← s.fits l core
  let cs ← s.freeCslot l.part
  let k := s.core core
  let rows := spRows l.spb
  let t : Team := {
    handle := l.handle, idx := i, core := core, wpt := l.wpt, slots := slots, half := half, base := base, size := 2048 * rows,
    spb := l.spb, vf := l.vf, part := l.part, startAt := k.vc + rows, cslot := cs, est := l.fld 0x18 4, estAt := s.pkg.now }
  let s := { s with teams := s.teams ++ [t] }
  let s ← s.joinGroups l i core ((l.dies i).headD 0)
  let e := s.modEntry l.part (l.fld 0x00 2 % 4096)
  let foot := s.foot l.handle i
  let k := slots.zipIdx.foldl (fun (k : Core) q => k.setWarp q.1 (l.newWarp e foot i q.2 k.vc rows (k.rankTop + (q.2 : Nat)))) k
  let inT := fun (a : Nat) => decide (a < base ∨ base + 2048 * rows ≤ a)
  let k := { k with rankTop := k.rankTop + (l.wpt : Nat), spad := sfilter inT k.spad,
                    spoison := sfilter (fun w => inT (8 * w)) k.spoison,
                    ssingle := sfilter (fun w => inT (8 * w)) k.ssingle, at_ := max k.at_ s.pkg.now }
  some ((s.setCore core k).modPart l.part (fun p => { p with slotsUsed := cs :: p.slotsUsed }))

/-- A pair receives the twins of a launch: tiles zero, every token held by warp 0 of the leader (R201, R202). -/
def State.seatPair (s : State) (h i core : Nat) : State :=
  s.modPair (core / 2) (fun p => { p with
    twins := some (h, i), tiles := [], tpoison := [], q0 := [], run := none, fin := [], buffer := none, late := false, loamAt := none, waiters := [], order := [], mcAt := s.pkg.now,
    tokens := (List.range 8).foldl (fun m n => sput .free m n (.held 0 0)) [] })

/-- Place the next team, or twins, of a launch on a core: none where something it needs is not free. -/
def State.placeOn (s : State) (l : Launch) (core : Nat) : Option State :=
  if l.twin then do
    let s ← s.seat l l.started core (some 0)
    let s ← s.seat l (l.started + 1) (core + 1) (some 1)
    some ((s.seatPair l.handle l.started core).modLaunch l.handle (fun x => { x with started := x.started + 2, waitSince := none }))
  else do
    let s ← s.seat l l.started core none
    some (s.modLaunch l.handle (fun x => { x with started := x.started + 1, waitSince := none }))

/-! ### Order (R66, R86, R192, R346) -/

/-- The core that a checkpointed team, or the leader of twins, may be placed on again now (R346). -/
def State.restoreCore (s : State) (t : Team) : Option Nat :=
  if t.state != .checkpointed || !t.placeable || t.half == some 1 then none
  else (s.launch t.handle).bind (fun l => ((l.dies t.idx).flatMap coresOf).find? (fun c => s.canTake l c))

/-- A checkpointed team can be placed again. -/
def State.restorable (s : State) (p : Nat) : Bool := s.teams.any (fun t => t.part == p && (s.restoreCore t).isSome)

/-- The groups on which a team waits. -/
def State.waitsOn (s : State) (t : Team) : List Nat :=
  let ws : List (Nat × Warp) := match t.saved with | some v => v.warps | none => s.liveWarps t
  ws.filterMap (fun q => q.2.grp)

/-- R86: what a blocked team waits for comes first: a launch it depends on, then the next member of a group it waits on. -/
def State.needRank (s : State) (l : Launch) : Nat :=
  let bs := s.teams.filter (fun t => t.eligible && t.part == l.part)
  if bs.any (fun t => match s.launch t.handle with | some x => (List.range 4).any (fun i => x.dep i == l.handle && l.handle != 0) | none => false) then 0
  else if bs.any (fun t => t.handle == l.handle && (s.waitsOn t).any (fun g => l.member g l.next)) then 1
  else 2

/-- A command that still writes a Loam region which the launch names (R192). -/
def State.loamBusy (s : State) (l : Launch) : Bool :=
  s.cores.any (fun q => q.2.cmds.any (fun c => c.eng == 1 && c.started && !c.abnd && c.stage != .done &&
    c.loamDests.any (fun a => Nat.testBit (l.fld (0x30 + 8 * loamDie a) 8) (loamRegion a))))

/-- A launch's next team may enter a cluster queue now. -/
def State.pushable (s : State) (l : Launch) : Bool :=
  l.state == .accepted && decide (l.next < l.count) && (decide (0 < l.next) || !s.loamBusy l) && (s.pushCore l l.next).isSome &&
    !s.restorable l.part

/-- The launch that a die's distributor takes next. -/
def State.nextLaunch (s : State) (d : Nat) : Option Launch :=
  let key := fun (l : Launch) => s.needRank l * 4 + (3 - l.prio)
  match (s.launchQueue d).filter s.pushable with
  | [] => none
  | l :: r => some (r.foldl (fun a b => if key b < key a then b else a) l)

/-- The first entry of a cluster's queue that one of its cores can take, with that core; one that finds no context slot or
group counter (R82) does not block those behind it. -/
def State.nextEntry (s : State) (cl : Nat) : Option (Nat × Nat) :=
  (sget [] (s.die (cl / 16)).clusterQ (cl % 16)).findSome? (fun e => match s.launch e.1 with
    | some l =>
      if e.2 ≠ l.started then none
      else (((List.range 8).map (fun i => 8 * cl + i)).find? (fun c => s.canTake l c && (s.placeOn l c).isSome)).map (fun c => (e.1, c))
    | none => none)

/-- An entry that its cluster has no room for while a core of another cluster has: it goes to that cluster's queue (log 55). -/
def State.stuckEntry (s : State) (cl : Nat) : Option (Nat × Nat) :=
  (sget [] (s.die (cl / 16)).clusterQ (cl % 16)).findSome? (fun e => match s.launch e.1 with
    | some l =>
      if e.2 ≠ l.started ∨ (List.range 8).any (fun i => s.canTake l (8 * cl + i)) then none
      else (s.pushCore l e.2).bind (fun c => if clusterOf c = cl then none else some (e.1, c))
    | none => none)

def State.modQueue (s : State) (cl : Nat) (f : List (Nat × Nat) → List (Nat × Nat)) : State :=
  s.modDie (cl / 16) (fun d => { d with clusterQ := smod [] d.clusterQ (cl % 16) f })

/-- TEAM_PLACEMENT (R66): handle, core. With `c` = 1 the next team of the launch enters the queue of the core's cluster;
with `c` = 0 the entry that the cluster may take next is placed on the core; with `c` = 2 an entry that its cluster has no room
for goes to the queue of the core's cluster. -/
def execTeamPlacement (s : State) : Host.Outcome State Fault Refusal :=
  let e := s.ev
  let cl := clusterOf e.b
  .next (match s.launch e.a with
    | none => s
    | some l =>
      if e.c = 1 then
        if (s.nextLaunch l.die).map (fun x => x.handle) = some l.handle ∧ s.withQueued.canTake l e.b = true ∧
            (s.pushCore l l.next).map dieOf = some (dieOf e.b) ∧ (sget [] (s.die (cl / 16)).clusterQ (cl % 16)).length < 64 then
          (s.modQueue cl (fun q => q ++ [(l.handle, l.next)])).modLaunch l.handle (fun x =>
            { x with next := x.next + (if x.twin then 2 else 1) })
        else s
      else if e.c = 2 then
        match (List.range 32).find? (fun q => s.stuckEntry q == some (l.handle, e.b)) with
        | some q => (s.modQueue q (fun x => x.filter (fun x => x != (l.handle, l.started)))).modQueue cl (fun x => x ++ [(l.handle, l.started)])
        | none => s
      else
        match s.nextEntry cl with
        | some (h, core) =>
          if h = e.a ∧ s.canTake l e.b = true ∧ clusterOf core = cl then
            match s.placeOn l e.b with
            | some s =>
              let s := s.modQueue cl (fun q => q.filter (fun x => x != (l.handle, l.started)))
              { s with launches := s.launches.map (fun x => { x with drained := x.drained.filter (fun q => q.2 != l.handle) }) }
            | none => s
          else s
        | none => s)

/-- TEAM_START (R63, R178): handle, team. The allocation is zeroed; the first warp may issue. -/
def execTeamStart (s : State) : Host.Outcome State Fault Refusal :=
  .next (match s.team s.ev.a s.ev.b with
    | some t =>
      if t.state = .placed ∧ t.startAt ≤ (s.core t.core).vc then s.modTeam t.handle t.idx (fun t => { t with state := .running })
      else s
    | none => s)

/-! ### Balancing (R68) -/

/-- Where a queue's surplus goes: a neighbour's number and how many entries. -/
def State.surplus (s : State) (d c : Nat) : Option (Nat × Nat) :=
  let k := s.die d
  let dep := fun (i : Nat) => (sget [] k.clusterQ i).length
  let pool := fun (i : Nat) => (k.pools.find? (fun q => q.clusters.contains (16 * d + i))).map (fun q => q.num)
  let ok := fun (i : Nat) => (pool i).isSome && pool i == pool c && decide (dep i + k.wdthr < dep c)
  match [(c + 15) % 16, (c + 1) % 16].filter ok with
  | [] => none
  | [a] => some (a, (dep c - dep a) / 2)
  | a :: b :: _ =>
    let t := if decide (dep a < dep b) || (decide (dep a = dep b) && decide (a < b)) then a else b
    some (t, (dep c - dep t) / 2)

/-- NEIGHBOUR_BALANCING (R68): die; every 4,096 nc, all queues by the depths that they exchanged. -/
def execNeighbourBalancing (s : State) : Host.Outcome State Fault Refusal :=
  let d := s.ev.a
  let k := s.die d
  .next (if s.pkg.now < k.balAt then s
    else
      let moves := if k.wdthr = 0 then [] else (List.range 16).filterMap (fun c => (s.surplus d c).map (fun m => (c, m.1, m.2)))
      let q0 := fun (i : Nat) => sget [] k.clusterQ i
      let out := fun (q : SMap (List (Nat × Nat))) (m : Nat × Nat × Nat) => smod [] q m.1 (fun l => l.take (l.length - m.2.2))
      let in_ := fun (q : SMap (List (Nat × Nat))) (m : Nat × Nat × Nat) => smod [] q m.2.1 (fun l => l ++ (q0 m.1).drop ((q0 m.1).length - m.2.2))
      s.modDie d (fun k => { k with clusterQ := moves.foldl in_ (moves.foldl out k.clusterQ),
                                    balAt := s.pkg.now + 4096 * ncPeriod k.an }))

/-! ### Retirement (R61, R76) -/

/-- A team leaves its core: warp slots, queues and, once neither twin needs it, the pair (R76, R344). -/
def State.vacate (s : State) (t : Team) : State :=
  let mine := fun (sl : Nat) => t.slots.contains sl
  let s := s.modCore t.core (fun k => { k with
    warps := sfilter (fun sl => !mine sl) k.warps, longs := k.longs.filter (fun o => !mine o.slot),
    atomics := k.atomics.filter (fun a => !mine a.slot), cmds := k.cmds.filter (fun c => !(c.handle == t.handle && c.team == t.idx)),
    markers := k.markers.filter (fun m => !mine m.slot), pops := k.pops.filter (fun r => !mine r.slot),
    hits := k.hits.filter (fun h => !mine h.slot) })
  let s := if t.half.isSome && !(s.haltSet t).any (fun u => u.idx != t.idx && u.state == .saving) then s.modPair (t.core / 2) (fun p => { p with
      twins := none, q0 := [], run := none, fin := [], buffer := none, late := false, loamAt := none, tiles := [], tpoison := [], tokens := [], waiters := [], order := [] }) else s
  s.modCluster (clusterOf t.core) (fun k => { k with idleSince := s.pkg.now })

/-- A team is gone: its core and context slot are free, its place in its groups given up. -/
def State.removeTeam (s : State) (t : Team) : State :=
  let d := dieOf t.core
  let s := match s.launch t.handle with
    | some l => (l.groupsOf t.idx).foldl (fun (s : State) g => s.addMember l.handle g d (-1) (if t.arrived.contains g then -1 else 0)) s
    | none => s
  let s := s.vacate t
  let s := s.modPart t.part (fun p => { p with slotsUsed := p.slotsUsed.filter (fun i => i != t.cslot) })
  { s with teams := s.teams.filter (fun x => !(x.handle == t.handle && x.idx == t.idx)),
           foots := s.foots.filter (fun f => !(f.handle == t.handle && f.team == t.idx)) }

/-- The exit boundary of a team has completed: it retires, twins together. -/
def State.retired (s : State) (h i : Nat) : State :=
  match s.team h i with
  | none => s
  | some t =>
    let s := s.modTeam h i (fun t => { t with exited := true })
    let set := s.haltSet t
    if set.any (fun u => u.idx != i && !u.exited) then s
    else
      let s := set.foldl (fun s u => s.opAnswer (u.saveFor.bind (fun q => q.op)) 0) s
      (set.foldl (fun s u => s.removeTeam u) s).modLaunch h (fun l => { l with retired := l.retired + set.length })

/-- Begin the exit boundary of a team, twins together. -/
def State.startRetire (s : State) (t : Team) : State :=
  (s.haltSet t).foldl (fun s u => (s.modTeam u.handle u.idx (fun x => { x with state := .retiring })).modCore u.core
    (fun k => k.request (.retire u.handle u.idx))) s

/-- Every warp of the team has ended and it has no command under way. -/
def State.spent (s : State) (t : Team) : Bool :=
  t.state == .running && (s.liveWarps t).isEmpty && !(s.core t.core).cmds.any (fun c => c.handle == t.handle && c.team == t.idx && c.stage != .partly)

/-- TEAM_RETIREMENT (R76): handle, team. -/
def execTeamRetirement (s : State) : Host.Outcome State Fault Refusal :=
  .next (match s.team s.ev.a s.ev.b with
    | some t => if (s.haltSet t).all s.spent then s.startRetire t else s
    | none => s)

/-! ### wdq (R69) -/

/-- R69. -/
def execWdq (f : FmtA) (s : State) : Host.Outcome State Fault Refusal :=
  scalarDo s f.g [.xs f.s1 24 1] fun c s =>
    let a := c.xv f.s1
    let spb := match s.teamOf c.w with | some t => t.spb | none => 0
    if a.toNat % 8 ≠ 0 then trapS 0x05 a
    else if spb < a.toNat + 8 then trapS 0x06 a
    else if queueCap 6 ≤ (s.core c.core).queued 6 then stall .queue s
    else do
      c.journalRoom s
      let s ← c.flagInc s (sigOf f.s3)
      .ok (s.addCmd c.core (c.newCmd 3 (sigOf f.s3) (.query a.toNat)))

/-- The record of query `n` of a grid. -/
def tileRecord (gx gy n : Nat) : Nat :=
  if n < gx * gy then n % gx + n / gx * 2 ^ 16 + n * 2 ^ 32 else gx * gy * 2 ^ 32 + 0xFFFF * 2 ^ 48

/-- The query of a launch that reached the distributor first: its core and number (R69). -/
def State.firstQuery (s : State) (h : Nat) : Option (Nat × Nat) :=
  let l := s.cores.filterMap (fun q => (q.2.nextQueued 3).bind (fun c => if c.handle = h then some (c.at_, q.1, c.seq) else none))
  (l.foldl (fun (b : Option (Nat × Nat × Nat)) x => match b with
    | some y => if x.1 < y.1 then some x else b
    | none => some x) none).map (fun x => x.2)

/-- The distributor serves a query of a launch now. -/
def State.serves (s : State) (core : Nat) (c : Cmd) : Bool :=
  s.firstQuery c.handle == some (core, c.seq) && (match s.launch c.handle with | some l => decide (l.tileAt ≤ s.pkg.now) | none => false)

/-- WDQ_SERVICE (R69): core, command. The queries of a launch are served in the order of arrival, one every 4 nc; an answer takes 40 nc. -/
def execWdqService (s : State) : Host.Outcome State Fault Refusal :=
  let core := s.ev.a
  let k := s.core core
  .next (match k.cmd s.ev.b with
    | none => s
    | some c =>
      if !s.serves core c then s
      else match s.launch c.handle with
        | none => s
        | some l =>
          (s.modLaunch l.handle (fun x => { x with tileCtr := x.tileCtr + 1, tileAt := s.pkg.now + 4 * ncPeriod (s.die l.die).an })).modCmd core c.seq (fun x =>
            { x with stage := .finished, started := true, out := tileRecord l.gridX l.gridY l.tileCtr, readDone := true,
                     due := s.pkg.now + 40 * ncPeriod (s.die l.die).an }))

/-- A served query writes its record and ends. -/
def State.wdqAnswer (s : State) (core : Nat) (c : Cmd) : State :=
  match c.pay, s.team c.handle c.team with
  | .query a, some t =>
    let s := s.modCore core (fun k => k.putSp ((leBytes c.out 8).zipIdx.map (fun q => (t.base + a + q.2, q.1))))
    (s.flagDec core c.slot c.handle c.team c.sig).freeCmd core c
  | _, _ => s.freeCmd core c

/-- WDQ_ANSWER (R69): core, command. -/
def execWdqAnswer (s : State) : Host.Outcome State Fault Refusal :=
  .next (match (s.core s.ev.a).cmd s.ev.b with
    | some c => if c.eng = 3 ∧ c.stage = .finished then s.wdqAnswer s.ev.a c else s
    | none => s)

end Sys2Proof.Machine
end

