-- ==== Sys2Proof/Machine/Texture.lean ====
section
/-!
DEFINITION. Texture reads (R367 to R369): the descriptor, texel addresses, conversion and filtering.
-/

namespace Sys2Proof.Machine

open Sys2Proof

/-! ### The descriptor (R367) -/

/-- Fields of a descriptor, given as its eight words. -/
structure Tex where
  words : List Word
  deriving DecidableEq, Repr
def Tex.word (t : Tex) (i : Nat) : Word := t.words.getD i 0
def Tex.w (t : Tex) : Nat := bits (t.word 1) 15 0 + 1
def Tex.h (t : Tex) : Nat := bits (t.word 1) 31 16 + 1
def Tex.pitch (t : Tex) : Nat := bits (t.word 1) 63 32
def Tex.fmt (t : Tex) : Nat := bits (t.word 2) 1 0
def Tex.linear (t : Tex) : Bool := bit (t.word 2) 2
def Tex.dom (t : Tex) : Nat := bits (t.word 2) 7 5
/-- Bytes of a texel. -/
def Tex.size (t : Tex) : Nat := if t.fmt = 1 then 8 else 4

/-- An illegal code, a size out of range, a misplaced base or pitch, or a reserved bit (log 31). -/
def Tex.bad (t : Tex) : Bool :=
  decide (t.fmt = 3 ∨ bits (t.word 2) 63 8 ≠ 0 ∨ bits (t.word 0) 5 0 ≠ 0 ∨ t.pitch % 64 ≠ 0 ∨ 16384 < t.w ∨ 16384 < t.h) ||
    (t.words.drop 3).any (fun x => x != 0)

/-- A texel index reduced along one axis (R369). -/
def texReduce (wrap : Bool) (n : Nat) (i : Int) : Nat := (if wrap then i % n else satI i 0 (n - 1 : Int)).toNat

/-- The offset of texel (i, j), reduced. -/
def Tex.at (t : Tex) (i j : Int) : Word :=
  let x := texReduce (bit (t.word 2) 3) t.w i
  let y := texReduce (bit (t.word 2) 4) t.h j
  t.word 0 + BitVec.ofNat 64 (y * t.pitch + x * t.size)

/-! ### Coordinates (R369) -/

/-- floor(v x n - half / 2) and the floor of 256 times the fraction left, for an FP32 coordinate; not finite reads 0. -/
def texCoord (v : Lane) (n half : Nat) : Int × Nat :=
  match f32.decode v.toNat with
  | .num neg m e =>
    let e' := if e < -1 then e else -1
    let a : Int := (m * n * pw (e - e') : Nat)
    let x := (if neg then -a else a) - (half * pw (-1 - e') : Nat)
    let d : Int := (pw (-e') : Nat)
    (x / d, (x % d * 256 / d).toNat)
  | _ => (if half = 0 then 0 else -1, if half = 0 then 0 else 128)

/-- The texels that a lane reads, and its two fractions. -/
def Tex.taps (t : Tex) (fetch : Bool) (u v : Lane) : List Word × Nat × Nat :=
  if fetch then ([t.at u.toInt v.toInt], 0, 0)
  else if t.linear then
    let (i, fx) := texCoord u t.w 1
    let (j, fy) := texCoord v t.h 1
    ([t.at i j, t.at (i + 1) j, t.at i (j + 1), t.at (i + 1) (j + 1)], fx, fy)
  else ([t.at (texCoord u t.w 0).1 (texCoord v t.h 0).1], 0, 0)

/-! ### Values (R367, R369) -/

/-- RNE into FP32, flags dropped. -/
def rne32 (x : Ex) : Lane := BitVec.ofNat 32 (f32.rnd { mode := 0 } x 0).1

/-- k / 255 rounded with RNE. -/
def unorm8 (k : Nat) : Lane := if k = 0 then 0 else rne32 (.mag false (.quo k 255 0))

/-- An FP16 value widened exactly. -/
def widen16 (b : Nat) : Lane :=
  match f16.decode b with
  | .nan _ => BitVec.ofNat 32 f32.nan
  | .inf n => BitVec.ofNat 32 (f32.inf n)
  | .num n m e => rne32 (Fin2.ex ⟨n, m, e⟩)

/-- An FP32 value with its NaN canonical. -/
def canon32 (b : Nat) : Lane := if (f32.decode b).isNan then BitVec.ofNat 32 f32.nan else BitVec.ofNat 32 b

/-- The colour of a texel's bytes. -/
def texel (fmt : Nat) (b : List Byte) : List Lane :=
  match fmt with
  | 0 => (List.range 4).map (fun c => unorm8 (fieldAt b c 1))
  | 1 => (List.range 4).map (fun c => widen16 (fieldAt b (2 * c) 2))
  | _ => [canon32 (fieldAt b 0 4), 0, 0, 0x3F800000]

/-- The bilinear sum of four channel values, rounded once. -/
def bilinear (fx fy : Nat) (c : List Lane) : Lane :=
  let ws := [(256 - fx) * (256 - fy), fx * (256 - fy), (256 - fx) * fy, fx * fy]
  let vs := c.map (fun x => f32.decode x.toNat)
  if vs.any Fv.isNan then BitVec.ofNat 32 f32.nan
  else rne32 (sumTerms false ((ws.zip vs).map (fun q => mulTerm (.num false q.1 (-16)) q.2)))

/-- The four channels of a lane from the texels it read. -/
def texColour (t : Tex) (fr : Nat × Nat) (taps : List (List Byte)) : List Lane :=
  match taps with
  | [b] => texel t.fmt b
  | l =>
    let cs := l.map (texel t.fmt)
    let one := fun (k : Nat) => bilinear fr.1 fr.2 (cs.map (fun c => c.getD k 0))
    if cs.any (fun c => c.any (fun x => (f32.decode x.toNat).isNan)) then List.replicate 4 (BitVec.ofNat 32 f32.nan)
    else (List.range 4).map one

/-- The writes of a texture read: the lanes of `m` in the four registers. -/
def texWrites (d : Dest) (t : Tex) (m : Mask) (taps : List LaneLoad) (frac : List (Nat × Nat × Nat)) : List Write :=
  let col := (frac.filter (fun q => m.getLsbD q.1)).map (fun q =>
    (q.1, texColour t q.2 ((taps.filter (fun x => x.lane == q.1)).map (fun x => x.got.map (fun b => b.getD 0)))))
  match d with
  | .v regs => regs.zipIdx.map (fun r => .v r.1 (col.map (fun q => (q.1, q.2.getD r.2 0))))
  | _ => []

/-! ### The instructions (R368) -/

/-- The descriptor at a team-relative address, or the checks' trap. -/
def Ctx.descriptor (c : Ctx) (s : State) (m : Mask) (a : Word) : Try Tex :=
  if a.toNat % 64 ≠ 0 then trapV 0x05 a m
  else match s.teamOf c.w with
    | none => trapV 0x06 a m
    | some t =>
      if t.spb < a.toNat + 64 then trapV 0x06 a m
      else
        let k := s.core c.core
        match k.spBad (t.base + a.toNat) 64 with
        | some w => trapV 0x14 (spInfo (8 * w - t.base)) m
        | none =>
          let b := k.sp (t.base + a.toNat) 64
          let x : Tex := { words := (List.range 8).map (fun i => BitVec.ofNat 64 (fieldAt b (8 * i) 8)) }
          if x.bad then trapV 0x09 (x.word 2) m else .ok x

/-- The first fault of each lane. -/
def firstFaults (l : List LaneFault) : List LaneFault :=
  l.foldl (fun r q => if r.any (fun x => x.lane == q.lane) then r else r ++ [q]) []

/-- Issue the texel reads of some lanes through the L1. -/
def State.issueTex (s : State) (c : Ctx) (t : Tex) (dest : Dest) (m : Mask) (l : List LaneAt) (frac : List (Nat × Nat × Nat)) : Try State :=
  if !s.flefinRoom (l.map (fun q => (q.pa, t.size))) then stall .mem s
  else
    let ll := l.map ((s.core c.core).laneLoad t.size false)
    let lines := dedup ((ll.filter (fun q => !isWindow q.pa)).map (fun q => lineOf q.pa))
    let s := s.l1Access c.core c.slot (lines.map (fun n => (n, ll.any (fun q => lineOf q.pa == n && q.got.any (fun b => b.isNone)))))
    let id := (s.core c.core).nextId
    let s := s.startLong c dest m (.tex t.words ll (frac.filter (fun q => m.getLsbD q.1))) (c.w.dr t.dom).toNat
    .ok (s.sendReads c.core c.slot id t.size ll)

/-- `tsample` and `tfetch`. -/
def texOp (s : State) (f : FmtA) (fetch : Bool) : Host.Outcome State Fault Refusal :=
  s.run fun c => do
    let again := match c.p.replay with
      | some (pc, m, d) => if pc = c.p.pc then some (m, d) else none
      | none => none
    let g := c.guard f.g
    let c := match again with | some (_, d) => { c with w := c.w.full d } | none => c
    let m := match again with | some (m, _) => m | none => g
    let s ← c.begin s (some g) ([.vs f.s1 24 2 3, .xs f.s2 16 1] ++ (if again.isSome then [] else [.vd f.d 4]))
    if m = 0 then .ok (s.advance c)
    else do
      let t ← c.descriptor s g (c.xv f.s2)
      c.noBoundary s
      let lane := fun (l : Nat) => t.taps fetch (c.vv f.s1 l) (c.vv (f.s1 + 1) l)
      let es := (lanesOf m).flatMap (fun l => (lane l).1.map (fun a => (l, a)))
      let frac := (lanesOf m).map (fun l => (l, (lane l).2))
      let (r, s) ← c.located s t.dom 0 es
      let bad := firstFaults r.bad
      let ok := m &&& ~~~(faultLanes bad)
      let d : Dest := .v ((List.range 4).map (fun i => c.phys (opIdx f.d + i)))
      let good := r.ok.filter (fun q => ok.getLsbD q.lane)
      if bad.isEmpty then do
        let s ← s.issueTex c t d ok good frac
        .ok ((s.modCur c (fun p => { p with replay := none })).advance c)
      else if ok = 0 ∨ c.w.skidUntil.isSome ∨ c.p.handler then trapAt bad
      else do
        let s ← s.issueTex c t d ok good frac
        let s := s.modCur c (fun p => { p with replay := some (p.pc, faultLanes bad, d) })
        .ok (s.takeTrap c (faultCause bad) (faultInfo bad) (some (faultLanes bad)) (faultRecord bad))

/-- R368, R369: filtered texture read. -/
def execTsample (f : FmtA) (s : State) : Host.Outcome State Fault Refusal := texOp s f false

/-- R368, R369: texel read. -/
def execTfetch (f : FmtA) (s : State) : Host.Outcome State Fault Refusal := texOp s f true

end Sys2Proof.Machine
end

