-- ==== Sys2Proof/Machine/Raster.lean ====
section
/-!
DEFINITION. The raster front end (R352 to R360, R365, R366): draw batches, setup, footprints, and `attr`.
-/

namespace Sys2Proof.Machine

open Sys2Proof

/-! ### The draw record (R353) -/

/-- A field of `n` bytes of the batch's record. -/
def Batch.fld (b : Batch) (off n : Nat) : Nat := fieldAt b.record off n
/-- Bits of the word at 0x20. -/
def Batch.opt (b : Batch) (lo n : Nat) : Nat := b.fld 0x20 8 / 2 ^ lo % 2 ^ n
def Batch.nattr (b : Batch) : Nat := b.opt 0 5
def Batch.zfunc (b : Batch) : Nat := b.opt 8 3
def Batch.zwrite (b : Batch) : Bool := decide (b.opt 11 1 = 1)
def Batch.early (b : Batch) : Bool := decide (b.opt 12 1 = 1)
def Batch.blend (b : Batch) : Nat := b.opt 13 2
def Batch.wide (b : Batch) : Bool := decide (b.opt 18 1 = 1)
def Batch.zen (b : Batch) : Bool := decide (b.opt 19 1 = 1)
/-- The offset of a pixel's colour and of its depth. -/
def Batch.colourAt (b : Batch) (x y : Nat) : Word :=
  BitVec.ofNat 64 (b.fld 0x28 8 + y * b.fld 0x30 4 + x * (if b.wide then 8 else 4))
def Batch.depthAt (b : Batch) (x y : Nat) : Word := BitVec.ofNat 64 (b.fld 0x38 8 + y * b.fld 0x34 4 + 4 * x)

/-- A reserved bit, an illegal code or a range breached. -/
def Batch.badRecord (b : Batch) : Bool :=
  let n := b.fld 0x14 4
  let w := b.fld 0x40 2
  let h := b.fld 0x42 2
  decide (n = 0 ∨ 2 ^ 24 < n ∨ 16 < b.nattr ∨ b.opt 5 3 ≠ 0 ∨ b.opt 20 44 ≠ 0 ∨ b.blend = 3 ∨ b.opt 15 2 = 3 ∨ b.fld 0x28 8 % 64 ≠ 0 ∨
    b.fld 0x30 4 % 64 ≠ 0 ∨ b.fld 0x34 4 % 64 ≠ 0 ∨ b.fld 0x38 8 % 64 ≠ 0 ∨ w = 0 ∨ 16384 < w ∨ h = 0 ∨ 16384 < h ∨ b.fld 0x44 4 ≠ 0) ||
  (b.early && decide (b.zfunc = 0 ∨ 5 ≤ b.zfunc)) || (!b.zen && (b.zwrite || b.early || decide (b.zfunc ≠ 0))) ||
  ((b.record.drop 0x58).any (fun x => x != 0))

/-- The batch's accesses are those of its issuer's VF, in the record's space. -/
def Batch.acc (b : Batch) : Acc :=
  { part := b.part, vf := b.vf, space := b.space, level := b.level, id := ⟨some b.vf, some b.part, b.level⟩ }

def State.modBatch (s : State) (die home num : Nat) (f : Batch → Batch) : State :=
  s.modDie die (fun d => { d with batches := modWhere (fun b => b.home == home && b.num == num) f d.batches })

/-! ### rdraw (R365) -/

/-- Batches that a die's raster has not accepted. -/
def Die.drawQueue (d : Die) : List Batch := d.batches.filter (fun b => !b.accepted)

/-- R365: the fork release, the flag, and the push. -/
def execRdraw (f : FmtA) (s : State) : Host.Outcome State Fault Refusal :=
  s.run fun c => do
    let s ← c.begin s none [.xs f.s1 24 1]
    if !c.on f.g then .ok (s.advance c)
    else do
      let a := c.xv f.s1
      let d := dieOf c.core
      if a.toNat % 64 ≠ 0 then trapS 0x05 a
      else if 64 ≤ (s.die d).drawQueue.length then stall .queue s
      else do
        let s ← c.flagInc s (sigOf f.s3)
        let s := (s.writeBack c.core (fun _ => true)).2
        let q := c.acc s f.md.toNat
        let b : Batch := { home := d, num := (s.die d).nextBatch, core := c.core, handle := c.w.handle, team := c.w.team, widx := c.w.widx,
                           sig := sigOf f.s3, vf := q.vf, part := q.part, space := q.space, level := q.level, off := a,
                           wbs := (s.core c.core).wbIds }
        .ok ((s.modDie d (fun k => { k with batches := k.batches ++ [b], nextBatch := (k.nextBatch + 1) % 2 ^ 32 })).advance c)

/-! ### Setup (R355 to R359) -/

/-- A vertex as read: x, y, z, q and its attributes. -/
structure Vertex where
  x : Lane
  y : Lane
  z : Lane
  q : Lane
  attrs : List Lane
  deriving DecidableEq, Repr

/-- The lanes that consecutive bytes hold. -/
def lanesFrom (b : List Byte) (n : Nat) : List Lane := (List.range n).map (fun i => BitVec.ofNat 32 (fieldAt b (4 * i) 4))

/-- Read the vertex at an index position. -/
def State.vertex (s : State) (b : Batch) (pos : Nat) : Got Vertex :=
  let read := fun (s : State) (a n : Nat) => s.unitRead b.core 1 b.acc (BitVec.ofNat 64 a) n
  let idx : Got Nat := if b.fld 0x08 8 = 0 then .ok pos s
    else (read s (b.fld 0x08 8 + 4 * pos) 4).bind fun r s => .ok (ofBytes r) s
  idx.bind fun i s =>
    (read s (b.fld 0x00 8 + 16 * i) 16).bind fun r s =>
      let n := b.nattr
      (if n = 0 then Got.ok [] s else read s (b.fld 0x18 8 + 4 * n * i) (4 * n)).bind fun at_ s =>
        match lanesFrom r 4 with
        | [x, y, z, q] => .ok { x := x, y := y, z := z, q := q, attrs := lanesFrom at_ n } s
        | _ => .ok { x := 0, y := 0, z := 0, q := 0, attrs := [] } s

/-- A coordinate in units of 1/256 pixel (R355); none where it is not finite or too large. -/
def snap (v : Lane) : Option Int :=
  match f32.decode v.toNat with
  | .num neg m e =>
    if m = 0 then some 0
    else if 22 ≤ (Mag.dy m e).log2 then none else some (rndInt 0 neg (.dy m (e + 8)) 0).1
  | _ => none

/-- Not infinite and not a NaN. -/
def finite32 (v : Lane) : Bool := match f32.decode v.toNat with | .num .. => true | _ => false

/-- q is finite and positive. -/
def qOk (v : Lane) : Bool := match f32.decode v.toNat with | .num neg m _ => !neg && m != 0 | _ => false

/-- A triangle after R355: snapped vertices, area, facing, and the vertices, in drawing order. -/
structure Tri where
  xs : List Int
  ys : List Int
  area : Int
  front : Bool
  vs : List Vertex
  deriving DecidableEq, Repr

/-- R355 steps 1 to 5; none where the triangle is dropped. -/
def triOf (b : Batch) (l : List Vertex) : Option Tri :=
  match l with
  | [p, q, r] => do
    let x0 ← snap p.x; let y0 ← snap p.y; let x1 ← snap q.x; let y1 ← snap q.y; let x2 ← snap r.x; let y2 ← snap r.y
    if !(qOk p.q && qOk q.q && qOk r.q && finite32 p.z && finite32 q.z && finite32 r.z) then none
    else
      let a := (x1 - x0) * (y2 - y0) - (y1 - y0) * (x2 - x0)
      let front := if b.opt 17 1 = 0 then decide (0 < a) else decide (a < 0)
      if a = 0 ∨ (b.opt 15 2 = 1 ∧ front = false) ∨ (b.opt 15 2 = 2 ∧ front = true) then none
      else if a < 0 then some { xs := [x0, x2, x1], ys := [y0, y2, y1], area := -a, front := front, vs := [p, r, q] }
      else some { xs := [x0, x1, x2], ys := [y0, y1, y2], area := a, front := front, vs := [p, q, r] }
  | _ => none

/-- E_i at a pixel's sample point (R356), from the three snapped vertices. -/
def edges (xs ys : List Int) (px py : Nat) : List Int :=
  (List.range 3).map (fun i =>
    let x := fun (k : Nat) => xs.getD (k % 3) 0
    let y := fun (k : Nat) => ys.getD (k % 3) 0
    (x (i + 1) - x i) * ((256 * py + 128 : Nat) - y i) - (y (i + 1) - y i) * ((256 * px + 128 : Nat) - x i))

/-- The pixel is covered (R356). -/
def covered (xs ys : List Int) (px py : Nat) : Bool :=
  (edges xs ys px py).zipIdx.all (fun e =>
    let dx := xs.getD ((e.2 + 1) % 3) 0 - xs.getD e.2 0
    let dy := ys.getD ((e.2 + 1) % 3) 0 - ys.getD e.2 0
    decide (0 < e.1) || (decide (e.1 = 0) && (decide (0 < dy) || (decide (dy = 0) && decide (dx < 0)))))

/-- The quotient of two exact sums rounded once to FP32 (R360). -/
def ratio32 (a b : Fin2) : Lane :=
  rne32 (if a.m = 0 then .zero a.neg else .mag (a.neg != b.neg) (.quo a.m b.m (a.e - b.e)))

/-- λ0, λ1, λ2 times A (R360). -/
def lambdas (xs ys : List Int) (px py : Nat) : List Int :=
  match edges xs ys px py with | [a, b, c] => [b, c, a] | _ => []

/-- A sum of products in the numbers extended by the infinities and NaN. -/
inductive Ext where
  | nan
  | inf (neg : Bool)
  | fin (x : Fin2)
  deriving DecidableEq, Repr

/-- A product of an integer and FP32 values: a NaN in it, or zero times an infinity, makes a NaN. -/
def extProd (k : Int) (l : List Lane) : Ext :=
  let v := l.map (fun x => f32.decode x.toNat)
  let zero := decide (k = 0) || v.any (fun x => match x with | .num _ m _ => m == 0 | _ => false)
  let neg := v.foldl (fun n x => match x with | .num a _ _ | .inf a => n != a | .nan _ => n) (decide (k < 0))
  if v.any Fv.isNan then .nan
  else if v.any (fun x => match x with | .inf _ => true | _ => false) then (if zero then .nan else .inf neg)
  else .fin (v.foldl (fun p x => match x with | .num n m e => Fin2.mul p ⟨n, m, e⟩ | _ => p) ⟨decide (k < 0), k.natAbs, 0⟩)

def Ext.add (a b : Ext) : Ext :=
  match a, b with
  | .nan, _ | _, .nan => .nan
  | .inf x, .inf y => if x = y then .inf x else .nan
  | .inf x, _ | _, .inf x => .inf x
  | .fin x, .fin y => .fin (Fin2.add false x y)

def extSum (l : List Ext) : Ext := l.foldl Ext.add (.fin ⟨false, 0, 0⟩)

/-- The quotient of two sums rounded once to FP32: a NaN is canonical, an infinity stays (R128, R137); none for a quotient by zero. -/
def extRatio (a b : Ext) : Option Lane :=
  match a, b with
  | .nan, _ | _, .nan | .inf _, .inf _ => some 0x7FC00000#32
  | .inf n, .fin d => if d.m = 0 then none else some (if n != d.neg then 0xFF800000#32 else 0x7F800000#32)
  | .fin n, .inf d => some (rne32 (.zero (n.neg != d)))
  | .fin n, .fin d => if d.m = 0 then none else some (ratio32 n d)

/-- The depth of a pixel (R360). The vertices of a triangle that is drawn have finite z. -/
def Tri.depth (t : Tri) (px py free : Nat) : Lane :=
  let z := ((lambdas t.xs t.ys px py).zip t.vs).map (fun q => extProd q.1 [q.2.z])
  (extRatio (extSum z) (.fin ⟨false, t.area.natAbs, 0⟩)).getD (Config.freeLane free)

/-- IEEE comparison of ZFUNC (R361): NaN fails all but always. -/
def depthPass (fn : Nat) (z stored : Lane) : Bool :=
  let a := f32.decode z.toNat
  let b := f32.decode stored.toNat
  if fn = 7 then true
  else if a.isNan || b.isNan then false
  else
    let c := fvCmp a b
    match fn with
    | 0 => false | 1 => decide (c < 0) | 2 => decide (c ≤ 0) | 3 => decide (0 < c) | 4 => decide (0 ≤ c) | 5 => decide (c = 0)
    | _ => decide (c ≠ 0)

/-- Early depth rejects a covered pixel (R359); a depth that cannot be read rejects nothing. -/
def State.earlyFails (s : State) (b : Batch) (px py : Nat) (z : Lane) : Bool :=
  b.early && (match s.unitRead b.core 1 b.acc (b.depthAt px py) 4 with
    | .ok r _ => !depthPass b.zfunc z (BitVec.ofNat 32 (ofBytes r))
    | _ => false)

/-- The raster of a die makes footprints at a block: split-frame tiles are 64 by 64 pixels (R366). -/
def inTile (split : Bool) (die ox oy : Nat) : Bool := !split || decide ((ox / 64 + oy / 64) % 2 = die)

/-- The footprint of a triangle in the block at (ox, oy), and its fragments' pixels; none with no active lane. -/
def State.footAt (s : State) (b : Batch) (t : Tri) (tri ox oy : Nat) : Option Footprint :=
  let w := b.fld 0x40 2
  let h := b.fld 0x42 2
  let ls := (List.range 64).filterMap (fun l =>
    let q := lanePixel ox oy l
    if q.1 < w ∧ q.2 < h ∧ covered t.xs t.ys q.1 q.2 = true then
      let z := t.depth q.1 q.2 (s.free + (tri * 2 ^ 28 + q.2 * 2 ^ 14 + q.1))
      if s.earlyFails b q.1 q.2 z then none else some (l, z)
    else none)
  if ls.isEmpty then none
  else some { handle := 0, team := 0, tri := tri, ox := ox, oy := oy, front := t.front, mask := maskOf (ls.map (fun q => q.1)), xs := t.xs,
              ys := t.ys, qs := t.vs.map (fun v => v.q), attrs := t.vs.map (fun v => v.attrs), z := ls.foldl (fun m q => sput 0 m q.1 q.2) [] }

/-- Least and greatest of three. -/
def leastOf3 (l : List Int) : Int := l.foldl min (l.headD 0)
def greatestOf3 (l : List Int) : Int := l.foldl max (l.headD 0)

/-- Origins of the blocks along one axis that a triangle's extent reaches in `n` pixels. -/
def blocksOver (l : List Int) (n : Nat) : List Nat :=
  let lo := ((leastOf3 l) / 2048).toNat
  let hi := min ((greatestOf3 l / 2048).toNat + 1) ((n + 7) / 8)
  if greatestOf3 l < 0 then [] else ((List.range hi).filter (fun i => lo ≤ i)).map (fun i => 8 * i)

/-- The footprints of a triangle on a die, by block row and column (R357). -/
def State.triFoots (s : State) (b : Batch) (split : Bool) (die : Nat) (t : Tri) (tri : Nat) : List Footprint :=
  (blocksOver t.ys (b.fld 0x42 2)).flatMap (fun oy => (blocksOver t.xs (b.fld 0x40 2)).filterMap (fun ox =>
    if inTile split die ox oy then s.footAt b t tri ox oy else none))

/-- Set up the triangles from `t` on: the footprints, and the triangle at which a read faulted. -/
def State.setup (b : Batch) (split : Bool) (die : Nat) : Nat → Nat → List Footprint → State → Got (List Footprint × Option Nat)
  | 0, _, acc, s => .ok (acc, none) s
  | n + 1, t, acc, s =>
    let pos := b.fld 0x10 4 + 3 * t
    let vs := (s.vertex b pos).bind fun p s => (s.vertex b (pos + 1)).bind fun q s => (s.vertex b (pos + 2)).bind fun r s => .ok [p, q, r] s
    match vs with
    | .wait s => .wait s
    | .bad _ => .ok (acc, some t) s
    | .ok l s => State.setup b split die n (t + 1) (match triOf b l with | some x => acc ++ s.triFoots b split die x t | none => acc) s

/-! ### Acceptance (R352, R354, R365, R366) -/

/-- Batches whose predecessors on the die are accepted and whose fork write-backs are acknowledged. -/
def State.drawReady (s : State) (d : Nat) : Option Batch :=
  match (s.die d).drawQueue with
  | [] => none
  | b :: _ => if b.wbs.any (fun i => (s.core b.core).wbIds.contains i) then none else some b

/-- A batch that draws nothing ends with a status. -/
def State.failBatch (s : State) (d : Nat) (b : Batch) (status : Nat) : State :=
  s.modBatch d b.home b.num (fun _ => { b with accepted := true, ended := true, status := status })

/-- The fragments of a footprint, in lane order. -/
def Footprint.frags (f : Footprint) (b : Batch) (first : Nat) : List Frag :=
  (lanesOf f.mask).zipIdx.map (fun l =>
    let q := lanePixel f.ox f.oy l.1
    { id := first + l.2, home := b.home, batch := b.num, px := q.1, py := q.2, handle := f.handle, team := f.team, lane := l.1, z := sget 0 f.z l.1 })

/-- The footprints' fragments enter the merger in primitive order. -/
def State.addFrags (s : State) (d : Nat) (b : Batch) (l : List Footprint) : State :=
  l.foldl (fun (s : State) f =>
    let fs := f.frags b (s.die d).nextFrag
    { s with foots := s.foots ++ [f] }.modDie d (fun k => { k with frags := k.frags ++ fs, nextFrag := k.nextFrag + fs.length })) s

/-- The implicit launch of a batch (R354). SPACE 0 in its block takes the space that `rdraw` named. -/
def State.drawLaunch (s : State) (d : Nat) (b : Batch) (lpb : List Byte) (foots : List Footprint) (fault : Option Nat) : State :=
  let l : Launch := { handle := 0, die := d, vf := b.vf, part := b.part, level := b.level, space := BitVec.ofNat 16 b.space,
                      addr := BitVec.ofNat 64 (b.fld 0x48 8), doms := [BitVec.ofNat 16 b.space], csig := 15, batch := some (b.home, b.num), lpb := lpb }
  let per := if l.twin then 2 else 1
  let (h, s) := s.submit { l with count := per * foots.length }
  let fs := foots.zipIdx.map (fun q => { q.1 with handle := h, team := per * q.2 })
  let s := s.addFrags d b fs
  { s with free := s.free + b.fld 0x14 4 * 2 ^ 28 }.modBatch d b.home b.num (fun _ =>
    { b with accepted := true, launch := some h, split := decide (l.split = 1),
             status := match fault with | some t => 3 + t * 2 ^ 32 | none => 0 })

/-- Set up a batch whose record is valid. -/
def State.acceptBatch (s : State) (d : Nat) (b : Batch) : State :=
  let flpb := b.fld 0x48 8
  if flpb % 64 ≠ 0 then s.failBatch d b (2 + 2 * 256)
  else match s.unitRead b.core 1 b.acc (BitVec.ofNat 64 flpb) 256 with
    | .wait s => s
    | .bad _ => s.failBatch d b (2 + 2 * 256)
    | .ok lpb s =>
      let split := decide (fieldAt lpb 0x0A 1 / 4 % 4 = 1)
      match s.setup b split d (b.fld 0x14 4) 0 [] with
      | .wait s => s
      | .bad _ => s
      | .ok (foots, fault) s => s.drawLaunch d b lpb foots fault

/-- RASTER_BATCH_ACCEPT (R352): die. Reads held behind a stage-2 fault leave the batch queued. -/
def execRasterBatchAccept (s : State) : Host.Outcome State Fault Refusal :=
  let d := s.ev.a
  .next (match s.drawReady d with
    | none => s
    | some b =>
      if s.launchFull d b.part then s
      else match s.unitRead b.core 1 b.acc b.off 128 with
        | .wait s => s
        | .bad _ => s.failBatch d b 1
        | .ok r s =>
          let b := { b with record := r }
          if b.badRecord then s.failBatch d b 1 else s.acceptBatch d b)

/-- The first split-frame batch of a die that its peer has not been given, in acceptance order. -/
def State.toForward (s : State) (d : Nat) : Option Batch :=
  (s.die d).batches.find? (fun b => b.home == d && b.accepted && b.split && !b.forwarded)

/-- SPLIT_FRAME_FORWARD (R366): die. The batch enters the other die's raster. -/
def execSplitFrameForward (s : State) : Host.Outcome State Fault Refusal :=
  let d := s.ev.a
  .next (match s.toForward d with
    | none => s
    | some b =>
      (s.modBatch d d b.num (fun b => { b with forwarded := true })).modDie (1 - d) (fun k => { k with batches := k.batches ++
        [{ b with accepted := false, launch := none, ended := false, status := 0, wbs := [] }] }))

/-! ### Attributes (R360) -/

/-- The footprint of the issuing warp. -/
def Ctx.foot (c : Ctx) (s : State) : Option Footprint := s.foot c.w.handle c.w.team

/-- Attribute `k` in a lane (R360): a NaN that it interpolates gives the canonical NaN, an infinity an infinity. A quotient by zero, which no
covered pixel has, is a free value (log 5). -/
def Footprint.attr (f : Footprint) (md k lane free : Nat) : Lane :=
  let a := f.attrs.map (fun v => v.getD k 0)
  let q := lanePixel f.ox f.oy lane
  let lam := lambdas f.xs f.ys q.1 q.2
  if md = 2 then canon32 (a.headD 0).toNat
  else
    let r := if md = 1 then
        extRatio (extSum ((lam.zip a).map (fun x => extProd x.1 [x.2]))) (extSum (lam.map (fun x => extProd x [])))
      else
        extRatio (extSum ((lam.zip (a.zip f.qs)).map (fun x => extProd x.1 [x.2.1, x.2.2]))) (extSum ((lam.zip f.qs).map (fun x => extProd x.1 [x.2])))
    r.getD (Config.freeLane free)

/-- R360. -/
def execAttr (f : FmtA) (s : State) : Host.Outcome State Fault Refusal :=
  s.run fun c => do
    let m := c.guard f.g
    let s ← c.begin s (some m) [.vd f.d 1]
    let k := f.s3.toNat % 16
    if m = 0 then .ok (s.advance c)
    else match c.foot s with
      | none => trapV 0x09 (BitVec.ofNat 64 k) m
      | some t =>
        if (t.attrs.headD []).length ≤ k then trapV 0x09 (BitVec.ofNat 64 k) m
        else
          let regs := c.dregs f.d false
          let l := (lanesOf m).map (fun l => (l, (t.attr f.md.toNat k l (s.free + l)).toNat))
          .ok (({ s with free := s.free + 64 }.startLong c (.v regs) m (.done (laneWrites regs l) 0)).advance c)

end Sys2Proof.Machine
end

