-- ==== Sys2Proof/Machine/Rays.lean ====
section
/-!
DEFINITION. Rays (R370 to R374): exact traversal of a BVH, hits and their records, `rtrace` and `rhit`.
-/

namespace Sys2Proof.Machine

open Sys2Proof

/-! ### Exact fractions -/

/-- `n / d`, with `d` positive. -/
structure Frac where
  n : Int
  d : Nat
  deriving DecidableEq, Repr

def Frac.add (a b : Frac) : Frac := ⟨a.n * b.d + b.n * a.d, a.d * b.d⟩
def Frac.neg (a : Frac) : Frac := ⟨-a.n, a.d⟩
def Frac.sub (a b : Frac) : Frac := a.add b.neg
def Frac.mul (a b : Frac) : Frac := ⟨a.n * b.n, a.d * b.d⟩
/-- The quotient by a nonzero fraction. -/
def Frac.div (a b : Frac) : Frac := if b.n < 0 then ⟨-(a.n * b.d), a.d * b.n.natAbs⟩ else ⟨a.n * b.d, a.d * b.n.natAbs⟩
def Frac.le (a b : Frac) : Bool := decide (a.n * b.d ≤ b.n * a.d)
def Frac.lt (a b : Frac) : Bool := decide (a.n * b.d < b.n * a.d)
def Frac.eq (a b : Frac) : Bool := decide (a.n * b.d = b.n * a.d)
def Frac.zero : Frac := ⟨0, 1⟩
def Frac.max (a b : Frac) : Frac := if a.le b then b else a
def Frac.min (a b : Frac) : Frac := if a.le b then a else b

/-- m x 2^e. -/
def Frac.dy (neg : Bool) (m : Nat) (e : Int) : Frac := ⟨if neg then -(m * pw e : Nat) else (m * pw e : Nat), pw (-e)⟩
/-- An FP32 value, none where it is not finite. -/
def fracOf (v : Lane) : Option Frac := match f32.decode v.toNat with | .num n m e => some (.dy n m e) | _ => none
/-- Rounded once to FP32 with RNE. -/
def Frac.round (a : Frac) : Lane := rne32 (if a.n = 0 then .zero false else .mag (decide (a.n < 0)) (.quo a.n.natAbs a.d 0))

/-- A vector in space. -/
structure V3 where
  x : Frac
  y : Frac
  z : Frac
  deriving DecidableEq, Repr
def V3.sub (a b : V3) : V3 := ⟨a.x.sub b.x, a.y.sub b.y, a.z.sub b.z⟩
def V3.add (a b : V3) : V3 := ⟨a.x.add b.x, a.y.add b.y, a.z.add b.z⟩
def V3.scale (a : V3) (t : Frac) : V3 := ⟨a.x.mul t, a.y.mul t, a.z.mul t⟩
def V3.dot (a b : V3) : Frac := ((a.x.mul b.x).add (a.y.mul b.y)).add (a.z.mul b.z)
def V3.cross (a b : V3) : V3 :=
  ⟨(a.y.mul b.z).sub (a.z.mul b.y), (a.z.mul b.x).sub (a.x.mul b.z), (a.x.mul b.y).sub (a.y.mul b.x)⟩
def V3.isZero (a : V3) : Bool := decide (a.x.n = 0 ∧ a.y.n = 0 ∧ a.z.n = 0)

/-! ### Rays and segments (R372) -/

/-- A ray: origin, direction, and the ends of its segment, none for an infinite one. -/
structure Ray where
  o : V3
  d : V3
  lo : Option Frac
  hi : Option Frac
  deriving DecidableEq, Repr

/-- What a ray's eight words are: a miss, a ray whose record the spec leaves open (log 32), or a ray. -/
inductive RayKind where
  | miss
  | open_
  | ray (r : Ray)
  deriving DecidableEq, Repr

def rayOf (w : List Lane) : RayKind :=
  let v := w.map (fun x => f32.decode x.toNat)
  let g := fun (i : Nat) => w.getD i 0
  match v with
  | [_, _, _, x, y, z, tmin, tmax] =>
    let zero := fun (a : Fv) => match a with | .num _ m _ => m == 0 | _ => false
    if v.any Fv.isNan || zero x && zero y && zero z then .miss
    else match fracOf (g 0), fracOf (g 1), fracOf (g 2), fracOf (g 3), fracOf (g 4), fracOf (g 5) with
      | some a, some b, some c, some x, some y, some z =>
        if (V3.mk x y z).isZero || decide (0 < fvCmp tmin tmax) || tmin == .inf false || tmax == .inf true then .miss
        else .ray { o := ⟨a, b, c⟩, d := ⟨x, y, z⟩, lo := fracOf (g 6), hi := fracOf (g 7) }
      | _, _, _, _, _, _ => if decide (0 < fvCmp tmin tmax) then .miss else .open_
  | _ => .miss

/-- Clip an interval to the t with a + b t >= 0; none where it becomes empty. -/
def clip (r : Option Frac × Option Frac) (a b : Frac) : Option (Option Frac × Option Frac) :=
  if b.n = 0 then (if a.n < 0 then none else some r)
  else
    let t := a.neg.div b
    let r := if 0 < b.n then (some (match r.1 with | some x => x.max t | none => t), r.2)
      else (r.1, some (match r.2 with | some x => x.min t | none => t))
    match r with
    | (some x, some y) => if x.le y then some r else none
    | _ => some r

/-- Clip to several half-lines. -/
def clips (r : Option Frac × Option Frac) (l : List (Frac × Frac)) : Option (Option Frac × Option Frac) :=
  l.foldl (fun r q => r.bind (fun r => clip r q.1 q.2)) (some r)

/-- The entry distance of a closed box on the segment up to `hi`, none where they do not meet. -/
def Ray.enter (r : Ray) (lo hi : V3) (cur : Option Frac) : Option Frac :=
  let ax := fun (o d a b : Frac) => [(o.sub a, d), (b.sub o, d.neg)]
  (clips (r.lo, cur) (ax r.o.x r.d.x lo.x hi.x ++ ax r.o.y r.d.y lo.y hi.y ++ ax r.o.z r.d.z lo.z hi.z)).map (fun q => q.1.getD .zero)

/-! ### Nodes (R370) -/

/-- A child of a node: its number, whether a run of leaves, where it lies, its triangles, and its box. -/
structure Child where
  num : Nat
  leaf : Bool
  at_ : Nat
  count : Nat
  lo : V3
  hi : V3
  deriving DecidableEq, Repr

/-- A node is malformed. -/
def badNode (b : List Byte) : Bool :=
  let f := fun (o n : Nat) => fieldAt b o n
  let valid := f 0x0F 1
  let leaf := f 0x10 1
  (List.range 3).any (fun a => decide (f (0x0C + a) 1 = 0 ∨ f (0x0C + a) 1 = 255)) || decide (f 0x14 4 ≠ 0) ||
    (b.drop 0x58).any (fun x => x != 0) || decide (f 0x18 8 % 128 ≠ 0 ∨ f 0x20 8 % 64 ≠ 0) ||
    (List.range 8).any (fun k =>
      let v := Nat.testBit valid k
      let l := Nat.testBit leaf k
      (l && !v) || (v && l && decide (f 0x11 3 / 8 ^ k % 8 = 0)) ||
        (List.range 3).any (fun a => decide (f (0x2B + 6 * k + a) 1 < f (0x28 + 6 * k + a) 1)))

/-- The present children of a well-formed node. A box whose node origin is not finite meets no segment (log 32). -/
def children (b : List Byte) : List Child :=
  let f := fun (o n : Nat) => fieldAt b o n
  let on := fun (k : Nat) => Nat.testBit (f 0x0F 1) k
  let leaf := fun (k : Nat) => Nat.testBit (f 0x10 1) k
  let cnt := fun (k : Nat) => f 0x11 3 / 8 ^ k % 8
  let org := fun (a : Nat) => fracOf (BitVec.ofNat 32 (f (4 * a) 4))
  match org 0, org 1, org 2 with
  | some x, some y, some z =>
    let at_ := fun (p : Frac) (a q : Nat) => p.add (.dy false q ((f (0x0C + a) 1 : Int) - 127))
    ((List.range 8).filter on).map (fun k =>
      let q := fun (i : Nat) => f (0x28 + 6 * k + i) 1
      let below := (List.range k).filter on
      { num := k, leaf := leaf k, count := cnt k,
        at_ := if leaf k then f 0x20 8 + 64 * (below.filter leaf).foldl (fun n j => n + cnt j) 0
               else f 0x18 8 + 128 * (below.filter (fun j => !leaf j)).length,
        lo := ⟨at_ x 0 (q 0), at_ y 1 (q 1), at_ z 2 (q 2)⟩, hi := ⟨at_ x 0 (q 3), at_ y 1 (q 4), at_ z 2 (q 5)⟩ })
  | _, _, _ => []

/-! ### Triangles (R371, R372) -/

/-- A hit: its t and weights, the primitive, the leaf's address and the facing. -/
structure Hit where
  t : Frac
  u : Frac
  v : Frac
  prim : Nat
  at_ : Nat
  front : Bool
  deriving DecidableEq, Repr

/-- A vertex of a leaf. -/
def leafVertex (b : List Byte) (o : Nat) : Option V3 :=
  match fracOf (BitVec.ofNat 32 (fieldAt b o 4)), fracOf (BitVec.ofNat 32 (fieldAt b (o + 4) 4)), fracOf (BitVec.ofNat 32 (fieldAt b (o + 8) 4)) with
  | some x, some y, some z => some ⟨x, y, z⟩
  | _, _, _ => none

/-- The hit of a ray on a leaf's triangle, by the least t at which the ray lies in it. A vertex that is not finite is
never hit (log 32). -/
def Ray.hit (r : Ray) (b : List Byte) (at_ flags : Nat) : Option Hit :=
  match leafVertex b 0, leafVertex b 0x0C, leafVertex b 0x18 with
  | some v0, some v1, some v2 =>
    let e1 := v1.sub v0
    let e2 := v2.sub v0
    let n := e1.cross e2
    let nn := n.dot n
    let nd := n.dot r.d
    let s := r.o.sub v0
    let front := decide (nd.n < 0)
    if n.isZero || (Nat.testBit flags 1 && !front) || (Nat.testBit flags 2 && front) then none
    else
      -- u(t) = (u0 + u1 t) / nn and v(t) = (w0 + w1 t) / nn for points of the plane
      let u0 := (s.cross e2).dot n
      let u1 := (r.d.cross e2).dot n
      let w0 := (e1.cross s).dot n
      let w1 := (e1.cross r.d).dot n
      let inside := [(u0, u1), (w0, w1), ((nn.sub u0).sub w0, (u1.add w1).neg)]
      let range : Option (Option Frac × Option Frac) :=
        if nd.n = 0 then (if (n.dot s).n = 0 then clips (r.lo, r.hi) inside else none)
        else
          let t := (n.dot s).neg.div nd
          clips (r.lo, r.hi) ([(t.neg, ⟨1, 1⟩), (t, ⟨-1, 1⟩)] ++ inside)
      range.map (fun q =>
        let t := q.1.getD .zero
        { t := t, u := (u0.add (u1.mul t)).div nn, v := (w0.add (w1.mul t)).div nn, prim := fieldAt b 0x24 4 % 2 ^ 30, at_ := at_, front := front })
  | _, _, _ => none

/-- Hit `a` comes before hit `b`: nearer, then by primitive, then by leaf address. -/
def Hit.before (a b : Hit) : Bool :=
  a.t.lt b.t || (a.t.eq b.t && (decide (a.prim < b.prim) || (decide (a.prim = b.prim) && decide (a.at_ < b.at_))))

/-! ### Traversal (R372) -/

/-- A traversal: the best hit, and whether it has ended, by a hit or by an error. -/
structure Trav where
  s : State
  best : Option Hit := none
  ended : Bool := false
  error : Bool := false
  deriving DecidableEq, Repr

/-- Read `n` bytes of the BVH through the core's L1. Consumed poison is an integrity fault. -/
def State.bvhRead (s : State) (core : Nat) (a : Acc) (off : Word) (n : Nat) : Eng (List Byte × State) := do
  let (pa, cmp, s) ← s.engAt core 2 a off 4
  if isWindow pa then .ok (s.pcieRead n)
  else
    let k := s.core core
    let home := s.homeBytes pa n cmp
    let bad := (s.homeBlock pa cmp).2
    let held := (List.range n).map (fun i => k.l1Byte (pa + i))
    if held.zipIdx.any (fun q => if q.1.isSome then k.l1Bad (pa + q.2) else Nat.testBit bad ((pa + q.2) / 64 % 4)) then
      .error (.fault 0x14 off 0)
    else .ok (held.zipIdx.map (fun q => q.1.getD ((k.ownByte (pa + q.2)).getD ((home[q.2]?).getD 0))), s.scReads pa n (16 + 2 * a.vf) (some a.vf) cmp)

/-- The triangles of a run of leaves, in stored order. -/
def Trav.leaves (core : Nat) (a : Acc) (r : Ray) (flags : Nat) : Nat → Nat → Trav → Eng Trav
  | 0, _, x => .ok x
  | n + 1, at_, x =>
    if x.ended then .ok x
    else do
      let (b, s) ← x.s.bvhRead core a (BitVec.ofNat 64 at_) 64
      let x := { x with s := s }
      let x := match r.hit b at_ flags with
        | none => x
        | some h =>
          if Nat.testBit flags 0 then { x with best := some h, ended := true }
          else match x.best with | some g => (if h.before g then { x with best := some h } else x) | none => { x with best := some h }
      Trav.leaves core a r flags n (at_ + 64) x

/-- Insert a child in the order of entry distance, then number. -/
def visitInsert (e : Frac × Child) : List (Frac × Child) → List (Frac × Child)
  | [] => [e]
  | x :: l => if e.1.lt x.1 then e :: x :: l else x :: visitInsert e l

/-- tcur. -/
def Trav.cur (x : Trav) (r : Ray) : Option Frac := match x.best with | some h => some h.t | none => r.hi

/-- Visit a node, `fuel` levels of the stack being left. -/
def Trav.node (core : Nat) (a : Acc) (r : Ray) (flags : Nat) : Nat → Nat → Trav → Eng Trav
  | 0, _, x => .ok { x with ended := true, error := true }
  | fuel + 1, at_, x => do
    let (b, s) ← x.s.bvhRead core a (BitVec.ofNat 64 at_) 128
    let x := { x with s := s }
    if badNode b then .ok { x with ended := true, error := true }
    else
      let l := (children b).foldl (fun l c => match r.enter c.lo c.hi (x.cur r) with | some t => visitInsert (t, c) l | none => l) []
      l.foldlM (fun (x : Trav) e =>
        if x.ended || (r.enter e.2.lo e.2.hi (x.cur r)).isNone then .ok x
        else if e.2.leaf then Trav.leaves core a r flags e.2.count e.2.at_ x
        else Trav.node core a r flags fuel e.2.at_ x) x

/-! ### Records (R372) -/

def missRecord : List Lane := [0x7F800000, 0x3FFFFFFF, 0, 0]

/-- The record of a traversal: t, u and v of an error are free values (log 5). -/
def Trav.record (x : Trav) : List Lane × State :=
  if x.error then
    ([Config.freeLane x.s.free, 0xFFFFFFFF, Config.freeLane (x.s.free + 1), Config.freeLane (x.s.free + 2)], { x.s with free := x.s.free + 3 })
  else match x.best with
    | none => (missRecord, x.s)
    | some h => ([h.t.round, BitVec.ofNat 32 (h.prim + (if h.front then 1 else 2) * 2 ^ 30), h.u.round, h.v.round], x.s)

/-- Trace one ray. -/
def State.traceRay (s : State) (core : Nat) (a : Acc) (root flags : Nat) (w : List Lane) : Eng (List Lane × State) :=
  match rayOf w with
  | .miss => .ok (missRecord, s)
  | .open_ => .ok ((List.range 4).map (fun i => Config.freeLane (s.free + i)), { s with free := s.free + 4 })
  | .ray r => do
    let x ← Trav.node core a r flags 64 root { s := s }
    .ok x.record

/-- Trace the rays of a batch, ascending by lane. -/
def State.traceRays (s : State) (core : Nat) (a : Acc) (root flags : Nat) : List (Nat × List Lane) → Eng (List (Nat × List Lane) × State)
  | [] => .ok ([], s)
  | (l, w) :: r => do
    let (h, s) ← s.traceRay core a root flags w
    let (t, s) ← s.traceRays core a root flags r
    .ok ((l, h) :: t, s)

/-! ### The instructions (R373, R374) -/

/-- R373. An empty batch is pushed like any other. -/
def execRtrace (f : FmtA) (s : State) : Host.Outcome State Fault Refusal :=
  s.run fun c => do
    let m := c.guard f.g
    let s ← c.begin s (some m) [.vs f.s1 24 8 3, .xs f.s2 16 2]
    let root := c.xv f.s2
    let fl := c.w.xr (opIdx f.s2 + 1)
    let k := s.core c.core
    if root.toNat % 128 ≠ 0 then trapV 0x05 root m
    else if 8 ≤ fl.toNat then trapV 0x09 fl m
    else if queueCap 4 ≤ k.queued 4 ∨ queueCap 5 ≤ k.hits.length + k.popUsed 5 then stall .queue s
    else do
      c.journalRoom s
      let s ← c.flagInc s (sigOf f.s3)
      let lanes := (lanesOf m).map (fun l => (l, (List.range 8).map (fun i => c.vv (f.s1 + BitVec.ofNat 8 i) l)))
      let cmd := c.newCmd 2 (sigOf f.s3) (.ray { lanes := lanes, root := root, flags := fl.toNat, space := (c.w.dr f.md.toNat).toNat })
      .ok ((s.addCmd c.core { cmd with rec_ := true }).advance c)

/-- RAY_BATCH_COMPLETE (R372, R373): core, command. Batches of a warp complete in push order. -/
def execRayBatchComplete (s : State) : Host.Outcome State Fault Refusal :=
  let core := s.ev.a
  .next (match (s.core core).cmd s.ev.b with
    | none => s
    | some c =>
      let first := (s.core core).cmds.find? (fun x => x.eng == 2 && x.slot == c.slot && x.handle == c.handle && x.team == c.team && !x.abnd)
      match c.pay, s.team c.handle c.team with
      | .ray r, some t =>
        if c.stage ≠ .running ∨ c.abnd = true ∨ c.fault.isSome = true ∨ first.map (fun x => x.seq) ≠ some c.seq then s
        else match s.traceRays core (engAcc t c r.space) r.root.toNat r.flags r.lanes with
          | .ok (l, s) =>
            let s := s.modCore core (fun k => { k with hits := k.hits ++ [{ seq := c.seq, slot := c.slot, hits := l }] })
            (s.flagDec core c.slot c.handle c.team c.sig).freeCmd core c
          | .error (.miss u) => u
          | .error (.fault cause off fl) =>
            s.modCmd core c.seq (fun x => { x with fault := some { seq := c.seq, widx := c.widx, cause := cause, info := 0, off := off, flinfo := fl } })
          | .error (.status _) => s
      | _, _ => s)

/-- R374: one batch of the warp is popped; with the guard off in every lane nothing is (R152). -/
def execRhit (f : FmtA) (s : State) : Host.Outcome State Fault Refusal :=
  s.run fun c => do
    let m := c.guard f.g
    let s ← c.begin s (some m) [.vd f.d 4]
    if m = 0 then .ok (s.advance c)
    else match (s.core c.core).hits.find? (fun h => h.slot == c.slot) with
    | none => stall .queue s
    | some b =>
      let s := s.modCore c.core (fun k => { k with hits := k.hits.erase b })
      let l := b.hits.filter (fun q => m.getLsbD q.1)
      if l.isEmpty then .ok (s.advance c)
      else
        let regs := (List.range 4).map (fun i => c.phys (opIdx f.d + i))
        let ws := regs.zipIdx.map (fun r => Write.v r.1 (l.map (fun q => (q.1, q.2.getD r.2 0))))
        .ok ((s.startLong c (.v regs) (maskOf (l.map (fun q => q.1))) (.done ws 0)).advance c)

end Sys2Proof.Machine
end

