-- ==== Sys2Proof/Machine/Tiles.lean ====
section
/-!
DEFINITION. Accumulator tiles and their tokens (R195, R201 to R207, R219): who may name a tile, the tile order of a pair,
and the instructions that move tokens, tile rows and matrix parameters.
-/

namespace Sys2Proof.Machine

open Sys2Proof

/-! ### Tokens (R202 to R205) -/

/-- The information word of the tile-token trap. -/
def tokenInfo (tile reason : Nat) : Word := BitVec.ofNat 64 (tile + reason * 16)

/-- The half of a core in its pair: 0 leader, 1 follower. -/
def halfOf (core : Nat) : Nat := core % 2
def Ctx.half (c : Ctx) : Nat := halfOf c.core

/-- The issuing warp holds the token of a tile pair. -/
def Ctx.holds (c : Ctx) (s : State) (tile : Nat) : Bool :=
  sget .free (s.pair (c.core / 2)).tokens tile == .held c.half c.w.widx

/-- Check 1 of R212: reasons 2, 3 and 1 in that order. -/
def Ctx.tileCheck (c : Ctx) (s : State) (leader token : Bool) (tile : Nat) (m : Option Mask) : Try Team :=
  let stop := fun (r : Nat) => (.error (.trap 0x0B (tokenInfo tile r) m []) : Try Team)
  if leader && decide (c.half = 1) then stop 2
  else match s.teamOf c.w with
    | none => stop 3
    | some t =>
      if t.half.isNone then stop 3
      else if token && !c.holds s tile then stop 1
      else .ok t

def State.setToken (s : State) (pr tile : Nat) (t : Token) : State :=
  s.modPair pr (fun p => { p with tokens := sput .free p.tokens tile t })

/-- R207: the parameter changes 2 vc later. It names no tile, so a tile-token trap of it holds 0 in the tile field (log 64). -/
def execMcfg (f : FmtI) (s : State) : Host.Outcome State Fault Refusal :=
  s.run fun c => do
    let s ← c.begin s none [.xs f.s1 24 1]
    if !c.on f.g then .ok (s.advance c)
    else do
      let _ ← c.tileCheck s true false 0 none
      .ok ((s.land c 2 (.mp (f.d.toNat % 8) (c.xv f.s1 + f.imm.signExtend 64))).advance c)

/-- R204: the token moves at issue. -/
def execTgive (f : FmtA) (s : State) : Host.Outcome State Fault Refusal :=
  s.run fun c => do
    let s ← c.begin s none [.xs f.s2 16 1]
    if !c.on f.g then .ok (s.advance c)
    else do
      let n := opIdx f.s1 % 8
      let t ← c.tileCheck s false true n none
      let x := c.xv f.s2
      let pr := c.core / 2
      if x = BitVec.allOnes 64 then .ok ((s.setToken pr n .free).advance c)
      else
        let h := if bit x 8 then 1 - c.half else c.half
        let i := bits x 3 0
        let other := if h = c.half then some t else s.team t.handle (if c.half = 0 then t.idx + 1 else t.idx - 1)
        let there := match other with | some u => !u.ended.contains i | none => false
        let ok := decide (x &&& ~~~0x10F = 0 ∧ i < t.wpt) && there
        if ok then
          let s := s.modPair pr (fun p => { p with waiters := p.waiters.filter (fun q => !(q.1 == n && q.2.1 == h && q.2.2.1 == i)) })
          .ok ((s.setToken pr n (.held h i)).advance c)
        else trapS 0x0B (tokenInfo n 4)

/-- R205: waiters take a freed token in the order in which they began to wait. -/
def execTtake (f : FmtA) (s : State) : Host.Outcome State Fault Refusal :=
  scalarDo s f.g [] fun c s => do
    let n := opIdx f.d % 8
    let _ ← c.tileCheck s false false n none
    let pr := c.core / 2
    let p := s.pair pr
    let me := fun (q : Nat × Nat × Nat × Nat) => q.1 == n && q.2.1 == c.half && q.2.2.1 == c.w.widx
    let line := p.waiters.filter (fun q => q.1 == n)
    let first := match line with | [] => true | q :: _ => me q
    if c.holds s n then .ok s
    else if sget .free p.tokens n == .free && first then
      .ok ((s.modPair pr (fun p => { p with waiters := p.waiters.filter (fun q => !me q) })).setToken pr n (.held c.half c.w.widx))
    else if line.any me then stall .token s
    else
      let q := (n, c.half, c.w.widx, s.pkg.now * 64 + c.half * 32 + c.slot)
      stall .token (s.modPair pr (fun p => { p with waiters := insertBy (fun a b => decide (a.2.2.2 < b.2.2.2)) q p.waiters }))

/-! ### The tile order (R203) -/

/-- The key of a tile element. -/
def tileKey (half tile row col : Nat) : Nat := half * 65536 + tile * 8192 + row * 128 + col

def Pair.elem (p : Pair) (k : Nat) : Lane := sget 0 p.tiles k
/-- Write an element; a whole write clears its error (R201). -/
def Pair.setElem (p : Pair) (k : Nat) (v : Lane) : Pair :=
  { p with tiles := sput 0 p.tiles k v, tpoison := sput false p.tpoison k false }

/-- The information word of a tile error (R201). -/
def tileInfo (tile row col : Nat) : Word := BitVec.ofNat 64 (3 + tile * 2 ^ 8 + row * 2 ^ 11 + col * 2 ^ 17)

/-- What a `trow` finds when its turn comes: its lanes' rows, or those with a failed element (R201, R427). -/
def Pair.readRow (p : Pair) (half tile row : Nat) (o : LongOp) (pr : Nat) : Pending :=
  let bad := fun (l : Nat) => [l, 64 + l].find? (fun c => sget false p.tpoison (tileKey half tile row c))
  let ls := lanesOf o.lanes
  let good := ls.filter (fun l => (bad l).isNone)
  let val := fun (l : Nat) => (p.elem (tileKey half tile row l)).toNat + (p.elem (tileKey half tile row (64 + l))).toNat * 2 ^ 32
  let regs := match o.dest with | .v r => r | _ => []
  let ws := laneWrites regs (good.map (fun l => (l, val l)))
  match ls.filterMap (fun l => (bad l).map (fun c => (l, c))) with
  | [] => .done ws 0
  | q :: r => .bad ws (maskOf ((q :: r).map (fun x => x.1))) (tileInfo tile row q.2) (.tile (pr * 512 + tile * 64 + row))

/-- Errors of a row's elements that a `trow` reads and does not consume are counted in TLAT. -/
def Pair.latent (p : Pair) (half tile row : Nat) (lanes : Mask) : Nat :=
  ((List.range 128).filter (fun c => sget false p.tpoison (tileKey half tile row c) && !lanes.getLsbD (c % 64))).length

/-- Perform the row accesses whose turn has come: those with no command before them in their tile's order. -/
def State.tileTurn (s : State) (pr : Nat) : Nat → State
  | 0 => s
  | n + 1 =>
    let p := s.pair pr
    let isRow := fun (o : TileOp) => match o with | .cmd _ => false | _ => true
    match p.order.zipIdx.find? (fun (q : (Nat × TileOp) × Nat) => isRow q.1.2 && (p.order.take q.2).all (fun e => e.1 != q.1.1)) with
    | none => s
    | some ((tile, op), i) =>
      let s := s.modPair pr (fun p => { p with order := p.order.eraseIdx i })
      let s := match op with
        | .cmd _ => s
        | .twrow half row l => s.modPair pr (fun p => l.foldl (fun p (q : Nat × Lane × Lane) =>
            (p.setElem (tileKey half tile row q.1) q.2.1).setElem (tileKey half tile row (64 + q.1)) q.2.2) p)
        | .trow core id row =>
          let p := s.pair pr
          match (s.core core).longs.find? (fun (o : LongOp) => o.id == id) with
          | none => s
          | some o =>
            let k := p.readRow (halfOf core) tile row o pr
            (s.modCore core (fun c => { c with longs := modWhere (fun x => x.id == id) (fun x => { x with kind := k }) c.longs })).modPair pr
              (fun p => { p with tlat := satInc p.tlat 255 (p.latent (halfOf core) tile row o.lanes) })
      s.tileTurn pr n

/-- A row access enters the tile order. -/
def State.enterTile (s : State) (pr tile : Nat) (op : TileOp) : State :=
  let s := s.modPair pr (fun p => { p with order := p.order ++ [(tile, op)] })
  s.tileTurn pr (s.pair pr).order.length

/-- R219: a read of one row of the issuing core's half, in tile order. -/
def execTrow (f : FmtA) (s : State) : Host.Outcome State Fault Refusal :=
  s.run fun c => do
    let m := c.guard f.g
    let hl := if m = 0 then none else some m
    let s ← c.begin s hl [.xs f.s2 16 1, .vd f.d 2]
    let n := opIdx f.s1 % 8
    let r := c.xv f.s2
    let _ ← c.tileCheck s false true n hl
    if 63 < r.toNat then .error (.trap 0x09 r hl [])
    else
      let id := (s.core c.core).nextId
      let pr := c.core / 2
      let s := s.startLong c (.v (c.dregs f.d true)) m (.tile (pr * 512 + n * 64 + r.toNat))
      .ok ((s.enterTile pr n (.trow c.core id r.toNat)).advance c)

/-- R219: a write of one row, in tile order. -/
def execTwrow (f : FmtA) (s : State) : Host.Outcome State Fault Refusal :=
  s.run fun c => do
    let m := c.guard f.g
    let hl := if m = 0 then none else some m
    let s ← c.begin s hl [.xs f.s1 24 1, .vs f.s2 16 2 3]
    let n := opIdx f.d % 8
    let r := c.xv f.s1
    let _ ← c.tileCheck s false true n hl
    if 63 < r.toNat then .error (.trap 0x09 r hl [])
    else
      let l := (lanesOf m).map (fun i => (i, c.vv f.s2 i, c.w.vr (c.phys (opIdx f.s2 + 1)) i))
      .ok ((s.enterTile (c.core / 2) n (.twrow c.half r.toNat l)).advance c)

end Sys2Proof.Machine
end

