-- ==== Sys2Proof/Machine/Arrive.lean ====
section
/-!
DEFINITION. Data that arrives (R24, R73, R91, R93, R94, R182, R194, R201, R243, R312, R315, R427): the end of a long-latency
producer, fetched blocks, and page walks.
-/

namespace Sys2Proof.Machine

open Sys2Proof

/-! ### What a producer's data is -/

/-- Results of the good lanes, flags, the lanes whose data failed its check, the information word, and what those lanes do
when the producer is issued again (R427); where it had been issued again and lanes met a translation fault, the cause and their records (R325). -/
structure Arrived where
  ws : List Write
  flags : Nat := 0
  bad : Mask := 0
  info : Word := 0
  again : Pending := .atomic
  cause : Nat := 0x14
  rec_ : List (Nat × Word × Word) := []
  deriving DecidableEq, Repr

/-- A lane read that starts afresh, with its translation. -/
def LaneLoad.fresh (x : LaneLoad) : LaneLoad := { x with got := x.got.map (fun _ => none), bad := false, todo := true, flt := none }

/-- A lane read is still on its way. -/
def LaneLoad.waits (x : LaneLoad) : Bool := x.todo || (x.flt.isNone && x.got.any (fun b => b.isNone))

/-- The lanes whose translation ended in a fault make the report; else the information word and cause of a failed check. -/
def Arrived.faulted (a : Arrived) (l : List LaneLoad) : Arrived :=
  let f := l.filter (fun x => x.flt.isSome)
  match f with
  | [] => a
  | x :: _ => { a with info := x.off, cause := if f.any (fun y => y.flt.any (fun q => q.1 != 6)) then 0x11 else 0x12,
                       rec_ := f.map (fun y => (y.lane, y.off, y.flt.elim 0 (fun q => q.2))) }

/-- The lanes of some lane reads that consume a failed block or met a fault. -/
def badLanes (l : List LaneLoad) : Mask := maskOf ((l.filter (fun x => x.bad || x.flt.isSome)).map (fun x => x.lane))

/-- The data of a producer, none while some of it is on its way. -/
def State.arrived (s : State) (core : Nat) (o : LongOp) : Option Arrived :=
  match o.kind with
  | .done ws fl => some { ws := ws, flags := fl }
  | .bad ws m info again => some { ws := ws, bad := m, info := info, again := again }
  | .load wid l acq =>
    if l.any LaneLoad.waits then none
    else
      let bad := l.filter (fun x => x.bad || x.flt.isSome)
      let good := l.filter (fun x => !(x.bad || x.flt.isSome))
      some <| Arrived.faulted (l := l)
           { ws := destWrites o.dest (good.map (fun x => (x.lane, x.value wid))), bad := badLanes l,
             info := (match bad with | x :: _ => integrityInfo x.off.toNat | [] => 0), again := .load wid (bad.map LaneLoad.fresh) acq }
  | .tex words l fr =>
    if l.any LaneLoad.waits then none
    else
      let m := badLanes l
      some <| Arrived.faulted (l := l)
           { ws := texWrites o.dest { words := words } (o.lanes &&& ~~~m) l fr, bad := m,
             info := (match l.find? (fun x => x.bad) with | some x => integrityInfo x.off.toNat | none => 0),
             again := .tex words ((l.filter (fun x => m.getLsbD x.lane)).map LaneLoad.fresh) (fr.filter (fun q => m.getLsbD q.1)) }
  | .loam wid l due =>
    if s.pkg.now < due then none
    else
      let w := widBytes wid
      let bad := l.filter (fun q => (s.loamBad q.2 w).isSome)
      let good := l.filter (fun q => (s.loamBad q.2 w).isNone)
      some { ws := destWrites o.dest (good.map (fun q => (q.1, widValue wid (s.loamBytes q.2 w)))),
             bad := maskOf (bad.map (fun q => q.1)),
             info := (match bad with | q :: _ => BitVec.ofNat 64 (q.2 / 64 * 64) | [] => 0), again := .loam wid bad 0 }
  | .spad wid base l =>
    match spPending wid base o.dest l ((s.core core).spRead wid l) with
    | .done ws _ => some { ws := ws }
    | .bad ws m info again => some { ws := ws, bad := m, info := info, again := again }
    | _ => none
  | .tile _ | .atomic => none

/-- A fixed-latency write to a register of the destination, issued before the producer, has yet to land (R93). -/
def Warp.heldBy (w : Warp) (o : LongOp) : Bool :=
  w.land.any (fun e => decide (e.issued ≤ o.issued) && (match e.w, o.dest with
    | .x n _, .x m => n == m
    | .v ph _, .v l => l.contains ph
    | .vn ph _ _, .v l => l.contains ph
    | _, _ => false))

/-- Something else of the warp still writes the destination: a replayed load, a path that is to replay one, or a producer
that waits for the handler (R93). -/
def Core.stillWriting (k : Core) (slot : Nat) (d : Dest) : Bool :=
  let w := k.warp slot
  let of := fun (o : Option LongOp) => match o with | some q => q.dest == d | none => false
  k.longs.any (fun o => o.slot == slot && o.dest == d) ||
    w.paths.any (fun p => match p.replay with | some (_, _, e) => e == d | none => false) ||
    (match w.halt with | some h => of h.producer | none => false) || (match w.handler with | some h => of h.halt.producer | none => false)

/-- The results of a producer's good lanes are written, its flags raised (R73, R94, R145). -/
def State.writeLong (s : State) (core : Nat) (o : LongOp) (a : Arrived) : State :=
  s.modCore core (fun k =>
    let w := a.ws.foldl (fun w x => w.put x) (k.warp o.slot)
    { k.setWarp o.slot { w with fflags := w.fflags ||| a.flags } with longs := k.longs.filter (fun x => x.id != o.id) })

/-- A producer whose data is good completes: its destination is full unless something else still writes it; an acquire's
second step follows, and a path that waits for it goes on. -/
def State.finishLong (s : State) (core : Nat) (o : LongOp) (a : Arrived) : State :=
  let s := s.writeLong core o a
  let s := if (s.core core).stillWriting o.slot o.dest then s else s.modWarp core o.slot (fun w => w.full o.dest)
  ((if o.kind.acq then s.modCore core (fun k => k.dropClean (fun _ => true)) else s).opDone core o.slot o.id).mwaitAnswer core o

/-- Translate the lane reads of a producer that was issued again, as far as the tables answer; a lane whose translation faults keeps the
fault (R317, R320). -/
def State.retranslate (s : State) (core id : Nat) : State :=
  match (s.core core).longs.find? (fun o => o.id == id) with
  | none => s
  | some o =>
    match s.teamOf (s.warp core o.slot) with
    | none => s
    | some t =>
      let a := t.acc o.space o.level
      let (eng, acc) := match o.kind with | .tex .. => (2, 4) | _ => (0, 0)
      let step := fun (r : List LaneLoad × State) (x : LaneLoad) =>
        if !x.todo then (r.1 ++ [x], r.2)
        else match r.2.locate core eng a x.off acc with
          | (.ok pa cmp, s) => (r.1 ++ [{ x with pa := pa, cmp := cmp, todo := false }], s)
          | (.miss, s) => (r.1 ++ [x], s)
          | (.fault k lv, s) => (r.1 ++ [{ x with todo := false, flt := some (k, flinfoOf k lv acc (decide (a.level = .user)) a.space) }], s)
      let (l, s) := o.kind.loads.foldl step ([], s)
      let s := s.modCore core (fun k => { k with longs := modWhere (fun x => x.id == id) (fun x => { x with kind := x.kind.setLoads l }) k.longs })
      let sent := (l.zip o.kind.loads).filterMap (fun q => if q.2.todo && q.1.placed then some q.1 else none)
      s.sendReads core o.slot id (match l with | x :: _ => x.got.length | [] => 0) sent

/-- The path that a fault found at data arrival is charged to. -/
def Warp.pathOf (w : Warp) (o : LongOp) (m : Mask) : Option Path :=
  match w.path o.path with
  | some p => some p
  | none => match w.paths.find? (fun p => decide (p.mask &&& m ≠ 0)) with
    | some p => some p
    | none => w.paths.head?

/-- Take a fault found at data arrival (R427): the warp stops with skid 0 at its next word, the team halts, and
the producer is kept with its failed lanes. In a handler it escalates (R337). -/
def State.takeLate (s : State) (t : Option Team) (core : Nat) (o : LongOp) (a : Arrived) (p : Path) : State :=
  let q := { o with lanes := a.bad, kind := a.again }
  let s := s.writeLong core o a
  let h : Halt := { cause := a.cause, async := false, info := a.info, pc := p.pc, path := p.id,
                    lanes := if a.rec_.isEmpty then a.bad else faultedLanes a.rec_, producer := some q }
  match t with
  | none => s.modWarp core o.slot (fun w =>
      { w with stopped := true, halt := some h, fcause := 0x14, fcount := satInc w.fcount (2 ^ 32 - 1) 1, hcause := 0x14,
               hinfo := a.info, hpc := p.pc, hmask := p.mask })
  | some t =>
    if p.handler then s.escalate t core o.slot 0x20 a.info
    else
      let s := s.modWarp core o.slot (fun w => { w with stopped := true, halt := some h, paths := w.paths.map (fun p => { p with skid := 0 }) })
      let s := if a.rec_.isEmpty then s else s.modWarp core o.slot (fun w => w.record a.rec_)
      s.startHalt t .halted (some (s.warp core o.slot).widx)

/-- A fault of a producer may be taken now: its team runs, or a handler of it that made the access. -/
def State.lateNow (s : State) (core : Nat) (o : LongOp) (p : Path) : Bool :=
  let w := s.warp core o.slot
  match s.teamOf w with
  | none => isSvc core
  | some t => if p.handler then t.state == .inHandler else t.state == .running && !w.stopped && w.skidUntil.isNone

/-- LONG_LATENCY_WRITE_COMPLETE (R91, R427): core, producer. A failed check found while the team is halted is kept until it
runs again. -/
def execLongLatencyWriteComplete (s : State) : Host.Outcome State Fault Refusal :=
  let core := s.ev.a
  let k := s.core core
  .next (match k.longs.find? (fun o => o.id == s.ev.b) with
    | none => s
    | some o =>
      let w := k.warp o.slot
      match s.arrived core o with
      | none => if o.kind.loads.any (fun x => x.todo) then s.retranslate core o.id else s
      | some a =>
        if !w.live then s.modCore core (fun k => { k with longs := k.longs.filter (fun x => x.id != o.id) })
        else if w.heldBy o then s
        else if a.bad = 0 then s.finishLong core o a
        else match w.pathOf o a.bad with
          | none => s.finishLong core o a
          | some p =>
            if s.lateNow core o p then s.takeLate (s.teamOf w) core o a p
            else if !a.rec_.isEmpty then s
            else
              let fix := fun (x : LongOp) => { x with kind := .bad a.ws a.bad a.info a.again }
              s.modCore core (fun k => { k with longs := modWhere (fun x => x.id == o.id) fix k.longs }))

/-! ### Fetch and walks -/

/-- FETCH_BLOCK_ARRIVAL (R24 to R26): core, slot, path, and the block's offset. -/
def execFetchBlockArrival (s : State) : Host.Outcome State Fault Refusal :=
  .next (s.arriveBlock s.ev.a s.ev.b s.ev.c s.ev.w.toNat)

/-- PAGE_WALK_START (R315): die. -/
def execPageWalkStart (s : State) : Host.Outcome State Fault Refusal := .next (s.startWalk s.ev.a)

/-- PAGE_WALK_COMPLETE (R312): die, walk. -/
def execPageWalkComplete (s : State) : Host.Outcome State Fault Refusal := .next (s.endWalk s.ev.a s.ev.b)

/-! ### Issuing a producer again (R344, R346, R427) -/

/-- Issue a producer again on a core under a new number. A `trow` takes its place in the tile order again. -/
def State.reissue (s : State) (core : Nat) (o : LongOp) : State :=
  let (id, s) := s.newId core
  let kind := o.kind.setLoads (o.kind.loads.map LaneLoad.fresh)
  let was := o.id
  let o := { o with id := id, kind := kind, issued := (s.core core).vc, late := 0 }
  let s := s.modCore core (fun k => { k with longs := k.longs ++ [o] })
  let s := s.modWarp core o.slot (fun w => { w with paths := w.paths.map (fun p => match p.wait with
    | .op i c => if i = was then { p with wait := .op id c } else p
    | _ => p) })
  match kind with
  | .tile row => s.enterTile (core / 2) (row / 64 % 8) (.trow core id (row % 64))
  | _ => s.retranslate core id

end Sys2Proof.Machine
end

