-- ==== Sys2Proof/Machine/Convert.lean ====
section
/-!
DEFINITION. Conversions, quantisation and packing (R132, R141, R162 to R166).
-/

namespace Sys2Proof.Machine

open Sys2Proof

/-- The format of a floating-point conversion type. -/
def cvtFmt (t : Nat) : Ffmt :=
  match t with
  | 0 => f32 | 1 => f16 | 2 => bf16 | 3 => f64 | 4 => e4m3 | _ => e5m2
/-- Element width of a conversion type (R162). -/
def cvtWidth (t : Nat) : Nat :=
  match t with
  | 3 => 64 | 1 | 2 | 8 | 9 => 16 | 4 | 5 | 10 | 11 => 8 | 12 | 13 => 4 | _ => 32
/-- The range of an integer type: even codes are signed. -/
def intLo (t : Nat) : Int := if t % 2 = 0 then -2 ^ (cvtWidth t - 1) else 0
def intHi (t : Nat) : Int := if t % 2 = 0 then 2 ^ (cvtWidth t - 1) - 1 else 2 ^ cvtWidth t - 1
/-- The value of an integer element. -/
def intValue (t x : Nat) : Int := if t % 2 = 0 then sextN x (cvtWidth t) else ((x % 2 ^ cvtWidth t : Nat) : Int)
/-- An integer as an element of `w` bits. -/
def intBits (w : Nat) (x : Int) : Nat := (BitVec.ofInt w x).toNat

/-- Float to float (R141): narrowing unless the destination is wider (log 20). -/
def cvtFF (rm : Rm) (sat : Bool) (F G : Ffmt) (x r : Nat) : Nat × Nat :=
  let rm := { rm with sat := sat && decide (G.width ≤ F.width) }
  match F.read rm.ftz x with
  | .nan sg => (G.nan, if sg then 16 else 0)
  | .inf n => G.rndInf rm n
  | .num n m e => if m = 0 then (G.zero n, 0) else G.rndMag rm n (.dy m e) r

/-- Float to an integer range: rounded, then clamped (R141). -/
def cvtFI (rm : Rm) (F : Ffmt) (lo hi : Int) (x r : Nat) : Int × Nat :=
  match F.read rm.ftz x with
  | .nan _ => (0, 16)
  | .inf n => (if n then lo else hi, 16)
  | .num n m e =>
    if m = 0 then (0, 0)
    else
      let (v, ex) := rndInt rm.mode n (.dy m e) r
      let y := satI v lo hi
      (y, if y ≠ v then 16 else if ex then 0 else 1)

/-- An exact integer to a format. -/
def cvtIF (rm : Rm) (G : Ffmt) (v : Int) (r : Nat) : Nat × Nat :=
  if v = 0 then (G.zero false, 0) else G.rndMag rm (decide (v < 0)) (.dy v.natAbs 0) r

/-- A block-integer lane to FP32: exact, E = 255 a NaN, E = 0 a zero (R131, R141). -/
def cvtBF (ftz : Bool) (w x : Nat) : Nat × Nat :=
  let e : Nat := x / 2 ^ 16 % 256
  let m := sextN x w
  if e = 255 then (f32.nan, 0)
  else if e = 0 ∨ m = 0 then (0, 0)
  else f32.rndMag { mode := 0, ftz := ftz } (decide (m < 0)) (.dy m.natAbs ((e : Int) - 127 - (w - 1 : Nat))) 0

/-- One element (R141, R162), the destination no block-integer type: bits and flags. -/
def cvtElem (rm : Rm) (sat : Bool) (sc dc x r : Nat) : Nat × Nat :=
  if 14 ≤ sc then cvtBF rm.ftz (if sc = 14 then 12 else 16) x
  else if sc ≤ 5 then
    if dc ≤ 5 then cvtFF rm sat (cvtFmt sc) (cvtFmt dc) x r
    else let (v, fl) := cvtFI rm (cvtFmt sc) (intLo dc) (intHi dc) x r; (intBits (cvtWidth dc) v, fl)
  else if dc ≤ 5 then cvtIF rm (cvtFmt dc) (intValue sc x) r
  else
    let v := intValue sc x
    (intBits (cvtWidth dc) (if sat then satI v (intLo dc) (intHi dc) else v), 0)

/-- The largest floor(log2) among nonzero finite values. -/
def topLog (l : List Fv) : Option Int :=
  l.foldl (fun b v => match v with
    | .num _ m e => if m = 0 then b else
        let t := (Mag.dy m e).log2
        some (match b with | some x => if x < t then t else x | none => t)
    | _ => b) none

/-- R132: a group of exact values with their draws gives its exponent, its mantissas and its flags. -/
def biGroup (w mode : Nat) (l : List (Fv × Nat)) : Nat × List Int × Nat :=
  if l.any (fun q => match q.1 with | .num _ _ _ => false | _ => true) then (255, l.map (fun _ => 0), flNV)
  else match topLog (l.map (fun q => q.1)) with
    | none => (0, l.map (fun _ => 0), 0)
    | some t =>
      let e := t + 128
      let E : Int := if 254 < e then 254 else if e < 1 then 1 else e
      let ms : List (Int × Bool) := l.map (fun q => match q.1 with
        | .num n m x =>
          if m = 0 then (0, true)
          else
            let (v, ex) := rndInt mode n (.dy m (x + (w - 1 : Nat) - (E - 127))) q.2
            let y := satI v (-2 ^ (w - 1)) (2 ^ (w - 1) - 1)
            (y, ex && decide (y = v))
        | _ => (0, true))
      let under := decide (E = 1) && (l.zip ms).any (fun (q : (Fv × Nat) × (Int × Bool)) =>
        (match q.1.1 with | .num _ m _ => decide (m ≠ 0) | _ => false) && decide (q.2.1 = 0))
      (E.toNat, ms.map (fun q => q.1),
       (if 254 < e then flOF else 0) ||| (if ms.any (fun q => !q.2) then flNX else 0) ||| (if under then flUF else 0))

/-- The groups of lanes of R163. -/
def biGroups (gs : Nat) : List (List Nat) :=
  if gs = 0 then [List.range 32, (List.range 32).map (fun l => l + 32)] else [List.range 64]

/-- A lane of a block-integer destination: the mantissa in [15:0], E in [23:16]. -/
def biLane (e : Nat) (m : Int) : Nat := intBits 16 m + e * 2 ^ 16

/-- FP32 lanes to block-integer lanes over the groups of R163. -/
def Ctx.toBi (c : Ctx) (m : Mask) (sr : Bool) (mode w : Nat) (src : Nat → Nat) : LaneRes :=
  (biGroups (bits c.p.fmt 7 6)).foldl (fun r (g : List Nat) =>
    let ls := g.filter (fun l => m.getLsbD l)
    if ls.isEmpty then r
    else
      let draws := ls.map (fun l => (l, if sr then srNext (sget 0 r.sr l) else 0))
      let (e, ms, fl) := biGroup w mode (draws.map (fun q => (f32.read c.rm.ftz (src q.1), q.2.toNat)))
      { vals := r.vals ++ (ls.zip ms).map (fun q => (q.1, biLane e q.2)), flags := r.flags ||| fl,
        sr := if sr then draws.foldl (fun t q => sput 0 t q.1 q.2) r.sr else r.sr })
    { vals := [], flags := 0, sr := c.w.sr }

/-- The granules of a lane that element `k` of `w` bits lies in. -/
def granules (w k : Nat) : Nat := if w = 16 then 2 ^ (k % 2) else if w = 8 then 2 ^ (k / 2 % 2) else if w = 4 then 2 ^ (k / 4 % 2) else 3

/-- The shape of `cvt` and `cvtsr` (R162): `srAlways` for the latter. -/
def cvtOp (s : State) (f : FmtA) (srAlways : Bool) : Host.Outcome State Fault Refusal :=
  s.run fun c => do
    let m := c.guard f.g
    let sc := cvtSrc f
    let dc := cvtDst f
    let se := f.s3.toNat % 4
    let de := f.s3.toNat / 4 % 4
    let dw := cvtWidth dc
    let narrow := decide (dw < 32)
    let sr := srAlways || c.rm.mode == 4
    let rm : Rm := if sr then { c.rm with mode := 4 } else c.rm
    let src : Opnd := .vs f.s1 24 (if sc = 3 then 2 else 1) (granules (cvtWidth sc) se)
    let s ← c.begin s (some m) ([src, .vd f.d (if dc = 3 then 2 else 1)] ++ (if narrow then [.vs f.d 32 1 0] else []))
    let raw := fun (l : Nat) => if sc = 3 then (c.vv2 f.s1 l).toNat else elem (c.vv f.s1 l).toNat (cvtWidth sc) se
    if 14 ≤ dc then
      if bits c.p.fmt 7 6 = 2 then trapV 0x09 (c.p.fmt.setWidth 64) m
      else
        let r := c.toBi m sr rm.mode (if dc = 14 then 12 else 16) raw
        .ok ((((s.setSr c r.sr).landLanes c 4 f.d false r.vals).landFlags c 4 r.flags).advance c)
    else
      let r := c.eachLane m sr 64 1 (fun l _ d => cvtElem rm (bit c.p.fmt 4) sc dc (raw l) d)
      let s := (s.setSr c r.sr).landFlags c 4 r.flags
      let s := if narrow then
          (if r.vals.isEmpty then s else s.land c 4 (.vn (c.phys (opIdx f.d)) (if dw = 16 then 2 ^ (de % 2) else 0)
            (r.vals.map (fun q => (q.1, setBits (c.vv f.d q.1) (dw * de) dw q.2)))))
        else s.landLanes c 4 f.d (dc == 3) r.vals
      .ok (s.advance c)

/-- R162, under `fmt.RM`. -/
def execCvt (f : FmtA) (s : State) : Host.Outcome State Fault Refusal := cvtOp s f false

/-- R162: stochastic rounding whatever `fmt.RM` says. -/
def execCvtsr (f : FmtA) (s : State) : Host.Outcome State Fault Refusal := cvtOp s f true

/-- The code width and signedness of `vqnt` and `vdeq` (R164). -/
def codeOf (md : Nat) : Nat × Bool :=
  match md with
  | 0 => (4, false) | 1 => (8, false) | 2 => (4, true) | 3 => (8, true) | _ => (16, true)

/-- `vqnt` of one lane (R164): the code before its extension, and flags. The bound that 0 x inf takes has the sign of the
product of the operands' signs (log 58). -/
def qntValue (rm : Rm) (md x q : Nat) (z : Int) (r : Nat) : Int × Nat :=
  let (w, sg) := codeOf md
  let lo : Int := if sg then -(2 ^ (w - 1) : Nat) else 0
  let hi : Int := if sg then (2 ^ (w - 1) : Nat) - 1 else (2 ^ w : Nat) - 1
  let a := f32.read rm.ftz x
  let b := f32.read rm.ftz q
  let (y, fl) : Int × Nat := if a.isNan || b.isNan then (0, flNV ||| flNX) else match mulTerm a b with
    | .bad => (if a.sign != b.sign then lo else hi, flNV ||| flNX)
    | .inf n => (if n then lo else hi, flNV ||| flNX)
    | .fin p =>
      if p.m = 0 then (0, 0)
      else let (v, ex) := rndInt rm.mode p.neg (.dy p.m p.e) r; (v, if ex then 0 else flNX)
  let t := satI (y + z) lo hi
  (t, if t ≠ y + z then flNV else fl)

/-- `vdeq` of one lane (R164). -/
def deqValue (rm : Rm) (md x q : Nat) (z : Int) (r : Nat) : Nat × Nat :=
  let (w, sg) := codeOf md
  let code : Int := if sg then sextN x w else ((x % 2 ^ w : Nat) : Int)
  let t := code - z
  match f32.read rm.ftz q with
  | .nan sig => (f32.nan, if sig then flNV else 0)
  | b => f32.rnd rm (fvMul (.num (decide (t < 0)) t.natAbs 0) b) r

/-- R164. -/
def execVqnt (f : FmtA) (s : State) : Host.Outcome State Fault Refusal :=
  s.run fun c => do
    let m := c.guard f.g
    let s ← c.begin s (some m) [.vs f.s1 24 1 3, .vs f.s2 16 1 3, .vs f.s3 8 1 3, .vd f.d 1]
    let r := c.eachLane m (c.rm.mode == 4) 32 1 (fun l _ d =>
      let (v, fl) := qntValue c.rm f.md.toNat (c.vv f.s1 l).toNat (c.vv f.s2 l).toNat (c.vv f.s3 l).toInt d
      (intBits 32 v, fl))
    .ok ((((s.setSr c r.sr).landLanes c 6 f.d false r.vals).landFlags c 6 r.flags).advance c)

/-- R164. -/
def execVdeq (f : FmtA) (s : State) : Host.Outcome State Fault Refusal :=
  s.run fun c => do
    let m := c.guard f.g
    let s ← c.begin s (some m) [.vs f.s1 24 1 1, .vs f.s2 16 1 3, .vs f.s3 8 1 3, .vd f.d 1]
    let r := c.eachLane m (c.rm.mode == 4) 32 1 (fun l _ d =>
      deqValue c.rm f.md.toNat (c.vv f.s1 l).toNat (c.vv f.s2 l).toNat (c.vv f.s3 l).toInt d)
    .ok ((((s.setSr c r.sr).landLanes c 6 f.d false r.vals).landFlags c 6 r.flags).advance c)

/-- `vpack` of two lanes (R165). -/
def packValue (md : Nat) (a b : Lane) : Lane :=
  let lo := fun (x : Lane) => x.toNat % 2 ^ 16
  let st := fun (l h : Int) (x : Lane) => intBits 16 (satI x.toInt l h)
  match md with
  | 0 => BitVec.ofNat 32 (lo a + lo b * 2 ^ 16)
  | 1 => BitVec.ofNat 32 (st (-2 ^ 15) (2 ^ 15 - 1) a + st (-2 ^ 15) (2 ^ 15 - 1) b * 2 ^ 16)
  | 2 => BitVec.ofNat 32 (st 0 65535 a + st 0 65535 b * 2 ^ 16)
  | 3 => BitVec.ofNat 32 (bits a 7 0 + bits a 23 16 * 2 ^ 8 + bits b 7 0 * 2 ^ 16 + bits b 23 16 * 2 ^ 24)
  | _ => BitVec.ofNat 32 ((List.range 8).foldl (fun x j =>
      x + elem (if j < 4 then a else b).toNat 8 (j % 4) % 16 * 2 ^ (4 * j)) 0)

/-- R165. -/
def execVpack (f : FmtA) (s : State) : Host.Outcome State Fault Refusal :=
  let gr := if f.md = 0 then 1 else 3
  laneOp s f.g [.vs f.s1 24 1 gr, .vs f.s2 16 1 gr] 3 f.d fun c l => packValue f.md.toNat (c.vv f.s1 l) (c.vv f.s2 l)

/-- `vunpack` of a lane (R166). -/
def unpackValue (md k : Nat) (a : Lane) : Lane :=
  let w := if md ≤ 1 then 16 else if md ≤ 3 then 8 else 4
  let v := elem a.toNat w k
  if md % 2 = 0 then wrap32 (sextN v w) else BitVec.ofNat 32 v

/-- R166. -/
def execVunpack (f : FmtA) (s : State) : Host.Outcome State Fault Refusal :=
  let md := f.md.toNat
  let w := if md ≤ 1 then 16 else if md ≤ 3 then 8 else 4
  laneOp s f.g [.vs f.s1 24 1 (granules w f.s3.toNat)] 3 f.d fun c l => unpackValue md f.s3.toNat (c.vv f.s1 l)

end Sys2Proof.Machine
end

