-- ==== Sys2Proof/Machine/Layout.lean ====
section
/-!
DEFINITION. Tensor layout words and the numbers that enter the accumulator (R129 to R135, R183 to R187, R196, R197,
R206, R209, R210): plane addresses, bounds of a shape, elements from planes, scales and the accumulation step.
-/

namespace Sys2Proof.Machine

open Sys2Proof

/-! ### The captured formats (R146, R206) -/

def fmtSat (f : Lane) : Bool := bit f 4
def fmtFtz (f : Lane) : Bool := bit f 3
/-- GS of `fmt` as a number of elements. -/
def fmtGs (f : Lane) : Nat := 32 * 2 ^ bits f 7 6
def fmtAcls (f : Lane) : Nat := bits f 11 8
def fmtApl (f : Lane) : Nat := bits f 15 12 + 1
def fmtBcls (f : Lane) : Nat := bits f 19 16
def fmtBpl (f : Lane) : Nat := bits f 23 20 + 1
def fmtSfmt (f : Lane) : Nat := bits f 25 24
/-- Both classes are block-integer (R147). -/
def fmtBi (f : Lane) : Bool := decide (fmtAcls f = 2)
/-- Metadata is read (R209). -/
def fmtMeta (f : Lane) : Bool := decide (fmtSfmt f = 1) || fmtBi f
/-- The rounding mode, SR taken as RNE (R217, R218). -/
def fmtRm (f : Lane) : Rm := { mode := if bits f 2 0 = 4 then 0 else bits f 2 0, ftz := fmtFtz f }

namespace MatCmd
def mpw (m : MatCmd) (i : Nat) : Word := m.mp.getD i 0
def kch (m : MatCmd) : Nat := bits (m.mpw 0) 15 0
def vrow (m : MatCmd) : Nat := bits (m.mpw 0) 23 16
def klast (m : MatCmd) : Nat := bits (m.mpw 0) 30 24
def wantsRec (m : MatCmd) : Bool := bit (m.mpw 0) 31
def ameta (m : MatCmd) : Nat := bits (m.mpw 1) 19 0
def bmeta (m : MatCmd) : Nat := (m.mpw 2).toNat
/-- The K extent. -/
def kext (m : MatCmd) : Nat := 64 * (m.kch - 1) + m.klast
def ng (m : MatCmd) : Nat := cdiv m.kext (fmtGs m.fmt)
/-- Rows of one half below VROW. -/
def rowsOf (m : MatCmd) (half : Nat) : Nat := min 64 (m.vrow - 64 * half)
end MatCmd

/-! ### Layout words (R183 to R186) -/

structure Lay where
  low : Nat
  base : Nat
  mode : Nat
  pln : Nat
  cls : Nat
  rs : Nat
  ks : Nat
  ps : Nat
  top : Nat
  deriving DecidableEq, Repr

def layOf (l : List Word) : Lay :=
  let a := l.getD 0 0
  let b := l.getD 1 0
  let c := l.getD 2 0
  { low := bits a 31 0, base := bits a 19 0, mode := bits a 23 20, pln := bits a 27 24 + 1, cls := bits a 31 28,
    rs := bits b 15 0, ks := bits b 31 16, ps := bits c 15 0, top := bits c 31 16 }

/-- The class takes this number of planes (R133). -/
def clsPlanes (cls n : Nat) : Bool :=
  match cls with
  | 0 => true
  | 1 => n == 4 || n == 8
  | 2 => n == 12 || n == 16
  | _ => false

/-- R186: what every consumer refuses. -/
def Lay.bad (l : Lay) : Bool := decide (l.base % 32 ≠ 0) || decide (3 ≤ l.cls) || !clsPlanes l.cls l.pln || decide (l.top ≠ 0)

/-- The bank permutation (R185). -/
def permBank (mode b row : Nat) : Nat :=
  if mode = 0 then b
  else if mode ≤ 6 then b ^^^ (row % 2 ^ mode)
  else if mode ≤ 12 then (b + 2 ^ (mode - 7) * row) % 64
  else if mode = 13 then b ^^^ (row % 16 * 4)
  else if mode = 14 then b ^^^ (row % 8 * 8)
  else b ^^^ (row % 4 * 16)

/-- The unit of a row quad, chunk and plane. -/
def Lay.unit (l : Lay) (quad c p : Nat) : Nat := l.base / 32 + quad * l.rs + c * l.ks + p * l.ps

/-- The team-relative address of a plane word (R184). -/
def Lay.word (l : Lay) (r c p : Nat) : Nat :=
  let u := l.unit (r / 4) c p
  2048 * (u / 64) + 32 * permBank l.mode (u % 64) (u / 64) + 8 * (r % 4)

/-- The lower of two addresses that may be absent. -/
def least (a b : Option Nat) : Option Nat :=
  match a, b with | some x, some y => some (min x y) | some x, none => some x | none, y => y
def leastOf (l : List (Option Nat)) : Option Nat := l.foldl least none

/-- R186: the lowest address at or above `spb` that the shape addresses, for `rows` rows and `ch` chunks. -/
def Lay.outside (l : Lay) (spb rows ch : Nat) : Option Nat :=
  let quads := cdiv rows 4
  if quads = 0 ∨ ch = 0 then none
  else
    let top := l.unit (quads - 1) (ch - 1) (l.pln - 1)
    let ends := if l.mode = 0 then 32 * (top + 1) else 2048 * (top / 64 + 1)
    if ends ≤ spb then none
    else leastOf ((List.range quads).flatMap (fun q => (List.range ch).flatMap (fun c => (List.range l.pln).map (fun p =>
      let u := l.unit q c p
      if l.mode = 0 then (if 32 * (u + 1) ≤ spb then none else some (max spb (32 * u)))
      else if 2048 * (u / 64 + 1) ≤ spb then none else some (max spb (2048 * (u / 64)))))))

/-- The lowest address at or above `spb` of a range of `n` bytes. -/
def rangeOutside (spb a n : Nat) : Option Nat := if n = 0 ∨ a + n ≤ spb then none else some (max spb a)

/-! ### Elements (R129 to R131, R187) -/

/-- The value of element `j` of a chunk from its plane words: the top plane is negative but for UCODE. -/
def elemOf (cls : Nat) (planes : List Nat) (j : Nat) : Int :=
  let n := planes.length
  (planes.zipIdx.foldl (fun (a : Int) q =>
    if Nat.testBit q.1 j then (if cls ≠ 1 ∧ q.2 + 1 = n then a - (2 ^ q.2 : Nat) else a + (2 ^ q.2 : Nat)) else a) 0)

/-! ### Metadata and the accumulation step (R134, R135, R209, R210) -/

/-- A group's metadata: invalid, its scale or exponent, its zero point. -/
structure Meta where
  bad : Bool := false
  e : Nat := 0
  s : Fv := .num false 1 0
  z : Int := 0
  deriving DecidableEq, Repr

/-- Read a metadata word for an operand of `planes` planes. -/
def metaOf (bi : Bool) (planes w : Nat) : Meta :=
  if bi then { bad := decide (w / 256 ≠ 0), e := w % 256 }
  else
    let z := sextN (w / 2 ^ 16) 8
    { bad := decide (w / 2 ^ 24 ≠ 0) || decide (planes = 4) && decide (z < -8 ∨ 7 < z), s := f16.decode (w % 2 ^ 16), z := z }

/-- S of a group (R135), a NaN for an invalid word or a poisoned exponent. -/
def groupScale (bi : Bool) (wa wb : Nat) (a b : Meta) : Fv :=
  if a.bad || b.bad then .nan false
  else if bi then
    if a.e = 255 ∨ b.e = 255 then .nan false
    else if a.e = 0 ∨ b.e = 0 then .num false 0 0
    else .num false 1 ((a.e : Int) + b.e - 254 - (wa - 1 : Nat) - (wb - 1 : Nat))
  else match mulTerm a.s b.s with
    | .bad => .nan false
    | .inf n => .inf n
    | .fin x => .num x.neg x.m x.e

/-- One group enters a floating accumulator: the new value and its flags. -/
def accFloat (ftz : Bool) (acc : Lane) (s : Fv) (bs : Int) : Lane × Nat :=
  let rm : Rm := { mode := 0, ftz := ftz }
  let a := f32.read ftz acc.toNat
  if s.isNan then (BitVec.ofNat 32 f32.nan, flNV)
  else
    let t := mulTerm s (.num (decide (bs < 0)) bs.natAbs 0)
    if a.isNan then (BitVec.ofNat 32 f32.nan, if t = .bad then flNV else 0)
    else
      let (v, fl) := f32.rnd rm (sumTerms false [valTerm a, t]) 0
      (BitVec.ofNat 32 v, fl)

/-- One group enters an integer accumulator. -/
def accInt (acc : Lane) (bs : Int) : Lane × Nat :=
  let v := acc.toInt + bs
  let w := satI v (-2 ^ 31) (2 ^ 31 - 1)
  (wrap32 w, if w = v then 0 else flOF)

end Sys2Proof.Machine
end

