-- ==== Sys2Proof/Machine/Matrix.lean ====
section
/-!
DEFINITION. Matrix commands (R195 to R200, R207 to R218, R220 to R224): the checks at issue, the chunks of a product, the
conversions of `mplane` and `mout`, completion, and pair freezes.
-/

namespace Sys2Proof.Machine

open Sys2Proof

/-! ### Checks at issue (R212, R217, R218) -/

/-- operand-invalid where `bad` holds. -/
def refuse (bad : Bool) (cause : Nat) (v : Word) : Try Unit := if bad then trapS cause v else .ok ()
/-- scratchpad-bounds at the lowest out-of-range address. -/
def bounds (o : Option Nat) : Try Unit := match o with | some a => trapS 0x06 (BitVec.ofNat 64 a) | none => .ok ()

/-- Check 2. -/
def mp0Check (m : MatCmd) : Try Unit :=
  refuse (decide (m.kch = 0 ∨ m.klast = 0 ∨ 64 < m.klast ∨ 128 < m.vrow ∨ bits (m.mpw 0) 63 32 ≠ 0)) 0x09 (m.mpw 0)

/-- Three registers from a scalar operand. -/
def Ctx.regs3 (c : Ctx) (b : BitVec 8) (n : Nat) : List Word := (List.range n).map (fun i => c.w.xr (opIdx b + i))

/-- What a matrix instruction captures. -/
def Ctx.capture (c : Ctx) (kind tile md : Nat) (a b : List Word) : MatCmd :=
  { kind := kind, tile := tile, md := md, a := a, b := b, fmt := c.p.fmt, mp := (List.range 8).map c.w.mpr,
    space := (c.w.dr (bits (c.w.mpr 4) 2 0)).toNat }

/-- Check 4 for one operand. -/
def layCheck (l : Lay) (cls planes : Nat) : Try Unit :=
  refuse (l.bad || decide (l.cls ≠ cls) || decide (l.pln ≠ planes)) 0x09 (BitVec.ofNat 64 l.low)

/-- Bytes of metadata of `rows` rows. -/
def MatCmd.metaBytes (m : MatCmd) (rows : Nat) : Nat := if fmtMeta m.fmt then 4 * rows * m.ng else 0

/-- Checks 2 to 8 of a product. -/
def MatCmd.productCheck (m : MatCmd) (t : Team) : Try Unit := do
  let f := m.fmt
  let la := layOf m.a
  let lb := layOf m.b
  let aSp := decide (m.kind ≠ 3)
  let bSp := decide (m.kind ≠ 2)
  mp0Check m
  refuse (decide (m.md / 2 % 2 = 1) && (decide (fmtSfmt f ≠ 0) || fmtBi f)) 0x09 (f.setWidth 64)
  if aSp then layCheck la (fmtAcls f) (fmtApl f) else .ok ()
  if bSp then layCheck lb (fmtBcls f) (fmtBpl f) else .ok ()
  bounds (leastOf [
    if aSp then la.outside t.spb (m.rowsOf 0) m.kch else none,
    if bSp then lb.outside t.spb 128 m.kch else none,
    rangeOutside t.spb m.ameta (m.metaBytes (m.rowsOf 0)),
    if bSp then rangeOutside t.spb m.bmeta (m.metaBytes 128) else none])
  if fmtMeta f then do
    refuse (decide (m.ameta % 4 ≠ 0)) 0x05 (BitVec.ofNat 64 m.ameta)
    refuse (decide (m.bmeta % 4 ≠ 0)) 0x05 (m.mpw 2)
  else .ok ()
  if m.kind = 3 then refuse (decide ((m.mpw 3).toNat % 64 ≠ 0)) 0x05 (m.mpw 3) else .ok ()
  if m.kind = 2 then do
    refuse (decide ((m.mpw 5).toNat % 64 ≠ 0)) 0x05 (m.mpw 5)
    refuse (!loamIn (m.mpw 5).toNat (1024 * fmtBpl f * m.kch)) 0x07 (m.mpw 5)
    refuse (fmtMeta f && !loamIn m.bmeta (m.metaBytes 128)) 0x07 (m.mpw 2)
  else .ok ()
  if m.kind = 3 then refuse (decide (bits (m.mpw 4) 63 3 ≠ 0)) 0x09 (m.mpw 4) else .ok ()

/-- Bytes of a source row that `mplane` reads. -/
def MatCmd.rowBytes (m : MatCmd) : Nat :=
  match m.md % 4 with | 0 => m.kext | 1 => cdiv m.kext 2 | 2 => 2 * m.kext | _ => 4 * m.kext

/-- `.ld`: leader placement. -/
def MatCmd.leader (m : MatCmd) : Bool := decide (4 ≤ m.md)
/-- The rows that one half of an `mplane` handles. -/
def MatCmd.planeRows (m : MatCmd) (half : Nat) : Nat :=
  if m.leader then (if half = 0 then m.vrow else 0) else m.rowsOf half
def MatCmd.planeMeta (m : MatCmd) : Nat := if m.leader then m.bmeta else m.ameta
def MatCmd.src (m : MatCmd) : Nat := bits (m.b.getD 0 0) 19 0
def MatCmd.pitch (m : MatCmd) : Nat := bits (m.b.getD 1 0) 19 0

/-- The checks of `mplane` after check 1. The information word of a CLS that the kind does not allow is the layout's low word, the model's choice (log 64). -/
def MatCmd.planeCheck (m : MatCmd) (t : Team) : Try Unit := do
  let l := layOf m.a
  let kind := m.md % 4
  let rows := m.planeRows 0
  mp0Check m
  refuse (l.bad || (if kind = 3 then l.cls != 2 else if kind = 2 then l.cls != 0 else decide (1 < l.cls))) 0x09 (BitVec.ofNat 64 l.low)
  bounds (leastOf ((List.range rows).map (fun r => rangeOutside t.spb (m.src + r * m.pitch) m.rowBytes) ++
    [l.outside t.spb rows m.kch, if kind = 3 then rangeOutside t.spb m.planeMeta (4 * rows * m.ng) else none]))
  refuse (decide (kind = 3 ∧ m.planeMeta % 4 ≠ 0)) 0x05 (BitVec.ofNat 64 m.planeMeta)

namespace MatCmd
def out (m : MatCmd) : Nat := bits (m.mpw 6) 2 0
def scl (m : MatCmd) : Bool := bit (m.mpw 6) 3
def bias (m : MatCmd) : Bool := bit (m.mpw 6) 4
def clmp (m : MatCmd) : Bool := bit (m.mpw 6) 5
def itile (m : MatCmd) : Bool := bit (m.mpw 6) 7
def ncol (m : MatCmd) : Nat := bits (m.mpw 6) 15 8
def epar (m : MatCmd) : Nat := bits (m.mpw 7) 19 0
/-- The width of an output element, but for planes. -/
def outWidth (m : MatCmd) : Nat := if m.out = 1 ∨ m.out = 2 then 2 else 4
def outBase (m : MatCmd) : Nat := bits (m.a.getD 0 0) 19 0
def outPitch (m : MatCmd) : Nat := bits (m.a.getD 1 0) 19 0
/-- The enabled parts of the parameter block, each whole: offset and length (log entry 42). -/
def params (m : MatCmd) : List (Nat × Nat) :=
  (if m.scl then [(0, 512)] else []) ++ (if m.bias then [(0x200, 512)] else []) ++
    (if m.clmp then [(0x400, 8)] else []) ++ (if m.out = 3 then [(0x408, 8)] else [])
end MatCmd

/-- The checks of `mout` after checks 1 and 2. -/
def MatCmd.outCheck (m : MatCmd) (t : Team) : Try Unit := do
  mp0Check m
  let l := layOf m.a
  let rows := m.rowsOf 0
  let w := m.outWidth
  refuse (decide (5 ≤ m.out ∨ m.ncol = 0 ∨ 128 < m.ncol ∨ bits (m.mpw 6) 6 6 ≠ 0 ∨ bits (m.mpw 6) 63 16 ≠ 0) ||
    decide (m.out = 4) && (m.scl || m.bias || m.clmp)) 0x09 (m.mpw 6)
  refuse (decide (m.out = 3) && l.bad) 0x09 (BitVec.ofNat 64 l.low)
  let written := if m.out = 3 then [l.outside t.spb rows (cdiv m.ncol 64)]
    else (List.range rows).map (fun i => rangeOutside t.spb (m.outBase + i * m.outPitch) (m.ncol * w))
  bounds (leastOf (written ++ m.params.map (fun q => rangeOutside t.spb (m.epar + q.1) q.2)))
  refuse (decide (m.epar % 16 ≠ 0)) 0x05 (BitVec.ofNat 64 m.epar)
  refuse (decide (m.out ≠ 3 ∧ m.outBase % w ≠ 0)) 0x05 (BitVec.ofNat 64 m.outBase)
  refuse (decide (m.out ≠ 3 ∧ m.outPitch % w ≠ 0)) 0x05 (BitVec.ofNat 64 m.outPitch)

/-! ### Pushing -/

/-- A command names a tile; `mplane` does not. -/
def MatCmd.usesTile (m : MatCmd) : Bool := decide (m.kind ≠ 4)

/-- The fork of an `mmulm` stream (R269, R270): the core's dirty lines over the words that it reads are written back. -/
def State.forkStream (s : State) (c : Ctx) (m : MatCmd) : List Nat × State :=
  if m.kind ≠ 3 then ([], s)
  else match s.teamOf c.w with
    | none => ([], s)
    | some t =>
      let l := (List.range (fmtApl m.fmt * m.kch)).map (fun q => (m.mpw 3 + BitVec.ofNat 64 (1024 * q), 8 * m.vrow))
      s.forkBack c.core (s.extents (t.acc m.space c.p.level) 4 l)

/-- A checked command is pushed to q0 and enters the tile order. -/
def Ctx.pushMatrix (c : Ctx) (s : State) (m : MatCmd) (sig : Nat) : Try State := do
  let k := s.core c.core
  if 32 ≤ k.queued 0 ∨ (m.wantsRec = true ∧ queueCap 1 ≤ k.popUsed 1) then stall .queue s
  else do
    c.journalRoom s
    let s ← c.flagInc s sig
    let pr := c.core / 2
    let seq := k.nextSeq
    let (ids, s) := s.forkStream c m
    let s := s.addCmd c.core { c.newCmd 0 sig (.matrix m) with rec_ := m.wantsRec, fork := ids }
    let s := s.modPair pr (fun p => { p with q0 := p.q0 ++ [(seq, p.mc)] })
    .ok (if m.usesTile then s.modPair pr (fun p => { p with order := p.order ++ [(m.tile, .cmd seq)] }) else s)

/-- The shape of the matrix instructions: check 1, the other checks, the push. -/
def matrixOp (s : State) (f : FmtA) (ops : List Opnd) (token : Bool) (tile : Nat) (m : Ctx → MatCmd)
    (check : Ctx → MatCmd → Team → Try Unit) : Host.Outcome State Fault Refusal :=
  s.run fun c => do
    let s ← c.begin s none ops
    if !c.on f.g then .ok (s.advance c)
    else do
      let t ← c.tileCheck s true token tile none
      check c (m c) t
      let s ← c.pushMatrix s (m c) (sigOf f.s3)
      .ok (s.advance c)

/-- R216. -/
def execMzero (f : FmtA) (s : State) : Host.Outcome State Fault Refusal :=
  let n := opIdx f.d % 8
  matrixOp s f [] true n (fun c => c.capture 0 n 0 [] []) (fun _ m _ => mp0Check m)

/-- R212: A and B in the scratchpads. -/
def execMmul (f : FmtA) (s : State) : Host.Outcome State Fault Refusal :=
  let n := opIdx f.d % 8
  matrixOp s f [.xs f.s1 24 3, .xs f.s2 16 3] true n
    (fun c => c.capture 1 n f.md.toNat (c.regs3 f.s1 3) (c.regs3 f.s2 3)) (fun _ m t => m.productCheck t)

/-- R212, R214: B from the Loam store. -/
def execMmull (f : FmtA) (s : State) : Host.Outcome State Fault Refusal :=
  let n := opIdx f.d % 8
  matrixOp s f [.xs f.s1 24 3] true n
    (fun c => c.capture 2 n f.md.toNat (c.regs3 f.s1 3) []) (fun _ m t => m.productCheck t)

/-- R212, R213: A from memory. -/
def execMmulm (f : FmtA) (s : State) : Host.Outcome State Fault Refusal :=
  let n := opIdx f.d % 8
  matrixOp s f [.xs f.s2 16 3] true n
    (fun c => c.capture 3 n f.md.toNat [] (c.regs3 f.s2 3)) (fun _ m t => m.productCheck t)

/-- R217. It names no tile, so a tile-token trap of it holds 0 in the tile field (log 64). -/
def execMplane (f : FmtA) (s : State) : Host.Outcome State Fault Refusal :=
  matrixOp s f [.xs f.s1 24 3, .xs f.s2 16 2] false 0
    (fun c => c.capture 4 0 f.md.toNat (c.regs3 f.s1 3) (c.regs3 f.s2 2)) (fun _ m t => m.planeCheck t)

/-- R218: planes take a layout word, so at most x61; rows take two registers, so at most x62 (R39, R183). -/
def execMout (f : FmtA) (s : State) : Host.Outcome State Fault Refusal :=
  let n := opIdx f.d % 8
  let last := fun (c : Ctx) => if bits (c.w.mpr 6) 2 0 = 3 then 61 else 62
  s.run fun c => do
    if last c < opIdx f.s1 then trapS 0x01 (illegalInfo 5 24)
    else do
      let s ← c.begin s none [.xs f.s1 24 (64 - last c)]
      if !c.on f.g then .ok (s.advance c)
      else do
        let t ← c.tileCheck s true true n none
        let m := c.capture 5 n 0 (c.regs3 f.s1 (64 - last c)) []
        m.outCheck t
        let s ← c.pushMatrix s m (sigOf f.s3)
        .ok (s.advance c)

/-! ### Reading operands -/

/-- Why a chunk cannot be computed yet, or at all. -/
inductive MatStop where
  | fault (cause : Nat) (off flinfo : Word)
  /-- A stream TLB miss, with the walk it set in motion. -/
  | walk (off : Word) (s : State)
  /-- A Loam permission cache miss. -/
  | perm (a : Nat)
  /-- A Loam refresh window, with the ns for which it goes on, or, with 0, a fork write-back under way: the chunk starts late. -/
  | late (wait : Nat)
  deriving DecidableEq, Repr

abbrev Mat (α : Type) := Except MatStop α

/-- The twin teams of a pair by half. -/
def State.twinOf (s : State) (pr half : Nat) : Option Team :=
  match (s.pair pr).twins with | some (h, i) => s.team h (i + half) | none => none

/-- `n` bytes of a half's allocation; a word that fails its check is a fault. -/
def State.spadNum (s : State) (pr half a n : Nat) : Mat Nat :=
  match s.twinOf pr half with
  | none => .error (.fault 0x06 (BitVec.ofNat 64 a) 0)
  | some t =>
    let k := s.core t.core
    if n = 0 then .ok 0
    else if (k.spBad (t.base + a) n).isSome then .error (.fault 0x14 (BitVec.ofNat 64 a) 0)
    else .ok (ofBytes (k.sp (t.base + a) n))

/-- `n` bytes of a Loam stream through the permission cache (R214). A read that has waited out the refresh window that it met
goes (R193). -/
def State.loamNum (s : State) (pr a n : Nat) : Mat Nat :=
  let frame := loamKey a / 65536
  match s.twinOf pr 0 with
  | none => .error (.fault 0x12 (BitVec.ofNat 64 a) 0)
  | some t =>
    if !(s.pair pr).permCache.contains frame then .error (.perm a)
    else if !s.loamReadable t a then .error (.fault 0x12 (BitVec.ofNat 64 a) 0)
    else if (match (s.pair pr).loamAt with | some u => decide (s.pkg.now < u) | none => decide (0 < s.refreshWait a)) then .error (.late (s.refreshWait a))
    else if (s.loamBad a n).isSome then .error (.fault 0x14 (BitVec.ofNat 64 a) 0)
    else .ok (ofBytes (s.loamBytes a n))

/-- Gather the results of a list of reads. -/
def gather {α β : Type} (f : α → Mat β) : List α → Mat (List β)
  | [] => .ok []
  | a :: l => do
    let x ← f a
    let r ← gather f l
    .ok (x :: r)

/-- Plane words by row: the rows of one operand in one chunk. -/
def State.spadRows (s : State) (pr half : Nat) (l : Lay) (rows c : Nat) : Mat (List (List Nat)) :=
  gather (fun r => gather (fun p => s.spadNum pr half (l.word r c p) 8) (List.range l.pln)) (List.range rows)

/-- What a chunk's operand reads leave behind in a half's scratchpad: units of `n` bytes at these addresses of the allocation have been
read, with the words beside them (R182). -/
def State.spadSeen (s : State) (pr half : Nat) (l : List Nat) (n : Nat) : State :=
  match s.twinOf pr half with
  | some t => s.modCore t.core (fun k => k.spSeen (l.map (fun a => t.base + a)) n)
  | none => s

/-- Addresses of the plane words of an operand's rows in one chunk. -/
def planeAddrs (l : Lay) (rows c : Nat) : List Nat :=
  (List.range rows).flatMap (fun r => (List.range l.pln).map (fun p => l.word r c p))

/-- The A rows below VROW of a chunk, of both halves in order (R196, R213). The stream's TLB must hold every page that it reads:
a miss freezes the pair (R222). -/
def State.aRows (s : State) (pr : Nat) (cmd : Cmd) (m : MatCmd) (c : Nat) : Mat (List (List Nat) × State) :=
  if m.kind ≠ 3 then do
    let l := layOf m.a
    let x ← s.spadRows pr 0 l (m.rowsOf 0) c
    let y ← s.spadRows pr 1 l (m.rowsOf 1) c
    .ok (x ++ y, s)
  else match s.twinOf pr 0 with
    | none => .error (.fault 0x12 (m.mpw 3) 0)
    | some t =>
      let pa := fmtApl m.fmt
      let at_ := fun (p : Nat) => m.mpw 3 + BitVec.ofNat 64 (1024 * (pa * c + p))
      let a := t.acc m.space cmd.level
      let piece := fun (r : Mat (List (Byte × Bool) × State)) (q : Word × Nat) => do
        let (b, s) ← r
        if !s.streamHas t.core 4 a.vf a.space q.1 4 (decide (a.level = .user)) then .error (.walk q.1 s)
        else match s.engRead t.core 4 a [q] with
          | .ok (x, s) => .ok (b ++ x, s)
          | .error (.miss s) => .error (.walk q.1 s)
          | .error (.fault cause off fl) => .error (.fault cause off fl)
          | .error (.status _) => .error (.fault 0x12 q.1 0)
      let step := fun (r : Mat (List (List Nat) × State)) (p : Nat) => do
        let (ws, s) ← r
        let (b, s) ← (piecesOf (at_ p) (8 * m.vrow)).foldl piece (.ok ([], s))
        if b.any (fun q => q.2) then .error (.fault 0x14 (at_ p) 0)
        else .ok (ws ++ [(List.range m.vrow).map (fun i => ofBytes (((b.drop (8 * i)).take 8).map (fun q => q.1)))], s)
      match (List.range pa).foldl step (.ok ([], s)) with
      | .ok (planes, s) => .ok ((List.range m.vrow).map (fun r => planes.map (fun w => w.getD r 0)), s)
      | .error e => .error e

/-- The 128 B rows of a chunk (R196, R214). -/
def State.bRows (s : State) (pr : Nat) (m : MatCmd) (c : Nat) : Mat (List (List Nat)) :=
  if m.kind ≠ 2 then s.spadRows pr 0 (layOf m.b) 128 c
  else
    let pb := fmtBpl m.fmt
    gather (fun j => gather (fun q => s.loamNum pr ((m.mpw 5).toNat + 8 * (128 * (pb * c + q) + j)) 8) (List.range pb)) (List.range 128)

/-- The A metadata of a group, by row below VROW. -/
def State.aMeta (s : State) (pr : Nat) (m : MatCmd) (g : Nat) : Mat (List Meta) :=
  if !fmtMeta m.fmt then .ok (List.replicate m.vrow {})
  else gather (fun i => do
    let w ← s.spadNum pr (i / 64) (m.ameta + 4 * (i % 64 * m.ng + g)) 4
    .ok (metaOf (fmtBi m.fmt) (fmtApl m.fmt) w)) (List.range m.vrow)

/-- The B metadata of a group. -/
def State.bMeta (s : State) (pr : Nat) (m : MatCmd) (g : Nat) : Mat (List Meta) :=
  if !fmtMeta m.fmt then .ok (List.replicate 128 {})
  else gather (fun j => do
    let a := m.bmeta + 4 * (j * m.ng + g)
    let w ← if m.kind = 2 then s.loamNum pr a 4 else s.spadNum pr 0 a 4
    .ok (metaOf (fmtBi m.fmt) (fmtBpl m.fmt) w)) (List.range 128)

/-! ### Products (R197, R198, R209 to R211) -/

/-- Elements [lo, hi) of a row from its chunks' plane words, listed by chunk from `c0`. -/
def rowElems (cls c0 lo hi : Nat) (chunks : List (List Nat)) : List Int :=
  (List.range (hi - lo)).map (fun i => let k := lo + i; elemOf cls (chunks.getD (k / 64 - c0) []) (k % 64))

/-- The groups that end in chunk `c`: their numbers. -/
def MatCmd.groupsIn (m : MatCmd) (c : Nat) : List Nat :=
  match fmtGs m.fmt with
  | 32 => [2 * c, 2 * c + 1].filter (fun g => decide (g < m.ng))
  | 64 => [c]
  | _ => if c % 2 = 1 ∨ c + 1 = m.kch then [c / 2] else []

/-- The key of an accumulator of global row `i` and column `j`. -/
def accKey (i j : Nat) : Nat := i / 64 * 8192 + i % 64 * 128 + j

/-- One group enters every accumulator. -/
def MatCmd.group (m : MatCmd) (r : MatRun) (a b : List (List Int)) (ma mb : List Meta) : MatRun :=
  let f := m.fmt
  let iacc := decide (m.md / 2 % 2 = 1)
  let zp := fun (cls : Nat) (x : Meta) => if bit f 5 && decide (cls = 1) then x.z else 0
  let r := if ma.isEmpty ∨ !((ma ++ mb).any (fun x => x.bad)) then r else { r with meta_ := true, flags := r.flags ||| flNV }
  ((a.zip ma).zipIdx).foldl (fun r (row : (List Int × Meta) × Nat) =>
    ((b.zip mb).zipIdx).foldl (fun r (col : (List Int × Meta) × Nat) =>
      let za := zp (fmtAcls f) row.1.2
      let zb := zp (fmtBcls f) col.1.2
      -- every element of a block-integer group with E = 0 is +0 (R131)
      let bs := if fmtBi f && decide (row.1.2.e = 0 ∨ col.1.2.e = 0) then 0
        else (row.1.1.zip col.1.1).foldl (fun (n : Int) q => n + (q.1 - za) * (q.2 - zb)) 0
      let k := accKey row.2 col.2
      let old := sget 0 r.acc k
      let (v, fl) := if iacc then accInt old bs
        else accFloat (fmtFtz f) old (groupScale (fmtBi f) (fmtApl f) (fmtBpl f) row.1.2 col.1.2) bs
      { r with acc := sput 0 r.acc k v, flags := r.flags ||| fl }) r) r

/-- What an access to a tile that is not yet performed will have left in the element of a global row and a column, where it
writes it: a command that has computed, or a `twrow` (R203). -/
def State.layer (s : State) (pr : Nat) (op : TileOp) (i j : Nat) : Option Lane :=
  match op with
  | .cmd q =>
    let p := s.pair pr
    match (p.fin ++ p.run.toList).find? (fun r => r.seq == q), (s.core (2 * pr)).cmd q with
    | some r, some c => (match c.pay with
      | .matrix n => if n.kind = 0 then some 0 else if n.kind ≤ 3 ∧ i < n.vrow then some (sget 0 r.acc (accKey i j)) else none
      | _ => none)
    | _, _ => none
  | .twrow half row l =>
    if half = i / 64 ∧ row = i % 64 then (l.find? (fun q => q.1 == j % 64)).map (fun q => if j < 64 then q.2.1 else q.2.2) else none
  | .trow .. => none

/-- A stream's fork write-back has not been acknowledged (R270). -/
def State.forking (s : State) (pr seq : Nat) : Bool :=
  let k := s.core (2 * pr)
  match k.cmd seq with | some c => c.fork.any (fun i => k.wbIds.contains i) | none => false

/-- The accumulators that a command starts from, once its stream may be read: its tile as every access before it in the tile
order leaves it (R203); an element that fails its check is a fault. -/
def State.startAcc (s : State) (pr seq : Nat) (m : MatCmd) : Mat (SMap Lane) :=
  if s.forking pr seq then .error (.late 0)
  else if m.md % 2 = 1 then .ok []
  else
    let p := s.pair pr
    let ops := ((p.order.takeWhile (fun e => e.2 != .cmd seq)).filter (fun e => e.1 == m.tile)).map (fun e => e.2)
    let last := fun (i j : Nat) => ops.foldl (fun (b : Option Lane) op => (s.layer pr op i j).or b) none
    let rows := List.range m.vrow
    let bad := if p.tpoison.isEmpty then none
      else rows.findSome? (fun i => ((List.range 128).find? (fun j =>
        sget false p.tpoison (tileKey (i / 64) m.tile (i % 64) j) && (last i j).isNone)).map (fun j => (i, j)))
    match bad with
    | some (i, j) => .error (.fault 0x14 (tileInfo m.tile (i % 64) j) 0)
    | none =>
      .ok (rows.foldl (fun acc i => (List.range 128).foldl (fun acc j =>
        sput 0 acc (accKey i j) ((last i j).getD (p.elem (tileKey (i / 64) m.tile (i % 64) j)))) acc) [])

/-- The scratchpad words that a chunk's planes and metadata were read from. -/
def State.chunkSeen (s : State) (pr : Nat) (m : MatCmd) (c : Nat) : State :=
  let s := if m.kind = 3 then s else
    (s.spadSeen pr 0 (planeAddrs (layOf m.a) (m.rowsOf 0) c) 8).spadSeen pr 1 (planeAddrs (layOf m.a) (m.rowsOf 1) c) 8
  let s := if m.kind = 2 then s else s.spadSeen pr 0 (planeAddrs (layOf m.b) 128 c) 8
  if !fmtMeta m.fmt then s
  else (m.groupsIn c).foldl (fun s g =>
    let rows := fun (h : Nat) => (List.range (m.rowsOf h)).map (fun i => m.ameta + 4 * (i * m.ng + g))
    let s := (s.spadSeen pr 0 (rows 0) 4).spadSeen pr 1 (rows 1) 4
    if m.kind = 2 then s else s.spadSeen pr 0 ((List.range 128).map (fun j => m.bmeta + 4 * (j * m.ng + g))) 4) s

/-- A chunk of a product is supplied and computed. -/
def State.productChunk (s : State) (pr : Nat) (cmd : Cmd) (m : MatCmd) (r : MatRun) (c : Nat) : Mat (MatRun × State) := do
  let gs := m.groupsIn c
  let c0 := if fmtGs m.fmt = 128 then c / 2 * 2 else c
  let chunks := (List.range (c + 1 - c0)).map (fun i => c0 + i)
  let fetch := fun (q : Mat (List (List (List Nat)) × State)) (ch : Nat) => do
    let (l, s) ← q
    let (a, s) ← s.aRows pr cmd m ch
    .ok (l ++ [a], s)
  let (as_, s) ← chunks.foldl fetch (.ok ([], s))
  let bs ← gather (fun ch => s.bRows pr m ch) chunks
  let rowsOf := fun (n : Nat) (l : List (List (List Nat))) (i : Nat) => (List.range n).map (fun q => (l.getD q []).getD i [])
  let step := fun (q : Mat MatRun) (g : Nat) => do
    let r ← q
    let ma ← s.aMeta pr m g
    let mb ← s.bMeta pr m g
    let lo := g * fmtGs m.fmt
    let hi := min (lo + fmtGs m.fmt) m.kext
    let a := (List.range m.vrow).map (fun i => rowElems (fmtAcls m.fmt) c0 lo hi (rowsOf chunks.length as_ i))
    let b := (List.range 128).map (fun j => rowElems (fmtBcls m.fmt) c0 lo hi (rowsOf chunks.length bs j))
    .ok (m.group r a b ma mb)
  let r ← gs.foldl step (.ok r)
  .ok (r, s.chunkSeen pr m c)

/-! ### mplane (R217) -/

/-- The value of source element `k` of a row, as the kind reads it. -/
def srcElem (kind cls k : Nat) (row : Nat) : Int :=
  let (v, w) : Nat × Nat := match kind with
    | 0 => (row / 2 ^ (8 * k) % 2 ^ 8, 8)
    | 1 => (row / 2 ^ (4 * k) % 2 ^ 4, 4)
    | _ => (row / 2 ^ (16 * k) % 2 ^ 16, 16)
  if cls = 1 then (v : Int) else sextN v w

/-- The stored code of an integer element: clamped under SAT, else its low bits. -/
def planeCode (cls n : Nat) (sat : Bool) (v : Int) : Nat :=
  let lo : Int := if cls = 1 then 0 else -2 ^ (n - 1)
  let hi : Int := if cls = 1 then 2 ^ n - 1 else 2 ^ (n - 1) - 1
  intBits n (if sat then satI v lo hi else v)

/-- The plane words of a row from its codes: chunk, plane and word. -/
def planeWords (n ch : Nat) (codes : List Nat) : List (Nat × Nat × Nat) :=
  (List.range ch).flatMap (fun c => (List.range n).map (fun p =>
    (c, p, (List.range 64).foldl (fun a j => if Nat.testBit (codes.getD (64 * c + j) 0) p then a + 2 ^ j else a) 0)))

/-- Writes to a half's scratchpad. -/
abbrev SpWrites := List (Nat × Byte)

/-- One row of `mplane` in one half: what it writes, and its flags. -/
def State.planeRow (s : State) (pr half : Nat) (m : MatCmd) (r : Nat) : Mat (SpWrites × Nat) := do
  let l := layOf m.a
  let kind := m.md % 4
  let row ← s.spadNum pr half (m.src + r * m.pitch) m.rowBytes
  let gs := fmtGs m.fmt
  let groups := (List.range m.ng).map (fun g => biGroup l.pln (fmtRm m.fmt).mode
    ((List.range (min gs (m.kext - g * gs))).map (fun i => (f32.read (fmtFtz m.fmt) (row / 2 ^ (32 * (g * gs + i)) % 2 ^ 32), 0))))
  let codes := if kind = 3 then groups.flatMap (fun q => q.2.1.map (fun v => intBits l.pln v))
    else (List.range m.kext).map (fun k => planeCode l.cls l.pln (fmtSat m.fmt) (srcElem kind l.cls k row))
  let ws := (planeWords l.pln m.kch codes).flatMap (fun q => (leBytes q.2.2 8).zipIdx.map (fun b => (l.word r q.1 q.2.1 + b.2, b.1)))
  let es := if kind = 3 then (groups.zipIdx).flatMap (fun q =>
    (leBytes q.1.1 4).zipIdx.map (fun b => (m.planeMeta + 4 * (r * m.ng + q.2) + b.2, b.1))) else []
  .ok (ws ++ es, if kind = 3 then groups.foldl (fun a q => a ||| q.2.2) 0 else 0)

/-! ### mout (R218) -/

/-- A quantised code: rounded, offset and clamped. -/
def quantCode (f : Lane) (cls n : Nat) (y qinv : Nat) (zq : Int) : Nat × Nat :=
  let lo : Int := if cls = 1 then 0 else -2 ^ (n - 1)
  let hi : Int := if cls = 1 then 2 ^ n - 1 else 2 ^ (n - 1) - 1
  match mulTerm (f32.read (fmtFtz f) y) (f32.read (fmtFtz f) qinv) with
  | .bad => (0, flNV)
  | .inf n' => (intBits n (if n' then lo else hi), flNV)
  | .fin x =>
    let (q, ex) := if x.m = 0 then (0, true) else rndInt (fmtRm f).mode x.neg (.dy x.m x.e) 0
    let v := satI (q + zq) lo hi
    (intBits n v, if v ≠ q + zq then flNV else if ex then 0 else flNX)

/-- One element through the epilogue: its stored bits and its flags. `par` reads a parameter word. -/
def MatCmd.epilogue (m : MatCmd) (par : Nat → Nat) (c : Nat) (tile : Lane) : Nat × Nat :=
  let f := m.fmt
  let rm := fmtRm f
  if m.out = 4 then (tile.toNat, 0)
  else
    let (x, f0) := if m.itile then cvtIF { mode := 0, ftz := rm.ftz } f32 tile.toInt 0 else (tile.toNat, 0)
    let one := f32.decode 0x3F800000
    let s := if m.scl then f32.read rm.ftz (par (4 * c)) else one
    let b := if m.bias then f32.read rm.ftz (par (0x200 + 4 * c)) else .num false 0 0
    let (y, f1) := f32.rnd rm (fvFma rm (f32.read rm.ftz x) s b) 0
    let (y, f2) := if m.clmp then
        let (u, g) := f32.minMax rm.ftz true y (par 0x400)
        let (v, h) := f32.minMax rm.ftz false u (par 0x404)
        (v, g ||| h)
      else (y, 0)
    let fl := f0 ||| f1 ||| f2
    match m.out with
    | 0 => (y, fl)
    | 1 => let (z, g) := cvtFF rm (fmtSat f) f32 f16 y 0; (z, fl ||| g)
    | 2 => let (z, g) := cvtFF rm (fmtSat f) f32 bf16 y 0; (z, fl ||| g)
    | _ =>
      let l := layOf m.a
      let (z, g) := quantCode f l.cls l.pln y (par 0x408) (sextN (par 0x40C) 32)
      (z, fl ||| g)

/-- One row of `mout` in one half. -/
def State.outRow (s : State) (pr half : Nat) (m : MatCmd) (i : Nat) : Mat (SpWrites × Nat) := do
  let p := s.pair pr
  match (List.range m.ncol).find? (fun c => sget false p.tpoison (tileKey half m.tile i c)) with
  | some c => .error (.fault 0x14 (tileInfo m.tile i c) 0)
  | none => do
    let words ← gather (fun (q : Nat × Nat) => do
      let l ← gather (fun k => s.spadNum pr half (m.epar + q.1 + 4 * k) 4) (List.range (q.2 / 4))
      .ok (q.1, l)) m.params
    let par := fun (o : Nat) => (words.findSome? (fun q =>
      if q.1 ≤ o ∧ o < q.1 + 4 * q.2.length then some (q.2.getD ((o - q.1) / 4) 0) else none)).getD 0
    let rs := (List.range m.ncol).map (fun c => m.epilogue par c (p.elem (tileKey half m.tile i c)))
    let fl := rs.foldl (fun a q => a ||| q.2) 0
    let l := layOf m.a
    let w := m.outWidth
    if m.out = 3 then
      .ok ((planeWords l.pln (cdiv m.ncol 64) (rs.map (fun q => q.1))).flatMap (fun q =>
        (leBytes q.2.2 8).zipIdx.map (fun b => (l.word i q.1 q.2.1 + b.2, b.1))), fl)
    else
      .ok (rs.zipIdx.flatMap (fun q => (leBytes q.1.1 w).zipIdx.map (fun b => (m.outBase + i * m.outPitch + q.2 * w + b.2, b.1))), fl)

/-- The rows of `mplane` or `mout` in both halves, in order: writes to each half's scratchpad with the flags. -/
def State.spadResult (s : State) (pr : Nat) (m : MatCmd) : Mat (SpWrites × SpWrites × Nat) := do
  let row := fun (half r : Nat) => if m.kind = 4 then s.planeRow pr half m r else s.outRow pr half m r
  let rows := fun (half : Nat) => if m.kind = 4 then m.planeRows half else m.rowsOf half
  let x ← gather (row 0) (List.range (rows 0))
  let y ← gather (row 1) (List.range (rows 1))
  let all := fun (l : List (SpWrites × Nat)) => l.flatMap (fun q => q.1)
  .ok (all x, all y, (x ++ y).foldl (fun a q => a ||| q.2) 0)

/-! ### The schedule (R198 to R200, R203, R221) -/

/-- Chunks of a command and the mc that each computes. -/
def MatCmd.chunks (m : MatCmd) : Nat := match m.kind with | 1 | 2 | 3 => m.kch | _ => 1
def MatCmd.chunkLen (m : MatCmd) : Nat :=
  match m.kind with
  | 0 => 8
  | 4 => m.kch * (if m.leader then 32 else 16)
  | 5 => 64
  | _ => fmtApl m.fmt * fmtBpl m.fmt

/-- The matrix command of a pair with this number. -/
def State.matCmd (s : State) (pr seq : Nat) : Option (Cmd × MatCmd) :=
  match (s.core (2 * pr)).cmd seq with
  | some c => (match c.pay with | .matrix m => some (c, m) | _ => none)
  | none => none

/-- What the array does next: the command, the chunk, the earliest first mc, and the run so far. -/
structure NextChunk where
  seq : Nat
  chunk : Nat
  first : Nat
  run : MatRun
  deriving DecidableEq, Repr

/-- The next chunk of a pair's array, whose operands are fetched while the one before it computes (R199). A new command waits
while a grant waits for the cluster's matrix quiescence (R299). -/
def State.nextChunk (s : State) (pr : Nat) : Option NextChunk :=
  let p := s.pair pr
  if p.freeze.isSome then none
  else
    let fresh := fun (after : Option Nat) => match p.q0 with
      | [] => none
      | (seq, arr) :: _ =>
        let first := match after with | some e => if arr < e then e else arr + 4 | none => arr + 4
        match s.matCmd pr seq with
        | none => none
        | some _ =>
          if (s.cluster (pr / 4)).pending.isSome then none
          else some { seq := seq, chunk := 0, first := max first p.hold, run := { seq := seq } }
    match p.run with
    | none => fresh none
    | some r =>
      match s.matCmd pr r.seq with
      | none => fresh none
      | some (_, m) =>
        if r.chunk + 1 < m.chunks then some { seq := r.seq, chunk := r.chunk + 1, first := r.endsAt, run := r }
        else fresh (some r.endsAt)

/-- A command meets a fault while it runs: it leaves the array, the queue and the tile order (R223). -/
def State.matFault (s : State) (pr seq cause : Nat) (off fl : Word) : State :=
  let s := s.modPair pr (fun p => { p with
    run := match p.run with | some r => if r.seq = seq then none else some r | none => none,
    fin := p.fin.filter (fun r => r.seq != seq), q0 := p.q0.filter (fun q => q.1 != seq), late := false, loamAt := none, buffer := none,
    order := p.order.filter (fun e => e.2 != .cmd seq) })
  let s := s.modCmd (2 * pr) seq (fun c => { c with
    started := true, fault := some { seq := seq, widx := c.widx, cause := cause, info := 0, off := off, flinfo := fl } })
  s.tileTurn pr (s.pair pr).order.length

/-- The pair freezes (R222). -/
def State.freezePair (s : State) (pr seq : Nat) (loam : Bool) (off : Word) : State :=
  s.modPair pr (fun p => { p with frz := satInc p.frz 65535 1,
                                  freeze := some { since := s.pkg.now, seq := seq, loam := loam, off := off } })

/-- A chunk's operands in the buffers. -/
def Pair.buffered (p : Pair) (n : NextChunk) : Option (MatRun × Nat) := p.buffer.filter (fun b => b.1.seq == n.seq && b.1.chunk == n.chunk)

/-- A refresh window of `w` ns, or with 0 a fork, delays the operands of the next chunk: the delay of its Loam reads counts once (R193). -/
def State.supplyLate (s : State) (pr w : Nat) : State :=
  let t := (s.pair pr).loamAt.isSome || decide (w = 0)
  let s := if t then s else s.modCore (2 * pr) (fun k => k.loamStall w)
  s.modPair pr (fun p => { p with late := true, loamAt := if t then p.loamAt else some (s.pkg.now + w * refUnit) })

/-- Fetch the operands of the next chunk (R199), its tile among those of the first (R203). What it finds is computed at once; the chunk
starts when its mc comes. -/
def State.supply (s : State) (pr : Nat) (n : NextChunk) (cmd : Cmd) (m : MatCmd) : State :=
  let p := s.pair pr
  let product := decide (1 ≤ m.kind ∧ m.kind ≤ 3)
  let r : Mat (MatRun × State) := do
    let acc ← if product && decide (n.chunk = 0) then s.startAcc pr n.seq m else .ok n.run.acc
    let r := { n.run with chunk := n.chunk, acc := acc, len := m.chunkLen, eu := 75 * cdiv m.vrow 32 }
    if product then s.productChunk pr cmd m r n.chunk else .ok (r, s)
  match r with
  | .error (.fault cause off fl) => s.matFault pr n.seq cause off fl
  | .error (.walk off v) => v.freezePair pr n.seq false off
  | .error (.perm a) => s.freezePair pr n.seq true (BitVec.ofNat 64 a)
  | .error (.late w) => s.supplyLate pr w
  | .ok (r, s) =>
    (s.modPair pr (fun x => { x with buffer := some (r, if p.late then p.mc else 0), late := false, loamAt := none })).modCmd (2 * pr) n.seq
      (fun c => { c with started := c.started || product, readDone := c.readDone || (product && decide (n.chunk + 1 = m.chunks)) })

/-- Start the next chunk once its mc has come and its operands are there: the first compute mc is the earliest one, or the first with
the operands; each mc of that delay is a stretch (R221). -/
def State.startChunk (s : State) (pr : Nat) (n : NextChunk) (m : MatCmd) : State :=
  let p := s.pair pr
  match p.buffered n with
  | none => s
  | some (r, at_) =>
    let first := max n.first at_
    if p.mc < first then s
    else
      let run := { r with endsAt := first + r.len }
      let fin := match p.run with
        | some q => if q.seq ≠ n.seq ∧ (s.matCmd pr q.seq).isSome then p.fin ++ [{ q with endsAt := q.endsAt + 5 }] else p.fin
        | none => p.fin
      let s := s.modPair pr (fun p => { p with
        run := some run, fin := fin, q0 := p.q0.filter (fun q => q.1 != n.seq), buffer := none,
        sup := if m.kind = 2 then p.sup else satInc p.sup (2 ^ 32 - 1) (first - n.first),
        loamStl := if m.kind = 2 then satInc p.loamStl (2 ^ 32 - 1) (first - n.first) else p.loamStl })
      (s.arrayDebit pr run.eu (run.computes first p.mc)).modCmd (2 * pr) n.seq (fun c => { c with
        stage := .running, started := true, readDone := c.readDone || decide (m.kind = 0) })

/-- MATRIX_CHUNK_START (R198, R199, R203): pair. The next chunk's operands are fetched while the chunk before it computes. -/
def execMatrixChunkStart (s : State) : Host.Outcome State Fault Refusal :=
  let pr := s.ev.a
  .next (match s.nextChunk pr with
    | none => s
    | some n =>
      match s.matCmd pr n.seq with
      | none => s
      | some (cmd, m) =>
        let s := if ((s.pair pr).buffered n).isSome then s else s.supply pr n cmd m
        s.startChunk pr n m)

/-! ### Completion (R199, R208, R215) -/

/-- The run of a pair that completes next, once its mc has come. -/
def State.dueRun (s : State) (pr : Nat) : Option MatRun :=
  let p := s.pair pr
  let last := match p.run with
    | some r => (match s.matCmd pr r.seq with
      | some (_, m) => if r.chunk + 1 = m.chunks then [{ r with endsAt := r.endsAt + 5 }] else []
      | none => [])
    | none => []
  if p.freeze.isSome then none else ((p.fin ++ last).head?).bind (fun r => if r.endsAt ≤ p.mc then some r else none)

/-- The status record (R215). -/
def statusRecord (c : Cmd) (m : MatCmd) (flags : Nat) (bad : Bool) : Word :=
  BitVec.ofNat 64 (c.seq + (if m.usesTile then m.tile else 0) * 2 ^ 32 + flags % 32 * 2 ^ 36 + (if bad then 2 ^ 41 else 0) +
    (0xA0 + m.kind) * 2 ^ 48)

/-- The tiles after a command: zeros, or the accumulators of the rows below VROW. -/
def Pair.writeTile (p : Pair) (m : MatCmd) (acc : SMap Lane) : Pair :=
  let rows := if m.kind = 0 then 128 else if m.kind ≤ 3 then m.vrow else 0
  (List.range rows).foldl (fun p i => (List.range 128).foldl (fun p j =>
    p.setElem (tileKey (i / 64) m.tile (i % 64) j) (if m.kind = 0 then 0 else sget 0 acc (accKey i j))) p) p

/-- A half's scratchpad writes. -/
def State.putHalf (s : State) (pr half : Nat) (ws : SpWrites) : State :=
  match s.twinOf pr half with
  | some t => s.modCore t.core (fun k => k.putSp (ws.map (fun q => (t.base + q.1, q.2))))
  | none => s

/-- MATRIX_COMMAND_COMPLETE (R199, R208, R215): pair. -/
def execMatrixCommandComplete (s : State) : Host.Outcome State Fault Refusal :=
  let pr := s.ev.a
  let core := 2 * pr
  .next (match s.dueRun pr with
    | none => s
    | some r =>
      match s.matCmd pr r.seq with
      | none => s.modPair pr (fun p => { p with fin := p.fin.filter (fun x => x.seq != r.seq) })
      | some (c, m) =>
        match (if m.kind ≤ 3 then .ok ([], [], r.flags) else s.spadResult pr m : Mat (SpWrites × SpWrites × Nat)) with
        | .error (.fault cause off fl) => s.matFault pr r.seq cause off fl
        | .error _ => s
        | .ok (x, y, flags) =>
          let s := (s.putHalf pr 0 x).putHalf pr 1 y
          let s := s.modPair pr (fun p => { p.writeTile m r.acc with
            run := (match p.run with | some q => if q.seq = r.seq then none else some q | none => none),
            fin := p.fin.filter (fun q => q.seq != r.seq), order := p.order.filter (fun e => e.2 != .cmd r.seq) })
          let w := s.warp core c.slot
          let mine := w.live && decide (w.handle = c.handle ∧ w.team = c.team)
          let s := if mine then s.modWarp core c.slot (fun w => { w with mflags := w.mflags ||| flags ||| (if r.meta_ then 32 else 0) }) else s
          let s := if c.rec_ then s.post core 1 c.slot (statusRecord c m flags r.meta_) else s
          let s := (s.flagDec core c.slot c.handle c.team c.sig).freeCmd core c
          s.tileTurn pr (s.pair pr).order.length)

/-! ### Freezes (R222) -/

/-- The clocks of a frozen pair restart, its mc where they stopped. -/
def State.thaw (s : State) (pr : Nat) (conv : Bool) : State :=
  s.modPair pr (fun p => match p.freeze with
    | some z =>
      let dt := s.pkg.now - z.since
      { p with freeze := none, mcAt := p.mcAt + dt, frzTime := satInc p.frzTime (2 ^ 32 - 1) (dt / (16 * refUnit)),
               conv := if conv then satInc p.conv 255 1 else p.conv }
    | none => p)

/-- FREEZE_RESUME (R222): pair. The shadow context fetches the frame owner entry, or translates the page, from the shared TLB or by a walk, serving
a first touch from the pool; what it cannot serve is kept for the conversion, with its record (R325). -/
def execFreezeResume (s : State) : Host.Outcome State Fault Refusal :=
  let pr := s.ev.a
  .next (match (s.pair pr).freeze with
    | none => s
    | some z =>
      if z.failed.isSome then s
      else if z.loam then
        (s.modPair pr (fun p => { p with permCache := (loamKey z.off.toNat / 65536 :: p.permCache).take 64 })).thaw pr false
      else match s.twinOf pr 0, s.matCmd pr z.seq with
        | some t, some (c, m) =>
          let a := t.acc m.space c.level
          let fail := fun (s : State) (cause kind lv : Nat) => s.modPair pr (fun p => { p with
            freeze := some { z with failed := some (cause, flinfoOf kind lv 4 (decide (a.level = .user)) a.space) } })
          (match s.locate t.core 4 a z.off 4 with
          | (.ok _ _, s) => s.thaw pr false
          | (.miss, s) => s
          | (.fault 1 lv, s) =>
            (match s.mapFirstTouch a.part a.vf a.space z.off with
            | .ok _ s => s
            | .wait => fail s 0x11 1 lv
            | .empty => fail s 0x13 1 lv
            | .bad _ s => fail s 0x12 1 lv)
          | (.fault k lv, s) => fail s (if k = 6 then 0x12 else 0x11) k lv)
        | _, _ => s.thaw pr false)

/-- A stage-2 fault holds the walk that a frozen pair waits for. -/
def State.freezeHeld (s : State) (pr : Nat) (z : Freeze) : Bool :=
  match s.twinOf pr 0 with
  | some t => (s.die (dieOf t.core)).walks.any (fun w => w.held.isSome && w.vf == t.vf && w.off.toNat / 65536 == z.off.toNat / 65536)
  | none => false

/-- The record of a service that ended in no stage-1 fault: its access and space, and KIND 0 (R325). -/
def State.freezeRecord (s : State) (pr : Nat) (z : Freeze) : Word :=
  match s.matCmd pr z.seq with
  | some (c, m) => flinfoOf 0 0 4 (decide (c.level = .user)) m.space
  | none => 0

/-- FREEZE_CONVERSION (R222, R223): pair. -/
def execFreezeConversion (s : State) : Host.Outcome State Fault Refusal :=
  let pr := s.ev.a
  .next (match (s.pair pr).freeze with
    | none => s
    | some z =>
      let late := decide (65536 * ncPeriod (s.die (pr / 64)).an < s.pkg.now - z.since)
      match z.failed with
      | some (cause, fl) => (s.thaw pr true).matFault pr z.seq cause z.off fl
      | none =>
        if late || s.freezeHeld pr z then (s.thaw pr true).matFault pr z.seq 0x11 z.off (s.freezeRecord pr z) else s)

end Sys2Proof.Machine
end

