-- ==== Sys2Proof/Machine/Traps.lean ====
section
/-!
DEFINITION. Halts, handlers and the return from one (R326, R331 to R333, R336, R337, R340, R341, R427).
-/

namespace Sys2Proof.Machine

open Sys2Proof

/-! ### Halt and handler -/

/-- HALT_BROADCAST (R331): handle, team. The warps that have not stopped may skid for 12 vc. -/
def execHaltBroadcast (s : State) : Host.Outcome State Fault Refusal :=
  .next (match s.team s.ev.a s.ev.b with
    | none => s
    | some t => match t.broadcastAt with
      | none => s
      | some v =>
        let vc := (s.core t.core).vc
        if vc < v then s
        else
          let s := s.modTeam t.handle t.idx (fun t => { t with broadcastAt := none })
          let go := fun (w : Warp) => if w.live && !w.stopped then
              { w with skidUntil := some (vc + 12), paths := w.paths.map (fun p => { p with skid := 0 }) } else w
          t.slots.foldl (fun s sl => s.modWarp t.core sl go) s)

/-- A barrier release has begun for a team: the boundary that ends it is asked for or runs (R263, R332). -/
def State.releasing (s : State) (t : Team) : Bool :=
  ((s.core t.core).bnext ++ (s.core t.core).bserve).any (fun b => match b with
    | .bar h i => h == t.handle && i == t.idx
    | .group h g => h == t.handle && !t.arrived.contains g && t.slots.any (fun sl =>
        let w := s.warp t.core sl
        w.live && w.grp == some g && (match w.standBody with | some b => bodyOp b != 0xD0 | none => false))
    | _ => false)

/-- The halt of a team has not taken effect: a barrier release has begun for it (R332), or a command that a joined marker covers is to complete
first (R273). -/
def State.haltWaits (s : State) (t : Team) : Bool :=
  (s.haltSet t).any (fun u => s.releasing u ||
    (s.core u.core).cmds.any (fun c => c.handle == u.handle && c.team == u.idx && c.mark && c.fault.isNone && !c.abnd))

/-- A team waits to enter its handler. -/
def State.entering (s : State) (t : Team) : Bool :=
  t.state == .halted && t.haltWarp.isSome && t.saveFor.isNone && s.teamStopped t && !s.haltWaits t

/-- HANDLER_ENTRY (R333): handle, team. -/
def execHandlerEntry (s : State) : Host.Outcome State Fault Refusal :=
  .next (match s.team s.ev.a s.ev.b with
    | some t => if s.entering t then s.enterHandler t else s
    | none => s)

/-- The watchdog of a warp's handler has expired. -/
def State.watchdogDue (s : State) (core slot : Nat) : Bool :=
  match (s.warp core slot).handler with
  | some h => decide (h.due ≤ (s.core core).vc)
  | none => false

/-- HANDLER_WATCHDOG_EXPIRY (R337): core, slot. -/
def execHandlerWatchdogExpiry (s : State) : Host.Outcome State Fault Refusal :=
  let e := s.ev
  .next (match s.teamOf (s.warp e.a e.b) with
    | some t => if s.watchdogDue e.a e.b then s.escalate t e.a e.b 0x21 0 else s
    | none => s)

/-! ### Journal replay (R340, R341) -/

/-- A command enters its engine again, whole, under a new number. -/
def State.reenter (s : State) (core : Nat) (c : Cmd) : State :=
  let s := s.freeCmd core c
  let seq := (s.core core).nextSeq
  let n : Cmd := { c with stage := (if c.stage = .partly then .partly else .queued), started := false, abnd := false, mark := false, rep := 0,
                          status := 0, chunk := 0, out := 0, srcPos := 0, dstPos := 0, fault := none, fork := [], readDone := false }
  let s := s.addCmd core n
  let s := s.modCore core (fun k => { k with hits := k.hits.filter (fun h => h.seq != c.seq) })
  match c.pay with
  | .matrix m =>
    s.modPair (core / 2) (fun p => { p with
      q0 := p.q0 ++ [(seq, p.mc)], order := if m.usesTile then p.order ++ [(m.tile, .cmd seq)] else p.order })
  | _ => s

/-- Replay of a command is ambiguous: a once-only copy or a joined one that had started. -/
def Cmd.ambiguous (c : Cmd) : Bool := c.started && ((c.eng == 1 && c.once) || c.mark)

/-- The entry of an ambiguous command is resolved: freed, its cause held; at `eret` its flag falls. -/
def State.ambiguity (s : State) (core : Nat) (c : Cmd) (dec : Bool) : State :=
  let s := if dec then s.flagDec core c.slot c.handle c.team c.sig else s
  (s.freeCmd core c).holdAsync c.handle c.team { seq := c.seq, widx := c.widx, cause := 0x16, info := BitVec.ofNat 64 c.seq }

/-- The unjoined markers of a team's warps over commands of some engines are pushed again (R273). -/
def State.remark (s : State) (t : Team) (l : List Cmd) : State :=
  s.modCore t.core (fun k => (k.markers.filter (fun m => l.any (fun c => c.under m.queue m.slot))).foldl (fun k m => k.pushMarker m.slot m.queue) k)

/-- Replay the abandoned commands of a team, the oldest first, as a core lists them (R340); the markers follow. -/
def State.replayJournal (s : State) (t : Team) (dec : Bool) : State :=
  let l := (s.core t.core).cmds.filter (fun c => c.handle == t.handle && c.team == t.idx && c.abnd)
  let s := l.foldl (fun s c => if c.ambiguous then s.ambiguity t.core c dec else s.reenter t.core c) s
  s.remark t l

/-- Deliver the first cause held for a running team. -/
def State.deliverHeld (s : State) (h i : Nat) : State :=
  match s.team h i with
  | some t => match t.heldAsync with
    | a :: r => if t.state = .running then (s.modTeam h i (fun t => { t with heldAsync := r })).takeAsync t a else s
    | [] => s
  | none => s

/-- What follows a resumption (R336): a held cause is delivered; with none held the journal is replayed, and its first
ambiguity delivered. -/
def State.afterResume (s : State) (h i : Nat) : State :=
  match s.team h i with
  | none => s
  | some t =>
    if t.state ≠ .running then s
    else if t.heldAsync.isEmpty then (s.replayJournal t true).deliverHeld h i
    else s.deliverHeld h i

/-! ### eret (R336) -/

/-- After a skipped vector load the destination is full once nothing else writes it. -/
def State.dropReplay (s : State) (core slot path : Nat) : State :=
  match (s.warp core slot).path path with
  | some p => match p.replay with
    | some (_, _, d) =>
      let s := s.modPath core slot path (fun p => { p with replay := none })
      if (s.core core).stillWriting slot d then s else s.modWarp core slot (fun w => w.full d)
    | none => s
  | none => s

/-- A producer is given up for its failed lanes (R427): its destination is full unless something else still writes it, an acquire's second step follows,
and a path that waits for it goes on. -/
def State.skipProducer (s : State) (core : Nat) (q : LongOp) : State :=
  let s := if (s.core core).stillWriting q.slot q.dest then s else s.modWarp core q.slot (fun w => w.full q.dest)
  (if q.kind.acq then s.modCore core (fun k => k.dropClean (fun _ => true)) else s).opDone core q.slot q.id

/-- The return from a handler. -/
def Ctx.eret (c : Ctx) (s : State) (skip : Bool) : State :=
  match c.w.handler, s.teamOf c.w with
  | some h, some t =>
    let s := s.returnFromHandler c skip
    match s.team t.handle t.idx with
    | some u =>
      if u.state ≠ .running then s
      else
        let s := match h.halt.producer with
          | some q => if skip then s.skipProducer c.core q else s.reissue c.core q
          | none => if skip && !h.halt.async then s.dropReplay c.core c.slot h.halt.path else s
        (s.haltSet t).foldl (fun s v => s.afterResume v.handle v.idx) s
    | none => s
  | _, _ => s

/-- `eret` and `eret.skip`: legal in a handler only. -/
def eretOp (s : State) (f : FmtA) (skip : Bool) : Host.Outcome State Fault Refusal :=
  s.run fun c => do
    c.needs .supervisor
    if !c.on f.g then .ok (s.advance c)
    else if c.svc || !c.p.handler then trapS 0x01 (illegalInfo 0x07 40)
    else .ok (c.eret s skip)

/-- R336. -/
def execEret (f : FmtA) (s : State) : Host.Outcome State Fault Refusal := eretOp s f false

/-- R336: the interrupted path goes on after the trapping instruction. -/
def execEretSkip (f : FmtA) (s : State) : Host.Outcome State Fault Refusal := eretOp s f true

end Sys2Proof.Machine
end

