-- ==== Sys2Proof/Machine/Clocks.lean ====
section
/-!
DEFINITION. Leases, boosts, power and clock ratios (R279 to R305): what a core's clock, a rail and the arbiter do on their own,
and `lease`, `tleft` and `clkreq`.
-/

namespace Sys2Proof.Machine

open Sys2Proof

/-- Reference time of some microseconds. -/
def micros (n : Nat) : Nat := n * 1000 * refUnit

/-! ### Leases (R279, R280, R284, R288) -/

/-- R288: `lease` and `lease.fix`. -/
def execLease (f : FmtI) (s : State) : Host.Outcome State Fault Refusal :=
  scalarDo s f.g [] fun c s =>
    .ok (s.modWarp c.core c.slot (fun w => { w with units := f.imm.toNat % 256, decl := true, fix := f.imm.getLsbD 8, measSkip := false }))

/-- R288: `lease.meas`: the interval at hand leaves the lease as it is. -/
def execLeaseMeas (f : FmtI) (s : State) : Host.Outcome State Fault Refusal :=
  scalarDo s f.g [] fun c s => .ok (s.modWarp c.core c.slot (fun w => { w with decl := false, fix := false, measSkip := true }))

/-- A warp at the end of a measuring interval (R280). -/
def Warp.measured (w : Warp) : Warp :=
  let n := max 1 (min w.sampled.length 128)
  let u := if w.decl || w.measSkip then w.units else if w.measPart then max w.units n else n
  { w with units := u, sampled := [], measSkip := false, measPart := false }

/-- MEASURING_INTERVAL_END (R280): core. -/
def execMeasuringIntervalEnd (s : State) : Host.Outcome State Fault Refusal :=
  .next (s.modCore s.ev.a (fun k =>
    if k.vc < k.measAt then k
    else { k with measAt := (k.vc / 8192 + 1) * 8192, warps := smapv {} (fun w => if w.live then w.measured else w) k.warps }))

/-- The lowest rank of a core's warps of one priority. -/
def State.lowestRank (s : State) (core prio : Nat) : Int :=
  let k := s.core core
  ((k.slots.filter (fun sl => s.prioOf (k.warp sl).handle == prio)).map (fun sl => (k.warp sl).rank)).foldl min k.rankTop

/-- WARP_ROTATION (R284): core, slot. -/
def execWarpRotation (s : State) : Host.Outcome State Fault Refusal :=
  let e := s.ev
  let w := s.warp e.a e.b
  .next (if w.parked < 65536 then s
    else s.modWarp e.a e.b (fun w => { w with rank := s.lowestRank e.a (s.prioOf w.handle) - 1, rot := satInc w.rot 65535 1, parked := 0 }))

/-! ### The issue choice (R290, R293) -/

/-- PATH_BOOST (R290): core, slot, path. -/
def execPathBoost (s : State) : Host.Outcome State Fault Refusal :=
  .next (s.modPath s.ev.a s.ev.b s.ev.c (fun p => if 256 ≤ p.cand then { p with boosted := true } else p))

/-- GREEDY_LIMIT (R290): core, pipe. A path that has held decoder 0 for 64 vc is preferred no longer. -/
def execGreedyLimit (s : State) : Host.Outcome State Fault Refusal :=
  .next (s.modCore s.ev.a (fun k => { k with greedy := smod (0, 0, 0) k.greedy s.ev.b (fun g => (g.1, min g.2.1 64, g.2.2)) }))

/-- POWER_FORCED_ISSUE (R293): core, slot, path. -/
def execPowerForcedIssue (s : State) : Host.Outcome State Fault Refusal :=
  .next (s.modPath s.ev.a s.ev.b s.ev.c (fun p => if 4096 ≤ p.powerHeld then { p with forced := true } else p))

/-! ### Slew and droop (R294) -/

/-- The partitions with a core in a cluster. -/
def State.partsOfCluster (s : State) (cl : Nat) : List Nat := dedup (((List.range 8).map (fun i => 8 * cl + i)).filterMap s.partOfCore)

/-- A droop withholds issue on a cluster of the partition. -/
def State.droopOn (s : State) (p : Nat) : Bool := s.rails.any (fun r => r.2.withheld.any (fun q => (s.partsOfCluster q.1).contains p))

/-- SLEW_WINDOW_END (R294): partition. -/
def execSlewWindowEnd (s : State) : Host.Outcome State Fault Refusal :=
  let win := 32 * refUnit
  .next (s.modPart s.ev.a (fun p =>
    if s.pkg.now < p.slewAt then p
    else { p with d0 := if s.pkg.now < p.slewAt + win then p.d1 else 0, d1 := 0, withheld := false, drooped := s.droopOn s.ev.a,
                  swith := if p.withheld || p.drooped then satInc p.swith (2 ^ 32 - 1) 1 else p.swith, slewAt := (s.pkg.now / win + 1) * win }))

/-- The clusters of a rail. -/
def railClusters (r : Nat) : List Nat := [2 * r, 2 * r + 1]

/-- A cluster loses half its QUANT while its rail has tripped; a further trip takes no more (R294). -/
def Cluster.halve (k : Cluster) : Cluster :=
  if k.lost ≠ 0 then k else { k with quant := k.quant - k.quant / 2, lost := k.quant / 2 }

/-- Bring the clusters of a rail up to now, then change them. -/
def State.modRailClusters (s : State) (r : Nat) (f : Cluster → Cluster) : State :=
  (railClusters r).foldl (fun s cl => (s.gainPower cl).modCluster cl f) s

/-- DROOP_TRIP (R294): rail. -/
def execDroopTrip (s : State) : Host.Outcome State Fault Refusal :=
  let r := s.ev.a
  let rose := fun (p : Nat) => decide ((s.part p).d0 + (s.part p).slew / 2 < (s.part p).d1)
  let hit := (railClusters r).filter (fun cl => (s.partsOfCluster cl).any rose)
  let until_ := s.pkg.now + 64 * refUnit
  .next (if hit.isEmpty then
      ((s.modRail r (fun k => { k with halfUntil := some (s.pkg.now + micros 1) })).modRailClusters r Cluster.halve).logEvent 1 r
    else
      let s := s.modRail r (fun k => { k with withheld := hit.map (fun cl => (cl, until_)) ++ k.withheld.filter (fun q => !hit.contains q.1) })
      (dedup (hit.flatMap (fun cl => (s.partsOfCluster cl).filter rose))).foldl (fun s p =>
        s.modPart p (fun q => { q with drooped := true, trips := satInc q.trips 65535 1 })) s)

/-- DROOP_WITHHOLD_END (R294): rail. -/
def execDroopWithholdEnd (s : State) : Host.Outcome State Fault Refusal :=
  .next (s.modRail s.ev.a (fun r => { r with withheld := r.withheld.filter (fun q => decide (s.pkg.now < q.2)) }))

/-- QUANT_RESTORE (R294): rail. -/
def execQuantRestore (s : State) : Host.Outcome State Fault Refusal :=
  let r := s.ev.a
  .next (match (s.rail r).halfUntil with
    | some t =>
      if t ≤ s.pkg.now then
        (s.modRail r (fun k => { k with halfUntil := none })).modRailClusters r (fun k => { k with quant := k.quant + k.lost, lost := 0 })
      else s
    | none => s)

/-! ### Ratio events (R302, R305) -/

/-- A ratio event of a team: EVT, ECNT, and the flags of the arms outstanding. -/
def State.ratioEvent (s : State) (t : Team) : State :=
  let rsig := match s.launch t.handle with | some l => l.rsig | none => 15
  t.slots.foldl (fun s sl =>
    let w := s.warp t.core sl
    if !w.live then s
    else
      let s := s.modWarp t.core sl (fun w => { w with evt := true, ecnt := satInc w.ecnt 65535 1, arms := 0 })
      if rsig = 15 then s else s.modWarp t.core sl (fun x => x.fw rsig (x.fr rsig - w.arms))) s

/-- Ratio events of the teams whose `clkgrant` fields are no longer what they were in `old`. -/
def State.ratioEvents (s old : State) : State :=
  (s.teams.filter (fun t => !t.slots.isEmpty && s.grantWord t.core != old.grantWord t.core)).foldl (fun s t => s.ratioEvent t) s

/-- R304: the estimate, readable after 2 vc. -/
def execTleft (f : FmtA) (s : State) : Host.Outcome State Fault Refusal :=
  scalarDo s f.g [.xs f.s1 24 1] fun c s =>
    .ok (s.land c 2 (.csr 0x00A (32 * c.core + c.slot) (BitVec.ofNat 64 (min (c.xv f.s1).toNat (2 ^ 32 - 1)))))

/-- EVT of the issuing team is cleared. -/
def State.clearEvt (s : State) (c : Ctx) : State :=
  match s.teamOf c.w with
  | some t => t.slots.foldl (fun s sl => s.modWarp t.core sl (fun w => { w with evt := false })) s
  | none => s

/-- R305: the launch's class is requested anew, and the arbiter runs. -/
def execClkreq (f : FmtA) (s : State) : Host.Outcome State Fault Refusal :=
  scalarDo s f.g [.xs f.s1 24 1, .xs f.s2 16 1] fun c s =>
    let s := (s.clearEvt c).modLaunch c.w.handle (fun l => { l with ocstep := bits (c.xv f.s1) 15 0, ocwt := bits (c.xv f.s2) 15 0 })
    .ok (s.soon [{ step := .arbiterRun, a := 0 }, { step := .arbiterRun, a := 1 }])

/-- R305: an arm on RSIG. -/
def execClkreqArm (f : FmtA) (s : State) : Host.Outcome State Fault Refusal :=
  scalarDo s f.g [] fun c s => do
    let rsig := match s.launch c.w.handle with | some l => l.rsig | none => 15
    let s ← c.flagInc s rsig
    .ok ((s.modWarp c.core c.slot (fun w => if rsig = 15 then w else { w with arms := w.arms + 1 })).clearEvt c)

/-! ### Pools (R295) -/

/-- Teams resident on a cluster. -/
def State.teamsIn (s : State) (cl : Nat) : List Team := s.teams.filter (fun t => !t.slots.isEmpty && clusterOf t.core == cl)

/-- The class of a team's launch. -/
def State.classOf (s : State) (t : Team) : Option (Nat × Nat) := (s.launch t.handle).map (fun l => (l.ocstep, l.ocwt))

/-- Take a cluster out of its pool; a pool without a cluster is gone. -/
def Die.leavePool (d : Die) (cl : Nat) : Die :=
  { d with pools := (d.pools.map (fun q => { q with clusters := q.clusters.filter (fun c => c != cl) })).filter (fun q => !q.clusters.isEmpty) }

/-- The lowest pool number not in use. -/
def Die.freePool (d : Die) : Nat := ((List.range 16).find? (fun n => !d.pools.any (fun q => q.num == n))).getD 15

/-- A cluster joins the pool of a class, which it forms where the die has none. -/
def Die.joinPool (d : Die) (cl p : Nat) (cls : Nat × Nat) : Die :=
  let d := d.leavePool cl
  let mine := fun (q : Pool) => q.part == p && q.ocstep == cls.1 && q.ocwt == cls.2
  if d.pools.any mine then { d with pools := modWhere mine (fun q => { q with clusters := q.clusters ++ [cl] }) d.pools }
  else { d with pools := d.pools ++ [{ num := d.freePool, part := p, ocstep := cls.1, ocwt := cls.2, clusters := [cl] }] }

/-- Clusters whose resident teams are all of one class join that class's pool. -/
def State.rejoin (s : State) (d : Nat) : State :=
  ((List.range 16).map (fun i => 16 * d + i)).foldl (fun s cl =>
    match (s.teamsIn cl).map (fun t => (s.classOf t).map (fun c => (c, t.part))) with
    | some (c, p) :: l =>
      let here := (s.die d).pools.any (fun q => q.clusters.contains cl && q.part == p && q.ocstep == c.1 && q.ocwt == c.2)
      if l.all (fun x => x == some (c, p)) && !here then s.modDie d (fun k => k.joinPool cl p c) else s
    | _ => s) s

/-- A launch has teams to place on a die. -/
def Launch.toPlace (l : Launch) (d : Nat) : Bool :=
  decide (l.started < l.count) && (if l.split = 2 then d == 1 || decide (l.started < l.count / 2) else (l.dies l.started).contains d)

/-- A class with teams to place and no pool takes the lowest-numbered cluster of its partition without a resident team. -/
def State.formPools (s : State) (d : Nat) : State :=
  (s.launches.filter (fun l => l.state == .accepted && l.toPlace d)).foldl (fun s l =>
    if (s.die d).pools.any (fun q => q.part == l.part && q.ocstep == l.ocstep && q.ocwt == l.ocwt) then s
    else match ((List.range 16).map (fun i => 16 * d + i)).find? (fun cl => (s.partsOfCluster cl).contains l.part && (s.teamsIn cl).isEmpty) with
      | some cl => (s.modDie d (fun k => k.joinPool cl l.part (l.ocstep, l.ocwt))).modCluster cl (fun k => { k with idleSince := s.pkg.now })
      | none => s) s

/-! ### The grant (R296 to R298) -/

/-- Cluster power of a tuple, in units of 0.1 W. -/
def tuplePower (g : Nat) : Nat := 80 + 12 * (g % 16 + 1) + 9 * (g / 16 % 16 + 1) + 3 * (g / 256 % 16 + 1) + 2 * (g / 4096 + 1)

/-- What orders the tuples of one cost: power, then gm, gv, gn, gy. -/
def tupleTie (g : Nat) : Nat := (tuplePower g) * 2 ^ 16 + g % 16 * 2 ^ 12 + g / 16 % 16 * 2 ^ 8 + g / 256 % 16 * 2 ^ 4 + g / 4096

/-- The tuple of least cost within a cap, for the classes of a pool's launches; a pool too hot takes step 0 in matrix and
vector (R409). -/
def bestTuple (cap : Nat) (cold : Bool) (ls : List (Nat × Nat)) : Nat :=
  let cost := fun (g : Nat) => ls.foldl (fun n l => n + tupleCost l.1 l.2 g) 0
  ((List.range 65536).foldl (fun (b : Option (Nat × Nat)) g =>
    if cap < tuplePower g ∨ (cold = true ∧ g % 256 ≠ 0) then b
    else
      let k := (cost g, tupleTie g)
      match b with
      | none => some (k.1, g)
      | some (c, h) => if k.1 < c ∨ k.1 = c ∧ k.2 < tupleTie h then some (k.1, g) else b) none).elim 0 (fun q => q.2)

/-- The launches of a pool: those with a team in it, and those whose teams are to be placed in it (R295). -/
def State.poolLaunches (s : State) (q : Pool) (d : Nat) : List Launch :=
  s.launches.filter (fun l => l.part == q.part && l.state == .accepted &&
    (s.teams.any (fun t => t.handle == l.handle && !t.slots.isEmpty && q.clusters.contains (clusterOf t.core)) ||
      (l.toPlace d && (match s.poolFor l d with | some x => x.num == q.num | none => false))))

/-- The cap that the arbiter uses for a cluster (R409). -/
def Cluster.capNow (k : Cluster) : Nat := if k.hot then max 106 (k.cap * 9 / 10) else k.cap

/-- The cap of a pool. -/
def State.poolCap (s : State) (q : Pool) : Nat := (q.clusters.map (fun c => (s.cluster c).capNow)).foldl min 65535

/-- The voltage that a cluster votes for its steps: modelled as the higher of them (log 33). -/
def Cluster.vote (k : Cluster) : Nat :=
  let now := max k.gm k.gv
  match k.pending with | some (m, v, _) => max now (max m v) | none => now

/-- The highest vote of a rail. -/
def State.railVote (s : State) (r : Nat) : Nat := (railClusters r).foldl (fun n cl => max n (s.cluster cl).vote) 0

/-- A rail that nobody needs as high any more, every frequency ceiling acknowledged, falls 50 µs later to its highest vote; a
fall below what is voted again does not come (R301). -/
def State.railCheck (s : State) (r : Nat) : State :=
  let v := s.railVote r
  s.modRail r (fun k =>
    let l := k.falls.filter (fun q => decide (v ≤ q.2))
    { k with falls := if v < k.volt && !l.any (fun q => q.2 == v) then l ++ [(s.pkg.now + micros 50, v)] else l })

/-- A cluster of a pool is too hot for any step but 0 (R409). -/
def State.tooHot (s : State) (q : Pool) : Bool := q.clusters.any (fun c => (s.cluster c).veryHot)

/-- The tuple that a pool is granted for its launches: the one of least cost; without a launch what it has, at step 0 in matrix and
vector where it is too hot (R409, log 34). -/
def State.poolTuple (s : State) (q : Pool) (ls : List Launch) : Nat :=
  if ls.isEmpty then (if s.tooHot q then 0 else q.gm + q.gv * 16) + q.gn * 256 + q.gy * 4096
  else bestTuple (s.poolCap q) (s.tooHot q) (ls.map (fun l => (l.ocstep, l.ocwt)))

/-- Grant a tuple to a pool for its launches: QUANT of its clusters, and the changes of gm and gv that they are to apply (R298, R299). -/
def State.grant (s : State) (d : Nat) (q : Pool) (ls : List Launch) : State :=
  let cap := s.poolCap q
  let g := s.poolTuple q ls
  let gm := g % 16
  let gv := g / 16 % 16
  let s := s.modDie d (fun k => { k with pools := modWhere (fun x => x.num == q.num) (fun x =>
    { x with gm := gm, gv := gv, gn := g / 256 % 16, gy := g / 4096 }) k.pools })
  let quant := (cap - 80) * 10000 / (900 + 100 * gv)
  q.clusters.foldl (fun s cl =>
    let s := (s.gainPower cl).modCluster cl (fun k =>
      let k := { k with quant := quant, lost := 0, pending := if k.gm = gm ∧ k.gv = gv then none else some (gm, gv, s.pkg.now) }
      if (s.rail (cl / 2)).halfUntil.isSome then k.halve else k)
    s.railCheck (cl / 2)) s

/-- Steps of a die: the highest of its pools (R297). -/
def Die.settleSteps (d : Die) : Die :=
  { d with an := d.pools.foldl (fun n q => max n q.gn) 0, ay := d.pools.foldl (fun n q => max n q.gy) 0 }

/-- ARBITER_RUN (R295 to R298): die. A pool that no launch asks anything of keeps its grant (log 34), but for one too hot. -/
def execArbiterRun (s : State) : Host.Outcome State Fault Refusal :=
  let d := s.ev.a
  let t := (s.rejoin d).formPools d
  let l := ((t.die d).pools.map (fun q => (q, t.poolLaunches q d))).filter (fun x => !x.2.isEmpty || t.tooHot x.1)
  let t := l.foldl (fun t x => t.grant d x.1 x.2) t
  .next ((t.modDie d (fun k => { k.settleSteps with arbAt := s.pkg.now + micros 100 })).ratioEvents s)

/-- A cluster without a resident team for 50 µs that is still in a pool; the time counts from the forming of the pool where that is
later (log 35). -/
def State.idleDue (s : State) (cl : Nat) : Bool :=
  (s.poolOf cl).isSome && (s.teamsIn cl).isEmpty && decide ((s.cluster cl).idleSince + micros 50 ≤ s.pkg.now)

/-- CLUSTER_IDLE_RELEASE (R295): cluster. It leaves its pool and runs at step 0. -/
def execClusterIdleRelease (s : State) : Host.Outcome State Fault Refusal :=
  let cl := s.ev.a
  .next (if s.idleDue cl then
      let t := s.modDie (cl / 16) (fun d => (d.leavePool cl).settleSteps)
      ((t.modCluster cl (fun k => { k with pending := if k.gm = 0 ∧ k.gv = 0 then none else some (0, 0, s.pkg.now) })).railCheck (cl / 2)).ratioEvents s
    else s)

/-! ### Applying a grant (R299 to R301) -/

/-- No matrix command computes on a pair of the cluster (R299). -/
def State.quiet (s : State) (cl : Nat) : Bool := (List.range 4).all (fun i =>
  let p := s.pair (4 * cl + i)
  match p.run with | some r => decide (r.endsAt ≤ p.mc) && (match s.matCmd (4 * cl + i) r.seq with | some (_, m) => decide (m.chunks ≤ r.chunk + 1) | none => true) | none => true)

/-- GRANT_APPLY (R299, R300): cluster. Once quiet, the rail rises where it must; then the clocks relock. -/
def execGrantApply (s : State) : Host.Outcome State Fault Refusal :=
  let cl := s.ev.a
  let k := s.cluster cl
  .next (match k.pending with
    | none => s
    | some (m, v, _) =>
      if !s.quiet cl || k.relockUntil.isSome then s
      else if (s.rail (cl / 2)).volt < max m v then
        s.modRail (cl / 2) (fun r => if r.rises.any (fun q => decide (max m v ≤ q.2)) then r
          else { r with rises := r.rises ++ [(s.pkg.now + micros 20, max m v)] })
      else (s.gainPower cl).modCluster cl (fun k => { k with relockUntil := some (s.pkg.now + micros 2) }))

/-- QUIESCENCE_TIMEOUT (R299): cluster. The change waits for the arbiter's next run. -/
def execQuiescenceTimeout (s : State) : Host.Outcome State Fault Refusal :=
  let cl := s.ev.a
  .next (match (s.cluster cl).pending with
    | some (_, _, t) => if t + micros 50 ≤ s.pkg.now ∧ s.quiet cl = false then (s.modCluster cl (fun k => { k with pending := none })).railCheck (cl / 2) else s
    | none => s)

/-- RAIL_SETTLED (R300, R301): rail. Each rise settles 20 µs after the vote it follows. -/
def execRailSettled (s : State) : Host.Outcome State Fault Refusal :=
  let r := s.ev.a
  .next ((s.modRail r (fun k => { k with
    volt := (k.rises.filter (fun q => decide (q.1 ≤ s.pkg.now))).foldl (fun n q => max n q.2) k.volt,
    rises := k.rises.filter (fun q => decide (s.pkg.now < q.1)) })).railCheck r)

/-- RELOCK_COMPLETE (R300, R301): cluster. The new steps run, but not steps above the rail's voltage, for which a grant made
meanwhile goes on waiting; a rail that nobody needs as high falls 50 µs later. -/
def execRelockComplete (s : State) : Host.Outcome State Fault Refusal :=
  let cl := s.ev.a
  let k := s.cluster cl
  .next (match k.relockUntil with
    | none => s
    | some t =>
      if s.pkg.now < t then s
      else
        let volt := (s.rail (cl / 2)).volt
        let s := s.modCluster cl (fun k => match k.pending with
          | some (m, v, _) => if max m v ≤ volt then { k with relockUntil := none, gm := m, gv := v, pending := none } else { k with relockUntil := none }
          | none => { k with relockUntil := none })
        let s := s.modCluster cl (fun k => { k with at_ := k.at_ + micros 2 })
        let s := (List.range 4).foldl (fun s i => s.modPair (4 * cl + i) (fun p => { p with mcAt := p.mcAt + micros 2 })) s
        s.railCheck (cl / 2))

/-- RAIL_LOWER (R301): rail. -/
def execRailLower (s : State) : Host.Outcome State Fault Refusal :=
  let r := s.ev.a
  .next (s.modRail r (fun k => { k with
    volt := (k.falls.filter (fun q => decide (q.1 ≤ s.pkg.now))).foldl (fun n q => min n (max q.2 (s.railVote r))) k.volt,
    falls := k.falls.filter (fun q => decide (s.pkg.now < q.1)) }))

end Sys2Proof.Machine
end

