-- ==== Sys2Proof/Machine/Control.lean ====
section
/-!
DEFINITION. Row 0x0: control transfers, splits, re-fusion, exit, traps and prefetch (R31, R70, R75 to R77, R290).
-/

namespace Sys2Proof.Machine

open Sys2Proof

/-- The J-format target: the base of the instruction's block plus 64 x OFF (R36). -/
def Ctx.jTarget (c : Ctx) (f : FmtJ) : Word := blockBase c.p.pc + (f.off.signExtend 64 <<< 6)

/-- Branch to a target where `take` holds, else go on at the next word. -/
def branchOp (s : State) (ops : List Opnd) (take : Ctx → Bool) (target : Ctx → Word) : Host.Outcome State Fault Refusal :=
  s.run fun c => do
    let s ← c.begin s none ops
    if take c then s.jump c (target c) else .ok (s.advance c)

/-- R76: unconditional. -/
def execBr (f : FmtJ) (s : State) : Host.Outcome State Fault Refusal := branchOp s [] (fun _ => true) (·.jTarget f)

/-- R76: the guard holds in at least one active lane. -/
def execBrany (f : FmtJ) (s : State) : Host.Outcome State Fault Refusal := branchOp s [] (·.on f.g) (·.jTarget f)

/-- R76: the guard holds in every active lane. -/
def execBrall (f : FmtJ) (s : State) : Host.Outcome State Fault Refusal :=
  branchOp s [] (fun c => decide (c.guard f.g = c.p.mask)) (·.jTarget f)

/-- R76: block base plus a signed register. -/
def execBrx (f : FmtA) (s : State) : Host.Outcome State Fault Refusal :=
  branchOp s [.xs f.s1 24 1] (·.on f.g) (fun c => blockBase c.p.pc + c.xv f.s1)

/-- R76: a module offset. -/
def execJmpx (f : FmtA) (s : State) : Host.Outcome State Fault Refusal :=
  branchOp s [.xs f.s1 24 1] (·.on f.g) (fun c => c.xv f.s1)

/-- R76: x63 by default. -/
def execRet (f : FmtA) (s : State) : Host.Outcome State Fault Refusal :=
  branchOp s [.xs f.s1 24 1] (·.on f.g) (fun c => c.xv f.s1)

/-- R21, R76: the link is the offset of the next block. -/
def execCall (f : FmtJ) (s : State) : Host.Outcome State Fault Refusal :=
  s.run fun c => do
    let s ← c.begin s none [.xd 63]
    if c.on f.g then (s.landX c 2 63 (blockBase c.p.pc + 64)).jump c (c.jTarget f) else .ok (s.advance c)

/-- R70: the path splits by the guard, whatever its value; a full stack refuses with divergence-overflow. -/
def execBrc (f : FmtJ) (s : State) : Host.Outcome State Fault Refusal :=
  s.run fun c => do
    let m := c.guard f.g
    if 64 ≤ c.w.stack.length then trapS 0x0D (BitVec.ofNat 64 (splitToken c.p.pc))
    else if m ≠ 0 ∧ c.p.csize ≤ (c.jTarget f).toNat then trapS 0x04 (c.jTarget f)
    else .ok ((s.modWarp c.core c.slot (fun w => w.split c.issuer m (c.jTarget f) c.vc)).syncStack c.core c.slot c.w.stack)

/-- R75: the arriving path waits until ARRIVED covers its entry; without an entry it goes on. -/
def execRejoin (f : FmtI) (s : State) : Host.Outcome State Fault Refusal :=
  s.run fun c => do
    match c.p.entry.bind (fun i => c.w.stack.find? (fun e => e.id == i)) with
    | none => .ok (s.advance c)
    | some e =>
      if e.token ≠ f.imm.toNat then trapS 0x0E (BitVec.ofNat 64 e.token)
      else
        let w := c.w.modPath c.p.id (fun _ => { c.issuer with wait := .rejoin e.token })
        let w := { w with stack := w.stack.map (fun x => if x.id = e.id then { x with arrived := x.arrived ||| c.p.mask } else x) }
        .ok (((s.setWarp c.core c.slot w).syncStack c.core c.slot c.w.stack).settle c.core c.slot)

/-- R77: one count is consumed, the window rotates, p8 (named after the rotation) tells whether `lc` was left. -/
def execLoop (f : FmtJ) (s : State) : Host.Outcome State Fault Refusal :=
  s.run fun c => do
    if c.on f.g then
      let was := c.w.lc
      let lc := was - 1
      let ec := if was ≠ 0 then c.w.ec else c.w.ec - 1
      let rrb := (c.p.rrb + 63) % 64
      let s := if was ≠ 0 then s.land c 1 (.lc lc) else if c.w.ec ≠ 0 then s.land c 1 (.ec ec) else s
      let s := (s.land c 1 (.rrb c.p.id rrb)).land c 1 (.p (physP rrb 8) c.p.mask (if was ≠ 0 then BitVec.allOnes 64 else 0))
      if 0 < lc ∨ 0 < ec then s.jump c (c.jTarget f) else .ok (s.advance c)
    else .ok (s.advance c)

/-- The team that ends with the guarded lanes of the issuing warp. -/
def Ctx.lastOf (c : Ctx) (s : State) (m : Mask) : Option Team :=
  (s.teamOf c.w).bind (fun t => if c.w.lanes &&& ~~~m = 0 ∧ (s.liveWarps t).all (fun q => q.1 == c.slot) = true then some t else none)

/-- The guarded lanes of the issuing path terminate. On a service core the thread ends (R50). The end of a team's last lanes awaits its
writes to link peers, and meets their errors (R393). -/
def Ctx.exits (c : Ctx) (s : State) (m : Mask) : Try State :=
  let slots := match c.lastOf s m with | some t => t.slots | none => []
  if s.ports.any (fun p => p.2.txns.any (fun t => t.write && t.core == c.core && slots.contains t.slot)) then stall .phase s
  else if slots.any (s.linkError c.core) then .ok ((slots.foldl (fun s sl => s.clearLinkError c.core sl) s).takeTrap c 0x14 0 none [])
  else .ok ((s.advance c).exitLanes c.core c.slot c.p.id m)

/-- R76: the guarded lanes terminate. -/
def execExit (f : FmtA) (s : State) : Host.Outcome State Fault Refusal := s.run fun c => c.exits s (c.guard f.g)

/-- R76: software-trap with the immediate, resuming at the next block (R21). -/
def execTrap (f : FmtI) (s : State) : Host.Outcome State Fault Refusal :=
  s.run fun c => do
    if c.on f.g then trapS 0x10 (f.imm.setWidth 64) else .ok (s.advance c)

/-- R290: the path is the youngest of its pipe until it next issues, and a greedy run ends. -/
def execYield (f : FmtA) (s : State) : Host.Outcome State Fault Refusal :=
  s.run fun c => do
    if c.on f.g then
      let s := s.modCore c.core (fun k => { k with greedy := sput (0, 0, 0) k.greedy (pipeOf c.slot) (0, 0, 0) })
      .ok ((s.modCur c (fun p => { p with yielded := some c.vc })).advance c)
    else .ok (s.advance c)

/-! ### ipref (R31) -/

/-- A code block to prefetch, and the state after its read: what L2I or L3I holds, else what its home holds; none where its
translation faults or its check word mismatches. -/
def State.codeBlock (s : State) (c : Ctx) (off : Nat) : Option Block × State :=
  let va := c.p.blockVa off
  let vf := (s.teamOf c.w).elim 0 (fun t => t.vf)
  let read := fun (pa : Nat) (cmp : Bool) (cls : Nat) (v : Option Nat) =>
    (if s.homeBad pa cmp then none else some (.ready (s.homeBytes pa 64 cmp)), s.scRead (lineOf pa) cls v cmp)
  if c.svc then read va false 0 none
  else match s.heldBlock c.core (s.icTag c.core c.p) va, s.partOfCore c.core with
    | some b, _ => (some b, s)
    | none, none => (none, s)
    | none, some q =>
      match s.walk q (s.modCtxVf q c.p.module) c.p.space.toNat (BitVec.ofNat 64 va) 3 false with
      | .ok e =>
        let pa := e.pa (BitVec.ofNat 64 va)
        if s.fotAllows (.hyp q) pa false then read pa e.cmp (teamClass vf) (some vf) else (none, s)
      | _ => (none, s)

/-- Fill a block into a level of the instruction caches and every level below it. -/
def State.fillBlock (s : State) (c : Ctx) (off lv : Nat) : State :=
  match s.codeBlock c off with
  | (none, s) => s
  | (some b, s) =>
    let tag := s.icTag c.core c.p
    let va := c.p.blockVa off
    let add3 := fun (s : State) => s.modDie (dieOf c.core) (fun k => { k with l3i := icAdd 32768 12 k.l3i tag va b })
    let add2 := fun (s : State) => add3 (s.modPair (c.core / 2) (fun k => { k with l2i := icAdd 2048 8 k.l2i tag va b }))
    if c.svc then s.addSvcBlock c.core tag va b
    else match lv with
      | 0 => add2 (s.modCore c.core (fun k => { k with l1i := icAdd 256 4 k.l1i tag va b }))
      | 1 => add2 s
      | _ => add3 s

/-- Fill up to `n` consecutive blocks that lie inside the code segment. -/
def State.fillBlocks (c : Ctx) (lv : Nat) : Nat → Nat → State → State
  | 0, _, s => s
  | n + 1, off, s => if c.p.csize ≤ off then s else State.fillBlocks c lv n (off + 64) (s.fillBlock c off lv)

/-- R31. -/
def execIpref (f : FmtA) (s : State) : Host.Outcome State Fault Refusal :=
  s.run fun c => do
    let s ← c.begin s none [.xs f.s1 24 1, .xs f.s2 16 1]
    let base := (blockBase (c.xv f.s1)).toNat
    .ok ((if c.on f.g then s.fillBlocks c f.md.toNat (min (c.xv f.s2).toNat 4096) base else s).advance c)

end Sys2Proof.Machine
end

