-- ==== Sys2Proof/Machine/Teams.lean ====
section
/-!
DEFINITION. Team and group instructions and their releases (R75, R79 to R85, R263).
-/

namespace Sys2Proof.Machine

open Sys2Proof

/-! ### Arriving -/

/-- The path waits at the point that its word is. Paths at one point share every bit of it but the control field: the model counts the guard field
among the encoded operands that R75 compares (log 18). -/
def State.atPoint (s : State) (c : Ctx) : State :=
  (s.modCur c (fun _ => { c.issuer with wait := .point (c.word.toNat % 2 ^ 48) })).settle c.core c.slot

/-- The issuing team is a member of group `g`, else group-membership (R81). -/
def Ctx.member (c : Ctx) (s : State) (g : Nat) : Try Unit :=
  match s.teamOf c.w, s.launch c.w.handle with
  | some t, some l => if g ≤ 256 ∧ l.member g t.idx = true then .ok () else trapS 0x0C (BitVec.ofNat 64 g)
  | _, _ => trapS 0x0C (BitVec.ofNat 64 g)

/-- R80: the team barrier. -/
def execBar (f : FmtA) (s : State) : Host.Outcome State Fault Refusal :=
  s.run fun c => .ok (if c.on f.g then s.atPoint c else s.advance c)

/-- R81: the group barrier. -/
def execGbar (f : FmtI) (s : State) : Host.Outcome State Fault Refusal :=
  s.run fun c =>
    if c.on f.g then do
      c.member s f.imm.toNat
      .ok (s.atPoint c)
    else .ok (s.advance c)

/-- R83: the group barrier that combines one value per team; S2 holds the group, D receives the result. -/
def execGred (f : FmtA) (s : State) : Host.Outcome State Fault Refusal :=
  s.run fun c => do
    let s ← c.begin s none [.xs f.s1 24 1, .xs f.s2 16 1, .xd f.d]
    if c.on f.g then
      let g := c.xv f.s2
      if 256 < g.toNat then trapS 0x0C g
      else do
        c.member s g.toNat
        .ok (s.atPoint c)
    else .ok (s.advance c)

/-- R274: ends a superstep of a group. -/
def execSstep (f : FmtI) (s : State) : Host.Outcome State Fault Refusal :=
  s.run fun c =>
    if c.on f.g then do
      c.member s f.imm.toNat
      .ok (s.atPoint c)
    else .ok (s.advance c)

/-- R264: the warp fuses whether or not the guard holds; a flag must have room. -/
def execPhase (f : FmtA) (s : State) : Host.Outcome State Fault Refusal :=
  s.run fun c =>
    if c.on f.g && decide (sigOf f.s3 ≠ 15) && decide (63 ≤ c.w.fr (sigOf f.s3)) then stall .flfull s
    else .ok (s.atPoint c)

/-- The identifier of a kind (R84). -/
def Ctx.identValue (c : Ctx) (s : State) (md : Nat) : Nat :=
  match md with
  | 0 => c.w.team
  | 1 => c.w.widx
  | 2 => c.core % 128
  | 3 => dieOf c.core
  | 4 => c.w.handle
  | 5 => match s.launch c.w.handle with | some l => fieldAt l.lpb 4 4 | none => 0
  | _ => match s.teamOf c.w with | some t => t.wpt | none => 0

/-- R84. `.lane` writes each active lane's number under the scalar guard rule. -/
def execIdent (f : FmtA) (s : State) : Host.Outcome State Fault Refusal :=
  s.run fun c => do
    let md := f.md.toNat
    let s ← c.begin s none [if md = 6 then .vd f.d 1 else .xd f.d]
    if !c.on f.g then .ok (s.advance c)
    else if md = 6 then
      .ok ((s.landV c 2 (c.phys (opIdx f.d)) ((lanesOf c.p.mask).map (fun l => (l, BitVec.ofNat 32 l)))).advance c)
    else .ok ((s.landX c 2 (opIdx f.d) (BitVec.ofNat 64 (c.identValue s md))).advance c)

/-- R85: issue is withheld for 64 n vc. -/
def execSleep (f : FmtI) (s : State) : Host.Outcome State Fault Refusal :=
  s.run fun c =>
    .ok (if c.on f.g then (s.advance c).park c (.sleep (c.vc + 64 * f.imm.toNat + 1)) else s.advance c)

/-- SLEEP_END (R85): core, slot, path. -/
def execSleepEnd (s : State) : Host.Outcome State Fault Refusal :=
  let e := s.ev
  .next (s.modPath e.a e.b e.c (fun p => match p.wait with
    | .sleep t => if t ≤ (s.core e.a).vc then { p with wait := .none } else p
    | _ => p))

/-! ### Releases -/

/-- A team whose state is saved or being saved. -/
def Team.out (t : Team) : Bool := t.state == .saving || t.state == .checkpointed

/-- Every warp of a team that has not ended has arrived at its `bar` (R80). -/
def State.barFull (s : State) (t : Team) : Bool :=
  !t.out && decide (t.barMask ≠ 0) && (s.liveWarps t).all (fun q => Nat.testBit t.barMask q.2.widx)

/-- BARRIER_RELEASE (R80, R263): handle, team. The generation advances and the core's boundary is requested; the warps
resume when it completes. -/
def execBarrierRelease (s : State) : Host.Outcome State Fault Refusal :=
  .next (match s.team s.ev.a s.ev.b with
    | some t =>
      if s.barFull t then
        (s.modTeam t.handle t.idx (fun t => { t with barMask := 0, barGen := (t.barGen + 1) % 2 ^ 32 })).modCore t.core
          (fun k => k.request (.bar t.handle t.idx))
      else s
    | none => s)

/-- The die that is the home of a group: the one whose counter is marked so. -/
def State.groupHome (s : State) (h g : Nat) : Option Nat :=
  [0, 1].find? (fun d => match (s.die d).group h g with | some c => c.home | none => false)

/-- A non-home die's members have all arrived and it has not forwarded. -/
def GroupCtr.complete (c : GroupCtr) : Bool := decide (0 < c.memb ∧ c.arr = c.memb)

/-- PISTE_ARRIVAL_FORWARD (R82): die, handle, group. The forwarded arrival and its ACC reach the home. -/
def execPisteArrivalForward (s : State) : Host.Outcome State Fault Refusal :=
  let e := s.ev
  .next (match (s.die e.a).group e.b e.c, s.groupHome e.b e.c with
    | some c, some home =>
      if !c.home && c.complete && !c.forwarded then
        let s := s.modGroup e.a e.b e.c (fun c => { c with forwarded := true })
        if c.op = 0 then s
        else (s.modGroup home e.b e.c (fun k =>
          { k with op := c.op, acc := if k.op = 0 then c.acc else gredOp (c.op - 1) k.acc c.acc })).syncGroup home e.b e.c
      else s
    | _, _ => s)

/-- Every member still to be placed is counted by the counter of a die (R82). -/
def State.membersSeen (s : State) (h g : Nat) : Bool :=
  match s.launch h with
  | none => true
  | some l => (if g = 256 then List.range l.count else l.groups.getD g []).all (fun j =>
      decide (j < l.started) ||
        ((s.die (if fieldAt l.lpb 0x0A 1 / 4 % 4 = 2 ∧ l.count / 2 ≤ j then 1
                 else if fieldAt l.lpb 0x0A 1 / 4 % 4 = 2 then 0 else l.die)).group h g).isSome)

/-- The home releases: its own members have arrived and every other die that holds members has forwarded (R82). -/
def State.groupReady (s : State) (h g : Nat) : Bool :=
  match s.groupHome h g with
  | none => false
  | some home =>
    let ok := fun (d : Nat) => match (s.die d).group h g with
      | some c => decide (c.arr = c.memb) && (d == home || c.memb == 0 || c.forwarded)
      | none => true
    ok 0 && ok 1 && s.membersSeen h g && [0, 1].any (fun d => match (s.die d).group h g with | some c => decide (0 < c.arr) | none => false)

/-- GROUP_RELEASE (R82): handle, group. The release goes to every die that holds members, with the final ACC. -/
def execGroupRelease (s : State) : Host.Outcome State Fault Refusal :=
  let e := s.ev
  .next (if s.groupReady e.a e.b then
      let acc := match (s.groupHome e.a e.b).bind (fun d => (s.die d).group e.a e.b) with | some c => c.acc | none => 0
      s.soon (([0, 1].filter (fun d => ((s.die d).group e.a e.b).isSome)).map
        (fun d => { step := .groupReleaseMessage, a := d, b := e.a, c := e.b, w := acc }))
    else s)

/-- GROUP_RELEASE_MESSAGE (R82, R263): die, handle, group, and the final ACC. The die clears ARR and ACC, increments GEN,
and requests a boundary of every core with a member team that had arrived. -/
def execGroupReleaseMessage (s : State) : Host.Outcome State Fault Refusal :=
  let e := s.ev
  .next (match (s.die e.a).group e.b e.c with
    | none => s
    | some c =>
      let ts := s.teams.filter (fun t => t.handle == e.b && dieOf t.core == e.a && t.arrived.contains e.c)
      let s := (s.modGroup e.a e.b e.c (fun c =>
        { c with arr := 0, acc := 0, op := 0, forwarded := false, gen := (c.gen + 1) % 2 ^ 32 })).syncGroup e.a e.b e.c
      let s := ts.foldl (fun s t => s.modTeam t.handle t.idx (fun t =>
        { t with arrived := t.arrived.filter (fun g => g != e.c), gredPending := if c.op = 0 then none else some e.w,
                 freed := if t.out then e.c :: t.freed else t.freed })) s
      (ts.filter (fun t => !t.out)).foldl (fun s t => s.modCore t.core (fun k =>
        if k.bnext.contains (.group e.b e.c) || k.bserve.contains (.group e.b e.c) then k else k.request (.group e.b e.c))) s)

/-- Resume the warps of a team that stand at a released point: a `gred` result is written to D first (R83). -/
def State.resumeStanding (s : State) (t : Team) (pick : Nat → Warp → Bool) : State :=
  let s := t.slots.foldl (fun s sl =>
    let w := s.warp t.core sl
    match w.standBody with
    | some b =>
      if pick b w then
        let w := if bodyOp b = 0xD2 then (match t.gredPending with | some v => w.xw (b / 2 ^ 32 % 128) v | none => w) else w
        s.setWarp t.core sl { w.resumePoint with grp := none }
      else s
    | none => s) s
  s.modTeam t.handle t.idx (fun t => { t with gredPending := none })

/-- REFUSION_MISMATCH (R75): core, slot. The trap is raised against the path that holds the lowest live lane; that path
has not completed its wait and issues its instruction again on resume. -/
def execRefusionMismatch (s : State) : Host.Outcome State Fault Refusal :=
  let core := s.ev.a
  let slot := s.ev.b
  let w := s.warp core slot
  .next (match w.active with
    | [] => s
    | q :: l =>
      if !w.mismatched then s
      else
        let p := l.foldl lowerPath q
        let s := s.modPath core slot p.id (fun p => { p with wait := .none })
        let k := s.core core
        let c : Ctx := { core := core, slot := slot, k := k, w := k.warp slot, p := { p with wait := .none }, word := 0, size := 1 }
        let cur := s.cur
        { s.takeTrap c 0x0F 0 (some p.mask) [] with cur := cur })

end Sys2Proof.Machine
end

