-- ==== Sys2Proof/Machine/Context.lean ====
section
/-!
DEFINITION. Context slots, checkpoint, kill and restore (R273, R340, R343 to R348): the image of a team in its slot, what a save
takes out of a core and what a restore puts back, with `ctxsave` and `ctxrest`.
-/

namespace Sys2Proof.Machine

open Sys2Proof

/-! ### The slot's image (R74, R343) -/

/-- `n` bits as bytes, the first the least significant. -/
def bitBytes (n : Nat) (f : Nat → Bool) : List Byte :=
  (List.range (n / 8)).map (fun i => BitVec.ofNat 8 ((List.range 8).foldl (fun a k => a + (if f (8 * i + k) then 2 ^ k else 0)) 0))

/-- A path's record: program counter; lanes; `fmt`, `rrb`, skid; the lanes of the pending loads to issue again. -/
def Path.bytes (p : Path) (again : Mask) : List Byte :=
  wordsBytes [p.pc.toNat, p.mask.toNat, p.fmt.toNat + p.rrb % 64 * 2 ^ 32 + p.skid % 4 * 2 ^ 38, again.toNat]

/-- The lanes of a warp's recorded loads that belong to a path. -/
def againOf (longs : List LongOp) (widx path : Nat) : Mask :=
  (longs.filter (fun o => o.slot == widx && o.path == path)).foldl (fun m o => m ||| o.lanes) 0

/-- A warp record, as places in it and bytes. -/
def Warp.image (w : Warp) (longs : List LongOp) : List (Nat × List Byte) :=
  let lease := w.units + b2n w.decl * 2 ^ 8 + b2n w.fix * 2 ^ 9 + w.loss * 2 ^ 16 + w.rot * 2 ^ 32
  let fault := w.fcause + b2n w.fasync * 2 ^ 8 + b2n w.handler.isSome * 2 ^ 9 + w.fcount * 2 ^ 32
  [ (0x0000, (sgets 0 w.v 0 8192).flatMap (fun x => leBytes x.toNat 4)),
    (0x8000, (List.range 64).flatMap (fun i => leBytes (w.xr i).toNat 8)),
    (0x8200, (List.range 16).flatMap (fun i => leBytes (w.pr i).toNat 8)),
    (0x8280, leBytes w.xe.toNat 8 ++ leBytes w.ve.toNat 16 ++ (List.range 8).flatMap (fun i => leBytes (w.dr i).toNat 2) ++
      (List.range 12).flatMap (fun i => leBytes (w.fr i) 1) ++ leBytes w.arms 4 ++
      wordsBytes ([w.lc + w.ec * 2 ^ 32 + w.fflags * 2 ^ 40, w.srseed, lease, fault] ++ ((List.range 18).map (fun i => sget 0 w.stalls i) ++ [sget 0 w.stalls 24]))),
    (0x8400, bitBytes 16384 (fun i => sget false w.vpoison i)),
    (0x8C00, (sgets 0 w.sr 0 64).flatMap (fun x => leBytes x.toNat 4)),
    (0x8D00, w.stack.flatMap Entry.bytes),
    (0x9500, w.paths.flatMap (fun p => p.bytes (againOf longs w.widx p.id))) ]

/-- The command words of a journal entry: a copy command's as pushed; of the others, whose instructions push no such words, what was captured at
issue (log 65): a query's record address; a ray batch's root, flags with the space, lanes, and each lane's ray in four words; a matrix command's
kind, tile, MOD, space and twin in one word, then its operand words, `fmt` and its parameters. -/
def Cmd.extract (c : Cmd) : List Nat :=
  match c.pay with
  | .copy w _ => w.map (fun x => x.toNat)
  | .query a => [a]
  | .ray r => [r.root.toNat, r.flags % 2 ^ 16 + r.space * 2 ^ 16, (maskOf (r.lanes.map (fun q => q.1))).toNat] ++
      r.lanes.flatMap (fun q => (List.range 4).map (fun i => (q.2.getD (2 * i) 0).toNat + (q.2.getD (2 * i + 1) 0).toNat * 2 ^ 32))
  | .matrix m => [m.kind + m.tile * 2 ^ 8 + m.md * 2 ^ 16 + b2n m.twin * 2 ^ 24 + m.space * 2 ^ 32] ++ (m.a ++ m.b).map (fun x => x.toNat) ++
      [m.fmt.toNat] ++ m.mp.map (fun x => x.toNat)

/-- The journal extract: places and entries of the commands, each followed by its words (R339); what its 64 KiB cannot take is left out. -/
def extractOf (cslot : Nat) : Nat → List Cmd → List (Nat × List Byte)
  | _, [] => []
  | at_, c :: l =>
    let b := c.entry cslot false ++ wordsBytes c.extract
    if 0x11000 < at_ + b.length then [] else (at_, b) :: extractOf cslot (at_ + b.length) l

/-- STATE of the header. -/
def TeamState.code : TeamState → Nat
  | .halted => 1
  | .inHandler => 2
  | .suspended => 3
  | .checkpointed => 4
  | _ => 0

/-- The header's words from 0x00 to 0x48. -/
def State.slotHeader (s : State) (t : Team) (v : Saved) : List Nat :=
  let gs := match s.launch t.handle with | some l => l.groupsOf t.idx | none => []
  let arr := gs.zipIdx.foldl (fun n q =>
    n + (q.1 % 512 + b2n (t.arrived.contains q.1) * 2 ^ 9 + b2n (t.arrived.contains q.1 && t.gredPending.isSome) * 2 ^ 10) * 2 ^ (12 * q.2)) 0
  let half := t.half.getD 0
  let token := fun (n : Nat) (i : Nat) => n + (match sget .free v.tokens i with
    | .free => 128
    | .held h w => w + (if h = half then 0 else 16)) * 2 ^ (8 * i)
  let halt := (v.warps.filterMap (fun q => q.2.halt)).head?
  let launched := (s.launches.filter (fun l => match l.launcher with | some (h, i, _) => h == t.handle && i == t.idx | none => false)).map (fun l => l.csig)
  [ t.handle + t.idx * 2 ^ 32 + TeamState.code .checkpointed * 2 ^ 52,
    t.vf + t.part * 2 ^ 9 + (t.wpt - 1) * 2 ^ 16 + b2n t.half.isSome * 2 ^ 20 + t.core * 2 ^ 32,
    t.barMask + t.barGen * 2 ^ 32, arr, (match t.gredPending with | some x => x.toNat | none => 0),
    (match halt with | some h => h.cause | none => 0), (match halt with | some h => h.info.toNat | none => 0),
    (if t.half.isSome then (List.range 8).foldl token 0 else 0), s.tleftOf t,
    (List.range 16).foldl (fun n f => n + b2n (launched.contains f) * 2 ^ f) 0 ]

/-- Queue state: the records not popped, the words of partly assembled commands and the unjoined markers, two words each. -/
def Saved.queueWords (v : Saved) : List Nat :=
  let pops := v.pops.flatMap (fun r => [1 + r.queue * 2 ^ 8 + r.slot * 2 ^ 16, r.word.toNat])
  let parts := (v.cmds.filter (fun c => c.stage == .partly)).flatMap (fun c => c.words.flatMap (fun w => [2 + c.widx * 2 ^ 16, w.toNat]))
  let marks := v.markers.flatMap (fun m => [3 + m.queue * 2 ^ 8 + m.slot * 2 ^ 16, 0])
  (pops ++ parts ++ marks).take 352

/-- Everything the slot holds of a saved team, as places in it and bytes. -/
def State.slotImage (s : State) (t : Team) (v : Saved) : List (Nat × List Byte) :=
  let k := s.core t.core
  let h := t.half.getD 0
  let tiles := if t.half.isSome then [(0x11000, (sgets 0 (s.pair (t.core / 2)).tiles (h * 65536) 65536).flatMap (fun x => leBytes x.toNat 4))] else []
  [(0, wordsBytes (s.slotHeader t v)), (0x100, t.replies.flatMap (fun r => wordsBytes [r.note, r.sig + r.widx * 2 ^ 8 + 2 ^ 63, 0, 0, 0, 0, 0, 0])),
    (0x500, wordsBytes v.queueWords)] ++ extractOf t.cslot 0x1000 v.cmds ++ tiles ++
    v.warps.flatMap (fun q => (q.2.image v.longs).map (fun e => (0x51000 + 0xA000 * q.1 + e.1, e.2))) ++
    [(0xF1000, k.sp t.base t.spb), (0x1ED000, bitBytes 129024 (fun w => decide (w < t.spb / 8) && sget false k.spoison (t.base / 8 + w)))]

/-- Write a slot: all of it, what is not listed zero. -/
def State.writeSlot (s : State) (a : Nat) (l : List (Nat × List Byte)) : State :=
  let out := fun (unit k : Nat) => decide (k * unit < a ∨ a + 2 ^ 21 ≤ k * unit)
  let s := { s with mem := sfilter (out 1) s.mem, memPoison := sfilter (out 64) s.memPoison, memCmp := sfilter (out 256) s.memCmp }
  l.foldl (fun s e => s.setBytes (a + e.1) e.2) s

/-! ### Saving -/

/-- The index in a team of a warp slot of its core. -/
def Team.widxOf (t : Team) (sl : Nat) : Nat := t.slots.findIdx (fun x => x == sl)

/-- A producer that a checkpoint abandons: a load, `ldl` or `spld` without good data (R344 step 2), and a tile read behind a command that has not
completed, which cannot (log 40). -/
def State.abandoned (s : State) (core : Nat) (o : LongOp) : Bool :=
  match o.kind with
  | .load .. | .loam .. | .spad .. => (match s.arrived core o with | some a => a.bad != 0 | none => true)
  | .tile .. | .bad .. => true
  | .tex .. => o.kind.loads.any (fun x => x.todo)
  | .done .. | .atomic => false

/-- What the data that other producers waited for brought: one whose check failed is kept with its failed lanes (R427). -/
def State.failedNow (s : State) (core : Nat) (o : LongOp) : Option LongOp :=
  match s.arrived core o with
  | some a => if a.bad = 0 then none else some { o with kind := .bad a.ws a.bad a.info a.again }
  | none => none

/-- The record of an abandoned producer: a failed one keeps only its failed lanes. -/
def LongOp.recorded (o : LongOp) (widx : Nat) : LongOp :=
  match o.kind with
  | .bad _ m _ again => { o with slot := widx, lanes := m, kind := again }
  | _ => { o with slot := widx }

/-- A failed producer's good lanes are written before it is recorded. -/
def State.writeGood (s : State) (core : Nat) (o : LongOp) : State :=
  match o.kind with
  | .bad ws .. => s.modWarp core o.slot (fun w => ws.foldl (fun w x => w.put x) w)
  | _ => s

/-- A command as the journal keeps it: one that runs is marked ABND (R344 step 3). -/
def Cmd.saved (c : Cmd) : Cmd :=
  match c.stage with
  | .running | .finished => { c with stage := .queued, started := true, abnd := true }
  | .fork _ => { c with stage := .queued }
  | _ => c

/-- A command of a team. -/
def Cmd.of (c : Cmd) (t : Team) : Bool := c.handle == t.handle && c.team == t.idx

/-- What is left of a team's queues in its pair goes. -/
def State.clearPair (s : State) (t : Team) : State :=
  if t.half.isSome then s.modPair (t.core / 2) (fun p => { p with q0 := [], run := none, fin := [], buffer := none, late := false, loamAt := none, waiters := [], order := [] }) else s

/-- The window of one team has ended: served queries are answered; loads without data are recorded, other producers complete;
commands are taken out of their engines; the boundary of step 4 is requested. -/
def State.closeOne (s : State) (t : Team) : State :=
  let core := t.core
  let s := ((s.core core).cmds.filter (fun c => c.of t && c.eng == 3 && c.stage == .finished)).foldl (fun s c => s.wdqAnswer core c) s
  let mine := fun (o : LongOp) => t.slots.contains o.slot
  let left := (s.core core).longs.filter (fun o => mine o && s.abandoned core o)
  let s := left.foldl (fun s o => s.writeGood core o) s
  let s := s.modCore core (fun k => { k with longs := k.longs.filter (fun o => !left.any (fun x => x.id == o.id)) })
  let s := s.settleCore core
  let late := ((s.core core).longs.filter mine).filterMap (s.failedNow core)
  let s := late.foldl (fun s o => s.writeGood core o) s
  let s := s.modCore core (fun k => { k with longs := k.longs.filter (fun o => !late.any (fun x => x.id == o.id)) })
  let left := left ++ late
  let s := ((s.core core).longs.filter mine).foldl (fun s o => match s.arrived core o with | some a => s.finishLong core o a | none => s) s
  let cmds := ((s.core core).cmds.filter (fun c => c.of t)).map Cmd.saved
  let v : Saved := { longs := left.map (fun o => o.recorded (t.widxOf o.slot)), cmds := cmds,
                     tokens := (if t.half.isSome then (s.pair (core / 2)).tokens else []),
                     tpoison := (if t.half.isSome then (s.pair (core / 2)).tpoison else []) }
  let s := (s.clearPair t).modCore core (fun k => ({ k with cmds := k.cmds.filter (fun c => !c.of t) } : Core).request (.save t.handle t.idx))
  s.modTeam t.handle t.idx (fun x => { x with state := .saving, saved := some v, drainUntil := none })

/-- The state that a restored team takes up again. -/
def State.backOf (s : State) (t : Team) : TeamState :=
  let handling := fun (u : Team) => (s.liveWarps u).any (fun q => q.2.handler.isSome)
  if handling t then .inHandler
  else if (s.haltSet t).any (fun u => handling u || u.haltWarp.isSome) then .halted
  else .running

/-- A warp as it is saved: a handler's watchdog as what is left of it. -/
def Warp.saved (w : Warp) (vc : Nat) : Warp :=
  { w with handler := w.handler.map (fun h => { h with due := h.due - vc }) }

/-- Step 5 and 6 of a checkpoint, once the boundary has completed: the slot is written and the core freed. -/
def State.saveTeam (s : State) (t : Team) : State :=
  let k := s.core t.core
  let has := fun (sl : Nat) => t.slots.contains sl
  let back := s.backOf t
  let ws := (s.liveWarps t).foldl (fun (m : SMap Warp) q => sput {} m q.2.widx (q.2.saved k.vc)) []
  let v : Saved := { t.saved.getD {} with
    warps := ws, back := back, grant := (dieOf t.core, s.grantWord t.core),
    pops := (k.pops.filter (fun r => has r.slot)).map (fun r => { r with slot := t.widxOf r.slot }),
    hits := (k.hits.filter (fun h => has h.slot)).map (fun h => { h with slot := t.widxOf h.slot }),
    markers := (k.markers.filter (fun m => has m.slot)).map (fun m => { m with slot := t.widxOf m.slot }),
    areas := ((s.liveWarps t).filter (fun q => q.2.handler.isSome)).map (fun q => (q.2.widx, k.sp (saveArea q.1) 256)) }
  let s := (s.writeSlot (s.slotAt t.part t.cslot) (s.slotImage t v)).vacate t
  s.modTeam t.handle t.idx (fun x => { x with
    state := .checkpointed, slots := [], saved := some v, blockedSince := none,
    placeable := match x.saveFor with | some q => q.auto | none => x.placeable })

/-! ### Saving a VF (R349) -/

/-- The words of a copied group table: each group's size and its teams. -/
def Launch.groupWords (l : Launch) : List Nat := l.groups.flatMap (fun g => g.length :: g)

/-- The launch records, and the group tables from `at_` on. -/
def recordsOf : Nat → Nat → List Launch → List (Nat × List Byte)
  | _, _, [] => []
  | n, at_, l :: r =>
    let g := l.groupWords.flatMap (fun w => leBytes w 4)
    let fits := decide (at_ + g.length ≤ 2 ^ 20)
    (0x1000 + 256 * n, l.record (if fits then at_ else 0)) :: (if fits then [(at_, g)] else []) ++ recordsOf (n + 1) (if fits then at_ + g.length else at_) r

/-- The image of a VF, as places in its area and bytes. -/
def State.vfImage (s : State) (v p : Nat) : List (Nat × List Byte) :=
  let x := s.vf v
  let ls := s.launches.filter (fun l => l.vf == v)
  let ts := s.teams.filter (fun t => t.vf == v)
  let queued := (ls.filter (fun l => l.state == .queued)).map (fun l => l.handle)
  [ (0, wordsBytes [v, p, ls.length, ts.length]),
    (0x100, wordsBytes ([x.spbase.toNat, x.fpool.toNat, x.ways, teamClass v, x.vfq.toNat, queued.length] ++ queued)),
    (0x80000, wordsBytes (ts.map (fun t => t.cslot + t.idx * 2 ^ 12 + t.handle * 2 ^ 32))) ] ++
    recordsOf 0 (0x80000 + 8 * ts.length) ls

/-- Every team of a VF is out. -/
def State.vfOut (s : State) (v : Nat) : Bool := s.teams.all (fun t => t.vf != v || t.state == .checkpointed || t.state == .retiring)

/-- A save of a VF that waits ends once every team is out: the image is written, the operation answered. -/
def State.vfDone (s : State) (v : Nat) : State :=
  match (s.vf v).saveOp with
  | some (core, id, a) =>
    if !s.vfOut v then s
    else
      let s := (s.vfImage v ((s.partOfVf v).getD 0)).foldl (fun s e => s.setBytes (a + e.1) e.2) s
      (s.modVf v (fun x => { x with saveOp := none })).opAnswer (some (core, id)) 0
  | none => s

/-- The boundary of a checkpoint has completed on a twin's core; once every twin is saved, whoever waits is answered. -/
def State.saveServed (s : State) (h i : Nat) : State :=
  match s.team h i with
  | none => s
  | some t =>
    let s := s.saveTeam t
    let set := s.haltSet t
    if set.any (fun u => u.state != .checkpointed) then s
    else
      let s := set.foldl (fun s u => s.opAnswer (u.saveFor.bind (fun q => q.op)) 0) s
      (set.foldl (fun s u => s.modTeam u.handle u.idx (fun x => { x with saveFor := none, haltWarp := none })) s).vfDone t.vf

/-! ### Killing (R345) -/

/-- Stop everything of a team and begin its retirement. -/
def State.killTeam (s : State) (t : Team) : State :=
  let one := fun (s : State) (u : Team) =>
    let mine := fun (sl : Nat) => u.slots.contains sl
    let s := (s.clearPair u).modCore u.core (fun k => { k with
      cmds := k.cmds.filter (fun c => !c.of u), longs := k.longs.filter (fun o => !mine o.slot),
      atomics := k.atomics.filter (fun a => !mine a.slot) })
    let s := u.slots.foldl (fun s sl => s.modWarp u.core sl (fun w => { w with live := false, paths := [], stack := [], land := [] })) s
    let s := { s with dies := smapv {} (fun d => { d with calls := d.calls.filter (fun b => !(b.handle == u.handle && b.team == u.idx)) }) s.dies }
    s.modTeam u.handle u.idx (fun x => { x with ended := List.range x.wpt })
  (((s.haltSet t).foldl one s).modLaunch t.handle (fun l => { l with killed := true })).startRetire t

/-! ### Beginning -/

/-- A suspended team stands again as it did at its fault (R348): a producer of R427 is under way again. -/
def State.unsuspend (s : State) (t : Team) : State :=
  let s := t.slots.foldl (fun s sl =>
    let w := s.warp t.core sl
    let s := match w.halt with
      | some h => (match h.producer with
        | some o => s.modCore t.core (fun k => { k with longs := k.longs ++ [o] })
        | none => s)
      | none => s
    if w.live then s.modWarp t.core sl (fun w => { w with halt := none }) else s) s
  s.modTeam t.handle t.idx (fun x => { x with state := .halted, haltWarp := none })

/-- Halt a team to save or kill it; twins together. A running handler stops where it is. -/
def State.beginSave (s : State) (t : Team) (q : SaveReq) : State :=
  let set := s.haltSet t
  let s := set.foldl (fun s u => s.modTeam u.handle u.idx (fun x =>
    { x with saveFor := some (if u.idx = t.idx then q else { q with op := none }), drainUntil := none })) s
  let s := set.foldl (fun s u => u.slots.foldl (fun s sl => if (s.warp u.core sl).handler.isSome then
      s.modWarp u.core sl (fun w => { w with paused := true }) else s) s) s
  match t.state with
  | .running | .placed => s.startHalt t .halted none
  | .suspended => set.foldl (fun s u => s.unsuspend u) s
  | _ => s

/-- Every result on its way to a warp of a team has landed, and no write of its core to a link peer is outstanding. -/
def State.drainable (s : State) (t : Team) : Bool :=
  (s.liveWarps t).all (fun q => q.2.land.isEmpty) && !s.portWrites t.core

/-- DRAIN_WINDOW_END (R344, R345): handle, team. Once every warp has stopped a kill is carried out, or the window opens for
2^14 nc; at its end the save goes on. -/
def execDrainWindowEnd (s : State) : Host.Outcome State Fault Refusal :=
  .next (match s.team s.ev.a s.ev.b with
    | none => s
    | some t => match t.saveFor with
      | none => s
      | some q =>
        let set := s.haltSet t
        if t.state == .saving || t.state == .checkpointed || t.state == .retiring || !s.teamStopped t || s.haltWaits t then s
        else if q.kill then (s.killTeam t).vfDone t.vf
        else match t.drainUntil with
          | none =>
            let at_ := s.pkg.now + 2 ^ 14 * ncPeriod (s.die (dieOf t.core)).an
            set.foldl (fun s u => s.modTeam u.handle u.idx (fun x => { x with drainUntil := some at_ })) s
          | some d => if s.pkg.now < d || !set.all s.drainable then s else set.foldl (fun s u => s.closeOne u) s)

/-! ### ctxsave and ctxrest (R348) -/

/-- The team of the issuing partition that a team identifier names. -/
def Ctx.teamNamed (c : Ctx) (s : State) (w : Word) : Option Team :=
  if bits w 63 52 ≠ 0 then none
  else (s.team (bits w 31 0) (bits w 51 32)).bind (fun t => if c.part s = some t.part then some t else none)

/-- Answer at once in D. -/
def Ctx.answer (c : Ctx) (s : State) (d : BitVec 8) (v : Nat) : State := (s.landX c 1 (opIdx d) (BitVec.ofNat 64 v)).advance c

/-- Wait for an operation that answers in D: its number. -/
def Ctx.await (c : Ctx) (s : State) (d : BitVec 8) (kind : Nat) : Nat × State :=
  let (id, s) := s.newId c.core
  let s := s.modCore c.core (fun k => { k with ops := k.ops ++ [(id, kind, opIdx d)] })
  (id, (s.advance c).park c (.op id .mem))

/-- `ctxsave` and `ctxsave.kill`. -/
def ctxsaveOp (s : State) (f : FmtA) (kill : Bool) : Host.Outcome State Fault Refusal :=
  sysDo s .hypervisor f.g [.xs f.s1 24 1, .xd f.d] fun c s =>
    match c.teamNamed s (c.xv f.s1) with
    | none => .ok (c.answer s f.d 1)
    | some t =>
      let set := s.haltSet t
      if t.out || t.state == .retiring || set.any (fun u => u.saveFor.isSome) then .ok (c.answer s f.d 2)
      else if !kill && set.any (fun u => u.state == .inHandler) then .ok (c.answer s f.d 3)
      else
        let (id, s) := c.await s f.d 4
        .ok (s.beginSave t { kill := kill, op := some (c.core, id) })

/-- R348: checkpoint. -/
def execCtxsave (f : FmtA) (s : State) : Host.Outcome State Fault Refusal := ctxsaveOp s f false

/-- R348: kill. -/
def execCtxsaveKill (f : FmtA) (s : State) : Host.Outcome State Fault Refusal := ctxsaveOp s f true

/-- A saved team, twins together, may be placed again. -/
def State.makePlaceable (s : State) (t : Team) : State :=
  (s.haltSet t).foldl (fun s u => s.modTeam u.handle u.idx (fun x => { x with placeable := true })) s

/-- R348: the team may be placed again. -/
def execCtxrest (f : FmtA) (s : State) : Host.Outcome State Fault Refusal :=
  sysDo s .hypervisor f.g [.xs f.s1 24 1, .xd f.d] fun c s =>
    match c.teamNamed s (c.xv f.s1) with
    | none => .ok (c.answer s f.d 1)
    | some t => if t.state = .checkpointed then .ok (c.answer (s.makePlaceable t) f.d 0) else .ok (c.answer s f.d 2)

/-! ### Restoring (R346, R347) -/

/-- Program counters of a warp's paths as the slot holds them. -/
def State.slotPcs (s : State) (a : Nat) (w : Warp) : Warp :=
  { w with paths := w.paths.zipIdx.map (fun q => { q.1 with pc := BitVec.ofNat 64 (s.num (a + 0x51000 + 0xA000 * w.widx + 0x9500 + 32 * q.2) 8) }) }

/-- A saved command with ONCE and MARK as the slot holds them, and the place of the next entry. -/
def State.slotCmds (s : State) (a cslot : Nat) : Nat → List Cmd → List Cmd
  | _, [] => []
  | at_, c :: l =>
    let w := if 0x11000 < at_ + (c.entry cslot false).length + 8 * c.extract.length then 2 ^ 41 + 2 ^ 43 else s.num (a + at_) 8
    { c with once := c.once && Nat.testBit w 41, mark := c.mark && Nat.testBit w 43, abnd := true } ::
      s.slotCmds a cslot (at_ + (c.entry cslot false).length + 8 * c.extract.length) l

/-- A saved warp as it stands on its new core. -/
def Warp.back (w : Warp) (st : TeamState) (vc : Nat) (rank : Int) : Warp :=
  let run := decide (st = .running)
  let w := { w with
    rank := rank, holdUntil := 0, victims := [], sampled := [], measPart := true, parked := 0, admitted := true, paused := false, skidUntil := none,
    stopped := !run, vsingle := [], spWait := 0, handler := w.handler.map (fun h => { h with due := vc + h.due }),
    paths := w.paths.map (fun p => { p with buf := [], lastIssue := none, ready := 0, cand := 0, boosted := false, powerHeld := 0, short := false, forced := false, yielded := none }) }
  if run then { w with paths := w.paths.map Path.resume } else w

/-- The flag counts of a restored warp: its operations still outstanding (R346). -/
def State.flagsOut (s : State) (t : Team) (v : Saved) (w : Warp) : SMap Nat :=
  let rsig := match s.launch t.handle with | some l => l.rsig | none => 15
  let me := fun (h i x : Nat) => h == t.handle && i == t.idx && x == w.widx
  let count := fun (f : Nat) =>
    (v.cmds.filter (fun c => c.widx == w.widx && c.sig == f && !c.ambiguous)).length +
    (s.launches.filter (fun l => l.csig == f && (match l.launcher with | some (h, i, x) => me h i x | none => false))).length +
    (s.dies.flatMap (fun d => d.2.batches.filter (fun b => b.home == d.1 && me b.handle b.team b.widx && b.sig == f && !b.done))).length +
    (s.dies.flatMap (fun d => d.2.calls.filter (fun b => me b.handle b.team b.widx && b.sig == f))).length +
    (t.replies.filter (fun r => r.widx == w.widx && r.sig == f)).length + (if f = rsig then w.arms else 0)
  (List.range 12).foldl (fun m f => sput 0 m f (count f)) []

/-- The arrivals of a restored team count on its new die; a value combined on the old one goes with the last of them. -/
def State.moveArrivals (s : State) (t : Team) (was new : Nat) : State :=
  if was = new then s
  else t.arrived.foldl (fun s g =>
    let s := (s.addMember t.handle g was 0 (-1)).addMember t.handle g new 0 1
    match (s.die was).group t.handle g with
    | some c =>
      if c.home || c.forwarded || decide (c.arr ≠ 0) || decide (c.op = 0) then s
      else
        let s := (s.modGroup was t.handle g (fun c => { c with op := 0, acc := 0 })).syncGroup was t.handle g
        (s.modGroup new t.handle g (fun k => { k with op := c.op, acc := if k.op = 0 then c.acc else gredOp (c.op - 1) k.acc c.acc })).syncGroup new t.handle g
    | none => s) s

/-- Put one saved team on a core: slots, stores, warps, queues; none where its groups find no counter. -/
def State.restoreOne (s : State) (l : Launch) (t : Team) (v : Saved) (core : Nat) : Option State := do
  let (slots, base) ← s.fits l core
  let a := s.slotAt t.part t.cslot
  let rows := spRows l.spb
  let k := s.core core
  let slotOf := fun (i : Nat) => slots.getD i 32
  let s := s.modTeam t.handle t.idx (fun x => { x with
    core := core, slots := slots, base := base, size := 2048 * rows, state := v.back, saved := none, placeable := false, exited := false, eligible := false,
    broadcastAt := none, haltWarp := (if v.back = .running then none else (v.warps.find? (fun q => q.2.halt.isSome)).map (fun q => q.1)) })
  let s ← s.joinGroups l t.idx core (dieOf t.core)
  let s := s.moveArrivals t (dieOf t.core) (dieOf core)
  let cmds := s.slotCmds a t.cslot 0x1000 v.cmds
  let v := { v with cmds := cmds }
  let ws := v.warps.map (fun q => (slotOf q.1, let f := s.flagsOut t v q.2; { (s.slotPcs a q.2).back v.back k.vc (k.rankTop + (q.1 : Nat)) with f := f, fprev := f }))
  let inT := fun (a : Nat) => decide (a < base ∨ base + 2048 * rows ≤ a)
  let k := ws.foldl (fun (k : Core) q => k.setWarp q.1 q.2) k
  let spp := (List.range (l.spb / 8)).foldl (fun m w =>
    if Nat.testBit (s.num (a + 0x1ED000 + w / 8) 1) (w % 8) then sput false m (base / 8 + w) true else m) (sfilter (fun w => inT (8 * w)) k.spoison)
  let k := { k with
    rankTop := k.rankTop + (l.wpt : Nat), at_ := max k.at_ s.pkg.now, spad := sputs 0 (sfilter inT k.spad) base (s.bytes (a + 0xF1000) l.spb), spoison := spp,
    pops := k.pops ++ v.pops.map (fun r => { r with slot := slotOf r.slot }),
    hits := k.hits ++ v.hits.map (fun h => { h with slot := slotOf h.slot }),
    markers := k.markers ++ v.markers.map (fun m => { m with slot := slotOf m.slot, covers := [] }) }
  let k := v.areas.foldl (fun (k : Core) q => k.setSp (saveArea (slotOf q.1)) q.2) k
  let s := s.setCore core k
  let s := cmds.foldl (fun (s : State) c => s.addCmd core { c with slot := slotOf c.widx }) s
  some (v.longs.foldl (fun s o => s.reissue core { o with slot := slotOf o.slot }) s)

/-- The pair of restored twins: their tiles and tokens. -/
def State.restorePair (s : State) (t : Team) (v : Saved) (core : Nat) : State :=
  let tile := fun (h i : Nat) => let a := s.slotAt t.part i + 0x11000
    (h * 65536, (List.range 65536).map (fun n => (BitVec.ofNat 32 (s.num (a + 4 * n) 4) : Lane)))
  let other := match s.team t.handle (t.idx + 1) with | some u => u.cslot | none => t.cslot
  s.modPair (core / 2) (fun p => { p with
    twins := some (t.handle, t.idx), tiles := [tile 0 t.cslot, tile 1 other].foldl (fun m q => sputs 0 m q.1 q.2) [], tpoison := v.tpoison, tokens := v.tokens,
    q0 := [], run := none, fin := [], buffer := none, late := false, loamAt := none, waiters := [], order := [], mcAt := s.pkg.now })

/-- The call batches outstanding, of every die. -/
def State.callBatches (s : State) : List CallBatch := s.dies.flatMap (fun d => d.2.calls)

/-- Paths of a team's warps that wait for batches go on once none of them is outstanding (R400). -/
def State.callsOver (s : State) (h i : Nat) : State :=
  match s.team h i with
  | none => s
  | some t =>
    let out := (s.callBatches.filter (fun b => b.handle == h && b.team == i)).map (fun b => b.batch)
    let free := fun (p : Path) => match p.wait with | .calls l => l.all (fun n => !out.contains n) | _ => false
    t.slots.foldl (fun s sl => if (s.warp t.core sl).live then
      s.modWarp t.core sl (fun w => { w with paths := modWhere free (fun p => { p with wait := .none }) w.paths }) else s) s

/-- What follows once a restored team stands: the journal replays, markers are pushed behind it, replies are delivered, a group
released meanwhile lets it go, and another pool than the one that it left, or other steps, are a ratio event (R302). Joins and
releases that came while the team was out find no line in its new core older than themselves (R263, R269). -/
def State.afterRestore (s : State) (left : Nat × Nat) (h i : Nat) : State :=
  match s.team h i with
  | none => s
  | some t =>
    let s := s.modTeam h i (fun x => { x with heldAsync := x.heldAsync.filter (fun a => a.cause == 0x15 || a.cause == 0x16) })
    let s := s.replayJournal t false
    let s := s.modCore t.core (fun k => (k.markers.filter (fun m => t.slots.contains m.slot)).foldl (fun k m => k.pushMarker m.slot m.queue) k)
    let s := if t.joined || !t.replies.isEmpty || !t.freed.isEmpty then s.modCore t.core (fun k => k.dropClean (fun _ => true)) else s
    let s := t.replies.foldl (fun s r =>
      let sl := t.slots.getD r.widx 32
      (s.post t.core 7 sl (BitVec.ofNat 64 r.note)).flagDec t.core sl h i r.sig) s
    let s := if t.freed.isEmpty then s else s.resumeStanding t (fun b w => bodyOp b != 0xD0 && (match w.grp with | some g => t.freed.contains g | none => false))
    let s := (s.modTeam h i (fun x => { x with replies := [], freed := [], joined := false })).callsOver h i
    let moved := left != (dieOf t.core, s.grantWord t.core)
    (if moved then s.ratioEvent t else s).deliverHeld h i

/-- RESTORE (R346): handle, team, core. Twins go onto one pair. -/
def execRestore (s : State) : Host.Outcome State Fault Refusal :=
  let e := s.ev
  .next (match s.team e.a e.b, s.launch e.a with
    | some t, some l =>
      if t.state != .checkpointed || !t.placeable || t.half == some 1 || !s.canTake l e.c then s
      else match t.saved with
        | none => s
        | some v =>
          if l.twin then
            match s.team e.a (e.b + 1) with
            | none => s
            | some u => match u.saved with
              | none => s
              | some v' =>
                match ((s.restorePair t v e.c).restoreOne l t v e.c).bind (fun s => s.restoreOne l u v' (e.c + 1)) with
                | none => s
                | some r => (r.afterRestore v.grant t.handle t.idx).afterRestore v'.grant u.handle u.idx
          else match s.restoreOne l t v e.c with
            | none => s
            | some r => r.afterRestore v.grant t.handle t.idx
    | _, _ => s)

end Sys2Proof.Machine
end

