-- ==== Sys2Proof/Machine/Modules.lean ====
section
/-!
DEFINITION. Code modules (R27 to R30, R58, R350, R351): `modreg`, `modrel` and `icinv`, and the steps that end them.
-/

namespace Sys2Proof.Machine

open Sys2Proof

/-! ### The image (R58) -/

/-- A check word of the 64-byte blocks that hold `n` bytes of one 256-byte block fails. -/
def State.anyBad (s : State) (pa n : Nat) (cmp : Bool) : Bool :=
  (List.range 4).any (fun i => decide (pa / 64 ≤ pa / 256 * 4 + i ∧ pa / 256 * 4 + i < cdiv (pa + n) 64) && s.homeBad (pa / 256 * 256 + 64 * i) cmp)

/-- A byte range at an offset of the image, read through the issuer's space; none where a page or frame refuses or a check
word fails. -/
def State.imageBytes (s : State) (a : Acc) (img : Word) (off n : Nat) : Option (List Byte) :=
  (piecesOf (img + BitVec.ofNat 64 off) n).foldl (fun (r : Option (List Byte)) q => match r with
    | none => none
    | some b =>
      if !(s.part a.part).hasVf a.vf then none
      else match s.walk a.part a.vf a.space q.1 0 false with
        | .ok e => if s.fotAllows a.id (e.pa q.1) false && !isWindow (e.pa q.1) && !s.anyBad (e.pa q.1) q.2 e.cmp then some (b ++ s.homeBytes (e.pa q.1) q.2 e.cmp) else none
        | _ => none) (some [])

/-- What `modreg` uses of a header. -/
structure ModHeader where
  id : Nat
  csize : Nat
  dsize : Nat
  etoff : Nat
  deriving DecidableEq, Repr

/-- A size rounded up to 64 KiB. -/
def up64k (n : Nat) : Nat := cdiv n 65536 * 65536

/-- A valid header with a valid entry table, else none. -/
def State.readHeader (s : State) (a : Acc) (img : Word) : Option ModHeader :=
  match s.imageBytes a img 0 64 with
  | none => none
  | some b =>
    let h : ModHeader := { id := fieldAt b 6 2, csize := fieldAt b 8 8, dsize := fieldAt b 16 8, etoff := fieldAt b 0x20 8 }
    let n := fieldAt b 0x18 4
    let data := 65536 + up64k h.csize
    let inside := decide (64 ≤ h.etoff ∧ (h.etoff + 8 * n ≤ 65536 ∨ 65536 + h.csize ≤ h.etoff) ∧ h.etoff + 8 * n ≤ data + h.dsize)
    let head := decide (b.take 4 = [0x43, 0x47, 0x4D, 0x49] ∧ fieldAt b 4 2 = 1 ∧ fieldAt b 0x1C 4 = 0 ∧ h.id < 4096) &&
      (b.drop 0x28).all (fun x => x == 0) && decide (h.csize % 64 = 0 ∧ h.csize ≤ 2 ^ 40 ∧ h.etoff % 8 = 0)
    if !head || !inside then none
    else match s.imageBytes a img h.etoff (8 * n) with
      | none => none
      | some t => if (List.range n).all (fun i => decide (fieldAt t (8 * i) 8 % 64 = 0 ∧ fieldAt t (8 * i) 8 < h.csize)) then some h else none

/-- The home addresses of the 64 KiB pages of a segment, none where one is not mapped with the permission or its frame is not
readable by the partition. -/
def State.segment (s : State) (a : Acc) (va : Word) (size : Nat) (code : Bool) : Option (List Nat) :=
  (List.range (cdiv size 65536)).foldl (fun (r : Option (List Nat)) i => match r with
    | none => none
    | some l =>
      let off := va + BitVec.ofNat 64 (65536 * i)
      if !(s.part a.part).hasVf a.vf then none
      else match s.walk a.part a.vf a.space off 0 false with
        | .ok e => if e.r && (!code || e.x) && decide (e.pa off < memTop) && s.fotAllows a.id (e.pa off) false then some (l ++ [e.pa off]) else none
        | _ => none) (some [])

/-- A 64-byte block of a page fails its check word. -/
def State.pageBad (s : State) (pa : Nat) : Bool := (List.range 1024).any (fun i => sget false s.memPoison (pa / 64 + i))

/-- Set or clear CODE on frames. -/
def State.setCode (s : State) (l : List Nat) (on : Bool) : State :=
  { s with fot := l.foldl (fun m pa => smod fotReset m (pa / 65536) (fun e => if on then e ||| 0x2000 else e &&& ~~~0x2000)) s.fot }

/-- Write a module's entry. -/
def State.putModule (s : State) (p m state space res : Nat) (cbase : Word) (csize : Nat) (etab : Word) : State :=
  s.setBytes (s.modAddr p m) (wordsBytes [state + space * 2 ^ 16 + res * 2 ^ 32, cbase.toNat, csize, etab.toNat])

/-- Change STATE of a module's entry. -/
def State.setModState (s : State) (p m st : Nat) : State :=
  s.setNum (s.modAddr p m) 1 (s.num (s.modAddr p m) 1 / 4 * 4 + st)

/-- Whoever waits for a module is answered. -/
def State.modAnswer (s : State) (p m v : Nat) : State :=
  let l := (s.part p).modOps.filter (fun q => q.1 == m)
  (l.foldl (fun s q => s.opAnswer (some q.2) v) s).modPart p (fun x => { x with modOps := x.modOps.filter (fun q => q.1 != m) })

/-- R350: the checks in order, then the entry is loading and the code frames are locked; the path waits for verification. -/
def execModreg (f : FmtA) (s : State) : Host.Outcome State Fault Refusal :=
  sysDo s .hypervisor f.g [.xs f.s1 24 1, .xd f.d] fun c s =>
    let img := c.xv f.s1
    match c.part s with
    | none => .ok (c.answer s f.d 2)
    | some p =>
      let a := c.acc s (opIdx f.s2 % 8)
      match (if img.toNat % 65536 ≠ 0 then none else s.readHeader a img) with
      | none => .ok (c.answer s f.d 2)
      | some h =>
        if (s.modEntry p h.id).state ≠ 0 then .ok (c.answer s f.d 1)
        else match s.segment a (img + 65536) h.csize true, s.segment a (img + BitVec.ofNat 64 (65536 + up64k h.csize)) h.dsize false with
          | some code, some data =>
            if code.any (fun pa => bit (s.fotOf pa) 13) then .ok (c.answer s f.d 5)
            else
              let s := (s.putModule p h.id 1 a.space 0 (img + 65536) h.csize (img + BitVec.ofNat 64 h.etoff)).setCode code true
              let (id, s) := c.await s f.d 6
              let s := s.modPart p (fun x => { x with
                modVf := sput 0 x.modVf h.id (a.vf + 1), modFrames := sput [] x.modFrames h.id code, modOps := x.modOps ++ [(h.id, c.core, id)] })
              let bad := (code ++ data).any s.pageBad
              .ok (s.soon [{ step := .moduleVerificationComplete, a := p, b := h.id, c := if bad then 1 else 0 }])
          | _, _ => .ok (c.answer s f.d 4)

/-- MODULE_VERIFICATION_COMPLETE (R29, R350): partition, module, and whether a check word failed. -/
def execModuleVerificationComplete (s : State) : Host.Outcome State Fault Refusal :=
  let p := s.ev.a
  let m := s.ev.b
  .next (if (s.modEntry p m).state ≠ 1 then s
    else if s.ev.c = 0 then (s.setModState p m 2).modAnswer p m 0
    else
      let s := s.setCode (sget [] (s.part p).modFrames m) false
      ((s.setModState p m 0).modPart p (fun x => { x with modFrames := sput [] x.modFrames m [] })).modAnswer p m 3)

/-- A releasing module that nothing holds leaves every instruction cache (R29). -/
def State.releaseTags (s : State) (p m : Nat) : State :=
  if (s.modEntry p m).res = 0 then (s.dropTags p m (fun _ => true)).soon [{ step := .moduleReleaseComplete, a := p, b := m }] else s

/-- MODULE_RELEASE_COMPLETE (R29, R30): partition, module. -/
def execModuleReleaseComplete (s : State) : Host.Outcome State Fault Refusal :=
  let p := s.ev.a
  let m := s.ev.b
  let e := s.modEntry p m
  .next (if e.state ≠ 3 ∨ e.res ≠ 0 then s
    else
      let s := s.setCode (sget [] (s.part p).modFrames m) false
      ((s.setModState p m 0).modPart p (fun x => { x with modFrames := sput [] x.modFrames m [] })).modAnswer p m 0)

/-- `modrel` and `modrel.nb`. -/
def modrelOp (s : State) (f : FmtA) (wait : Bool) : Host.Outcome State Fault Refusal :=
  sysDo s .hypervisor f.g [.xs f.s1 24 1, .xd f.d] fun c s =>
    let m := bits (c.xv f.s1) 11 0
    match c.part s with
    | none => .ok (c.answer s f.d 1)
    | some p =>
      let h := (s.part p).hmod
      if (s.modEntry p m).state ≠ 2 then .ok (c.answer s f.d 1)
      else if bit h 12 && decide (bits h 11 0 = m) then .ok (c.answer s f.d 2)
      else
        let s := s.setModState p m 3
        if !wait then .ok ((c.answer s f.d 0).releaseTags p m)
        else
          let (id, s) := c.await s f.d 6
          .ok ((s.modPart p (fun x => { x with modOps := x.modOps ++ [(m, c.core, id)] })).releaseTags p m)

/-- R350: waits until the entry is free. -/
def execModrel (f : FmtA) (s : State) : Host.Outcome State Fault Refusal := modrelOp s f true

/-- R350: returns once the entry is releasing. -/
def execModrelNb (f : FmtA) (s : State) : Host.Outcome State Fault Refusal := modrelOp s f false

/-! ### icinv (R351) -/

/-- Every path that runs a module of a partition discards its fetch buffer. -/
def State.dropBuffers (s : State) (p m : Nat) : State :=
  (s.teams.filter (fun t => t.part == p)).foldl (fun s t => t.slots.foldl (fun s sl => if (s.warp t.core sl).live then
    s.modWarp t.core sl (fun w => { w with paths := w.paths.map (fun q => if q.module = m then { q with buf := [] } else q) }) else s) s) s

/-- Both forms: the tags of the module, or of a range of its blocks, go; the path waits for the caches' acknowledgement. -/
def icinvOp (s : State) (f : FmtA) (ops : List Opnd) (pick : Ctx → Word → Nat → Bool) : Host.Outcome State Fault Refusal :=
  sysDo s .hypervisor f.g ops fun c s =>
    let m := bits (c.xv f.s1) 11 0
    match c.part s with
    | none => .ok (s.advance c)
    | some p =>
      let s := (s.dropTags p m (pick c (s.modEntry p m).cbase)).dropBuffers p m
      let (id, s) := s.newId c.core
      let s := s.modCore c.core (fun k => { k with ops := k.ops ++ [(id, 3, m)] })
      .ok ((s.advance c).park c (.op id .mem))

/-- R351, MOD 0. -/
def execIcinvMod (f : FmtA) (s : State) : Host.Outcome State Fault Refusal := icinvOp s f [.xs f.s1 24 1] fun _ _ _ => true

/-- R351, MOD 1: S3 blocks from the one that holds byte offset S2. -/
def execIcinvRange (f : FmtA) (s : State) : Host.Outcome State Fault Refusal :=
  icinvOp s f [.xs f.s1 24 1, .xs f.s2 16 1, .xs f.s3 8 1] fun c base va =>
    let first := (base + blockBase (c.xv f.s2)).toNat
    decide (first ≤ va ∧ va < first + 64 * (c.xv f.s3).toNat)

/-- ICINV_COMPLETE (R351): core. -/
def execIcinvComplete (s : State) : Host.Outcome State Fault Refusal :=
  let core := s.ev.a
  .next (match (s.core core).ops.find? (fun o => o.2.1 == 3) with
    | some o => (s.modCore core (fun k => { k with ops := k.ops.filter (fun x => x.1 != o.1) })).opDone core 0 o.1
    | none => s)

end Sys2Proof.Machine
end

