-- ==== Sys2Proof/Machine/Boot.lean ====
section
/-!
DEFINITION. Boot, identity, standby and heat (R402 to R409), and the creation and destruction of partitions (R380 to R383).
-/

namespace Sys2Proof.Machine

open Sys2Proof

/-! ### Firmware images (R403) -/

/-- The body of an image. -/
def fwBody (img : List Byte) : List Byte := (img.drop 0x1000).take (fieldAt img 8 8)
def fwSvn (img : List Byte) : Nat := fieldAt img 6 2

/-- Why an image is not accepted: the code of R405, 0 where it is. -/
def State.fwCode (s : State) (img : List Byte) (type : Nat) : Nat :=
  let head := img.take 0x40
  if !decide (img.take 4 = [0x54, 0x4B, 0x46, 0x57] ∧ fieldAt img 4 2 = type) || ((img.take 0x1000).drop 0xB0C).any (fun b => b != 0) then 3
  else if fwSvn img < sget 0 s.pkg.fuseSvn type then 4
  else if (fwBody img).length ≠ fieldAt img 8 8 ∨ Config.sha384 (fwBody img) ≠ (img.drop 0x10).take 48 then 5
  else if !Config.ecdsaOk s.pkg.keyBlock (Config.sha384 head) ((img.drop 0x40).take 96) || !Config.lmsOk s.pkg.keyBlock head ((img.drop 0xA0).take 2668) then 6
  else 0

/-- Start the thread of a service core at entry 0 of a module image whose header lies at `at_`. -/
def State.startSvc (s : State) (core at_ : Nat) (lv : Level) : State :=
  let csize := s.num (at_ + 8) 8
  let entry := s.num (at_ + s.num (at_ + 0x20) 8) 8
  let p : Path := { id := 0, mask := 1, cbase := BitVec.ofNat 64 (at_ + 0x10000), csize := csize, pc := BitVec.ofNat 64 entry, level := lv }
  let w : Warp := { live := true, paths := [p], sr := srSeeded 1 }
  s.modCore core (fun k => { k with warps := sput {} [] 0 w, svcLevel := lv, at_ := max k.at_ s.pkg.now })

/-- The measurement of an image enters the attestation log. -/
def State.measure (s : State) (type svn : Nat) (hash : List Byte) : State :=
  s.modPkg (fun k => { k with attLog := k.attLog ++ [{ type := type, svn := svn, hash := hash }] })

/-! ### Boot (R404, R405) -/

/-- The boot ROM halts. -/
def State.bootHalt (s : State) (stage code : Nat) : State := s.modPkg (fun k => { k with bootStage := stage, bootCode := code })

/-- Step 3 and what follows for an accepted image: CDI1 and the log, the fuses locked, the root monitor started with its body
from address 0. -/
def State.bootImage (s : State) (img : List Byte) : State :=
  let s := s.modPkg (fun k => { k with bootSvn := fwSvn img })
  let m := Config.sha384 (img.take 0x1000 ++ fwBody img)
  let s := s.modPkg (fun k => { k with cdi1 := Config.hmac384 Config.cdi0 (m ++ leBytes (fwSvn img) 2), attLog := [] })
  let s := (s.measure 3 0 (Config.sha384 s.pkg.keyBlock)).measure 1 (fwSvn img) m
  if !Config.fusesLock 0 then s.bootHalt 3 7
  else
    let s := s.modPkg (fun k => { k with fusesLocked := true, bootStage := 4, bootCode := 0, events := k.events ++ k.tripCause.toList, tripCause := none })
    (s.setBytes 0 (fwBody img)).startSvc 256 0 .root

/-- Steps 1 and 2. -/
def State.boot (s : State) : State :=
  if !Config.lpddrTrains 0 then s.bootHalt 1 1
  else if Config.sha384 s.pkg.keyBlock ≠ s.pkg.fuseHash then s.bootHalt 1 2
  else if s.fwCode s.pkg.flashA 1 = 0 then s.bootImage s.pkg.flashA
  else if s.fwCode s.pkg.flashB 1 = 0 then s.bootImage s.pkg.flashB
  else s.bootHalt 2 (s.fwCode s.pkg.flashB 1)

/-- What a loss of power leaves: flash, fuses and the cause of a trip. -/
def State.cold (s : State) : State :=
  { State.reset with pkg := { State.reset.pkg with
      flashA := s.pkg.flashA, flashB := s.pkg.flashB, keyBlock := s.pkg.keyBlock, fuseSvn := s.pkg.fuseSvn, fuseHash := s.pkg.fuseHash,
      tripCause := s.pkg.tripCause } }

/-- POWER_ON_RESET (R404). -/
def execPowerOnReset (s : State) : Host.Outcome State Fault Refusal :=
  .next (if !s.pkg.powered then s.cold.boot else if s.pkg.bootStage = 0 then s.boot else s)

/-! ### Standby (R402) -/

/-- STANDBY_ENTRY (R402): from a package without live launches. Only the root monitor core keeps its state and its clock,
which runs at step 0 (`State.period`). -/
def execStandbyEntry (s : State) : Host.Outcome State Fault Refusal :=
  .next (if s.pkg.standby || !s.launches.isEmpty || !s.teams.isEmpty then s
    else
      let s := s.settleAll
      { s with cores := s.cores.filter (fun q => q.1 == 256), pairs := [], opened := none, turns := [], chosen := [], taken := [],
               pkg := { s.pkg with standby := true } })

/-- STANDBY_WAKE (R402). -/
def execStandbyWake (s : State) : Host.Outcome State Fault Refusal := .next (s.modPkg (fun k => { k with standby := false }))

/-! ### Heat (R409) -/

/-- THERMAL_TRIP (R409): kind of sensor (0 cluster, 1 LPDDR package) and unit. Package power goes. -/
def execThermalTrip (s : State) : Host.Outcome State Fault Refusal :=
  .next { s.modPkg (fun k => { k with powered := false, tripCause := some { kind := 3 + s.ev.a, unit := s.ev.b } }) with
    agenda := [], opened := none, turns := [], chosen := [] }

/-- TEMPERATURE_READING (R409): kind of sensor, unit, and the reading in °C. -/
def execTemperatureReading (s : State) : Host.Outcome State Fault Refusal :=
  let e := s.ev
  let t := e.w.toNat
  let s := if e.a = 0 then s.modCluster e.b (fun k => { k with hot := decide (100 ≤ t) || (k.hot && decide (97 ≤ t)), veryHot := decide (108 ≤ t) })
    else s.modPkg (fun k =>
      { k with lpddrHot := sput 0 k.lpddrHot e.b (if 95 ≤ t then 2 else if 85 ≤ t then 1 else 0) })
  .next (if 115 ≤ t then s.soon [{ step := .thermalTrip, a := e.a, b := e.b }] else s)

/-! ### Partitions (R380 to R383) -/

/-- The descriptor's address. -/
def State.descAt (s : State) (p : Nat) : Nat := bits s.pkg.pdbase 49 8 * 256 + 256 * p

/-- A reserved bit of a descriptor is set, or a field names nothing. -/
def badDesc (b : List Byte) : Bool :=
  let w := fun (o : Nat) => fieldAt b o 8
  decide (w 0 / 2 % 128 ≠ 0 ∨ w 0 / 2 ^ 13 ≠ 0 ∨ w 0x28 / 2 ^ 48 ≠ 0 ∨ w 0x30 / 2 ^ 48 ≠ 0 ∨ w 0x38 / 2 ^ 24 ≠ 0 ∨ w 0x40 / 2 ^ 19 ≠ 0 ∨
    w 0x48 / 2 ^ 4 % 16 ≠ 0 ∨ w 0x48 / 2 ^ 16 ≠ 0 ∨ 12 ≤ w 0 / 2 ^ 8 % 16) || (b.drop 0x60).any (fun x => x != 0)

/-- Something that a descriptor names is held by another partition or by the root monitor. -/
def State.descTaken (s : State) (p : Nat) (n : Part) : Bool :=
  let clash := fun (o : Part) =>
    decide (n.pairs 0 &&& o.pairs 0 ≠ 0 ∨ n.pairs 1 &&& o.pairs 1 ≠ 0 ∨ n.loam 0 &&& o.loam 0 ≠ 0 ∨ n.loam 1 &&& o.loam 1 ≠ 0 ∨ n.svc = o.svc ∨
      n.headMask &&& o.headMask ≠ 0 ∨ n.portMask &&& o.portMask ≠ 0 ∨ (n.vfBase < o.vfBase + o.vfCount ∧ o.vfBase < n.vfBase + n.vfCount))
  decide (n.svc = 256 ∨ 512 < n.vfBase + n.vfCount) || s.parts.any (fun q => q.1 != p && q.2.valid && clash q.2)

/-- The kernel image of a descriptor: its bytes. -/
def State.kernelImage (s : State) (b : List Byte) : List Byte :=
  let a := fieldAt b 0x50 8
  let n := fieldAt b 0x58 8
  if a % 65536 ≠ 0 ∨ memTop < a + n then [] else s.bytes a n

/-- An operation of `pctl` ends. -/
def State.pctlEnd (s : State) (st : Nat) : State := s.modPkg (fun k => { k with pctlBusy := false, pctlStatus := st, pctlOp := 0 })

/-- PARTITION_CREATE (R382): partition. -/
def execPartitionCreate (s : State) : Host.Outcome State Fault Refusal :=
  let p := s.ev.a
  let b := s.bytes (s.descAt p) 256
  let n : Part := { valid := true, desc := leBytes (fieldAt b 0 8 / 2 * 2 + 1) 8 ++ b.drop 8, keyed := true }
  let img := s.kernelImage b
  .next (if (s.part p).valid then s.pctlEnd 1
    else if badDesc b || s.descTaken p n then s.pctlEnd 2
    else if s.teams.any (fun t => !t.slots.isEmpty && Nat.testBit (n.pairs (dieOf t.core)) (t.core % 128 / 2)) then s.pctlEnd 3
    else if s.fwCode img 2 ≠ 0 then s.pctlEnd 4
    else
      let s := s.measure 2 (fwSvn img) (Config.sha384 (img.take 0x1000 ++ fwBody img))
      let s := (s.modPart p (fun _ => n)).startSvc n.svc (fieldAt b 0x50 8 + 0x1000) .hypervisor
      ((s.setBytes (s.descAt p) (n.desc.take 8)).modPkg (fun k => { k with bootStage := max k.bootStage 5 })).pctlEnd 0)

/-- PARTITION_DESTROY (R382): partition. Its service core is held in reset (R379); frames keep their owner until the root scrubs them. -/
def execPartitionDestroy (s : State) : Host.Outcome State Fault Refusal :=
  let p := s.ev.a
  let q := s.part p
  .next (if !q.valid then s.pctlEnd 1
    else if s.launches.any (fun l => l.part == p) || (List.range q.vfCount).any (fun i => bit (s.vf (q.vfBase + i)).vfq 0) then s.pctlEnd 5
    else
      let s := s.modCore q.svc (fun k => { vc := k.vc, at_ := k.at_, measAt := k.measAt, wbs := k.wbs, nextId := k.nextId })
      let s := s.setBytes (s.descAt p) (leBytes (s.num (s.descAt p) 8 / 2 * 2) 8)
      let s := { s with dies := smapv {} (fun d => { d with pools := d.pools.filter (fun x => x.part != p) }) s.dies }
      (s.modPart p (fun _ => {})).pctlEnd 0)

end Sys2Proof.Machine
end

