-- ==== Sys2Proof/Machine/Boundary.lean ====
section
/-!
DEFINITION. The phase boundary of a core and the refresh of a released group (R260, R262, R263).
-/

namespace Sys2Proof.Machine

open Sys2Proof

/-- An L1 access of the core is still to be performed (R260 step 1). -/
def Core.accessing (k : Core) : Bool := !k.atomics.isEmpty || k.longs.any (fun o => !o.missing.isEmpty)

/-- PHASE_BOUNDARY_START (R260, R262): core. The requests made so far are served together; once no access is under way every
dirty byte is written back. -/
def execPhaseBoundaryStart (s : State) : Host.Outcome State Fault Refusal :=
  let c := s.ev.a
  let k := s.core c
  .next (match k.bstage with
    | .idle => if k.bnext.isEmpty then s else s.setCore c { k with bserve := k.bnext, bnext := [], bat := k.vc, bstage := .drain }
    | .drain =>
      if k.accessing then s
      else
        let s := (s.writeBack c (fun _ => true)).2
        s.modCore c (fun k => { k with bstage := .writeback k.wbIds })
    | _ => s)

/-- One requester is served. -/
def State.serveOne (s : State) (core : Nat) (b : Boundary) : State :=
  match b with
  | .phase slot h i sig op => if sig = 15 then s.opDone core slot op else s.flagDec core slot h i sig
  | .bar h i => (match s.team h i with | some t => s.resumeStanding t (fun b _ => bodyOp b == 0xD0) | none => s)
  | .group h g =>
    (s.teams.filter (fun t => t.handle == h && t.core == core && !t.out && !t.arrived.contains g)).foldl
      (fun s t => s.resumeStanding t (fun b w => bodyOp b != 0xD0 && w.grp == some g)) s
  | .retire h i => s.retired h i
  | .save h i => s.saveServed h i

/-- The refresh part: every line of the L1 goes, and each requester is served. -/
def State.serve (s : State) (core : Nat) : State :=
  let l := (s.core core).bserve
  let s := s.modCore core (fun k => { k with l1 := [], bserve := [], bstage := .idle })
  l.foldl (fun s b => s.serveOne core b) s

/-- The release of a group. -/
def Boundary.isGroup : Boundary → Bool
  | .group .. => true
  | _ => false

/-- The write-back part of a core is over. -/
def Core.writtenBack (k : Core) : Bool :=
  match k.bstage with
  | .writeback l => l.all (fun i => !k.wbs.any (fun w => w.id == i))
  | .refresh => true
  | _ => false

/-- PHASE_BOUNDARY_COMPLETE (R260, R263): core. With a group among the requests the refresh part waits for its other cores. -/
def execPhaseBoundaryComplete (s : State) : Host.Outcome State Fault Refusal :=
  let c := s.ev.a
  let k := s.core c
  .next (match k.bstage with
    | .writeback _ =>
      if !k.writtenBack then s
      else if k.bserve.any Boundary.isGroup then s.modCore c (fun k => { k with bstage := .refresh })
      else s.serve c
    | _ => s)

/-- The write-back parts of every core that a group's release concerns are over. A core that waits with its refresh part for
another group has nothing dirty. -/
def State.groupWritten (s : State) (b : Boundary) : Bool :=
  s.cores.all (fun q => !(q.2.bserve.contains b || q.2.bnext.contains b) || q.2.bstage == .refresh)

/-- BARRIER_REFRESH (R263): handle, group. -/
def execBarrierRefresh (s : State) : Host.Outcome State Fault Refusal :=
  let b := Boundary.group s.ev.a s.ev.b
  let go := fun (k : Core) => k.bstage == .refresh && k.bserve.contains b && (k.bserve.filter Boundary.isGroup).all s.groupWritten
  .next (((s.cores.filter (fun q => go q.2)).map (fun q => q.1)).foldl (fun s c => s.serve c) s)

end Sys2Proof.Machine
end

