-- ==== Sys2Proof/Machine/Calls.lean ====
section
/-!
DEFINITION. System calls (R347, R396 to R401) and `wmset` (R389).
-/

namespace Sys2Proof.Machine

open Sys2Proof

/-! ### Batches (R398, R399) -/

/-- A batch of a team; a service core's have handle 0 and its number. -/
def CallBatch.named (b : CallBatch) (h i n : Nat) : Bool := b.handle == h && b.team == i && b.batch == n
def State.callBatch (s : State) (h i n : Nat) : Option CallBatch := s.callBatches.find? (fun b => b.named h i n)
def State.modBatchOf (s : State) (h i n : Nat) (f : CallBatch → CallBatch) : State :=
  { s with dies := smapv {} (fun d => { d with calls := modWhere (fun b => b.named h i n) f d.calls }) s.dies }
def State.dropBatch (s : State) (h i n : Nat) : State :=
  { s with dies := smapv {} (fun d => { d with calls := d.calls.filter (fun b => !b.named h i n) }) s.dies }
def State.addBatch (s : State) (core : Nat) (b : CallBatch) : State := s.modDie (dieOf core) (fun d => { d with calls := d.calls ++ [b] })

/-- The notification word. -/
def CallBatch.note (b : CallBatch) : Nat := b.batch % 2 ^ 32 + b.status % 256 * 2 ^ 32 + b.lane % 64 * 2 ^ 40

/-- The lanes in the order in which their records enter the ring: unspecified, so free (log 5). -/
def pickOrder : Nat → Nat → List Nat → List Nat
  | 0, _, _ => []
  | n + 1, k, l => match l with
    | [] => []
    | a :: r =>
      let x := (l[Config.laneChoice k % l.length]?).getD a
      x :: pickOrder n (k + 1) ((a :: r).filter (fun y => y != x))

/-- The ring slots from a tail are all free. -/
def State.ringFree (s : State) (csr : Word) (tail n : Nat) : Bool := (List.range n).all (fun i => !s.ringValid (ringSlot csr 64 (tail + i)) 64)

/-- Write a call record. -/
def State.putCall (s : State) (csr : Word) (at_ : Nat) (ws : List Nat) : State := s.setBytes (ringSlot csr 64 at_) (wordsBytes ws)

/-- The record of one lane's call (R397). -/
def Ctx.callRecord (c : Ctx) (t : Team) (f : FmtA) (batch lane : Nat) : List Nat :=
  [ t.handle + t.idx * 2 ^ 32 + c.w.widx * 2 ^ 52 + lane * 2 ^ 56,
    batch % 2 ^ 32 + f.d.toNat * 2 ^ 32 + t.vf * 2 ^ 40 + c.w.epoch % 256 * 2 ^ 56,
    (c.vv2 f.s2 lane).toNat, (c.w.dr f.md.toNat).toNat + 2 ^ 63 ] ++
    (List.range 4).map (fun k => (c.vv2 (f.s1 + BitVec.ofNat 8 (2 * k)) lane).toNat)

/-- R398: the records enter the ring once every earlier store of the core is at its home. -/
def execScall (f : FmtA) (s : State) : Host.Outcome State Fault Refusal :=
  s.run fun c => do
    let m := c.guard f.g
    let s ← c.begin s (some m) [.vs f.s1 24 8 3, .vs f.s2 16 2 3]
    match s.teamOf c.w with
    | none => .ok (s.advance c)
    | some t =>
      let q := (s.part t.part).callq
      let tail := (s.part t.part).callTail
      let lanes := lanesOf m
      let n := lanes.length
      let mine := s.callBatches.filter (fun b => b.handle == t.handle && b.team == t.idx)
      let held := s.callBatches.filter (fun b => match s.team b.handle b.team with | some u => u.core == c.core && !u.out | none => false)
      if 2 ^ bits q 7 0 < n then trapV 0x09 (BitVec.ofNat 64 (n + bits q 7 0 * 256)) m
      else if 16 ≤ mine.length ∨ queueCap 7 ≤ (s.core c.core).popUsed 7 + held.length then stall .queue s
      else if !s.ringFree q tail n then stall .queue s
      else do
        let s ← c.releaseReady s true
        let s ← c.flagInc s (sigOf f.s3)
        let s := s.flushNow c.core
        let b := t.batchCtr
        let s := s.modTeam t.handle t.idx (fun x => { x with batchCtr := (b + 1) % 2 ^ 32 })
        let order := pickOrder n s.free lanes
        let s := { s with free := s.free + n }
        let s := order.zipIdx.foldl (fun s x => s.putCall q (tail + x.2) (c.callRecord t f b x.1)) s
        let s := s.modPart t.part (fun p => { p with callTail := tail + n })
        let s := s.addBatch c.core { handle := t.handle, team := t.idx, batch := b, widx := c.w.widx, sig := sigOf f.s3, epoch := c.w.epoch, left := n }
        .ok ((if n = 0 then s.soon [{ step := .scallBatchComplete, a := t.handle, b := t.idx, c := b }] else s).advance c)

/-- SCALL_BATCH_COMPLETE (R347, R399, R401): handle, team, batch; for a service core 0 and its number. -/
def execScallBatchComplete (s : State) : Host.Outcome State Fault Refusal :=
  let e := s.ev
  .next (match s.callBatch e.a e.b e.c with
    | none => s
    | some b =>
      if b.left ≠ 0 then s
      else
        let s := s.dropBatch e.a e.b e.c
        if e.a = 0 then s.flagDec e.b 0 0 0 b.sig
        else match s.team e.a e.b with
          | none => s
          | some t =>
            if t.out then
              let s := if t.state = .checkpointed then
                  s.setBytes (s.slotAt t.part t.cslot + 0x100 + 64 * t.replies.length) (wordsBytes [b.note, b.sig + b.widx * 2 ^ 8 + 2 ^ 63])
                else s
              s.modTeam t.handle t.idx (fun x => { x with replies := x.replies ++ [{ widx := b.widx, sig := b.sig, note := b.note }] })
            else
              let sl := t.slots.getD b.widx 32
              let s := s.modCore t.core (fun k => k.dropClean (fun _ => true))
              ((s.post t.core 7 sl (BitVec.ofNat 64 b.note)).flagDec t.core sl t.handle t.idx b.sig).callsOver t.handle t.idx)

/-! ### Epochs (R400) -/

/-- The epoch advances. -/
def State.nextEpoch (s : State) (c : Ctx) : State := s.modWarp c.core c.slot (fun w => { w with epoch := (w.epoch + 1) % 256 })

/-- R400. -/
def execFcall (f : FmtA) (s : State) : Host.Outcome State Fault Refusal := scalarDo s f.g [] fun c s => .ok (s.nextEpoch c)

/-- R400: the path waits for the warp's batches so far. -/
def execFcallDone (f : FmtA) (s : State) : Host.Outcome State Fault Refusal :=
  s.run fun c =>
    if !c.on f.g then .ok (s.advance c)
    else
      let l := (s.callBatches.filter (fun b => b.handle == c.w.handle && b.team == c.w.team && b.widx == c.w.widx)).map (fun b => b.batch)
      let s := (s.nextEpoch c).advance c
      .ok (if l.isEmpty then s else s.park c (.calls l))

/-! ### On a service core (R401) -/

/-- R401: a call of a hypervisor into the root ring. -/
def execScallUp (f : FmtA) (s : State) : Host.Outcome State Fault Refusal :=
  s.run fun c => do
    c.needs .hypervisor
    if c.p.level = .root then trapS 0x01 (illegalInfo 0x07 5)
    else do
      let s ← c.begin s none [.xs f.s1 24 4]
      if !c.on f.g then .ok (s.advance c)
      else
        let q := s.pkg.rcallq
        let tail := s.pkg.rcallTail
        if !s.ringFree q tail 1 then stall .queue s
        else do
          let s ← c.releaseReady s true
          let s ← c.flagInc s (sigOf f.s3)
          let s := s.flushNow c.core
          let b := sget 0 s.pkg.upBatch c.core
          let ws := [(c.part s).getD 0, b + f.d.toNat * 2 ^ 32, 0, 2 ^ 63] ++ (List.range 4).map (fun i => (c.w.xr (opIdx f.s1 + i)).toNat)
          let s := s.putCall q tail ws
          let s := s.modPkg (fun k => { k with rcallTail := tail + 1, upBatch := sput 0 k.upBatch c.core ((b + 1) % 2 ^ 32) })
          .ok ((s.addBatch c.core { handle := 0, team := c.core, batch := b, widx := 0, sig := sigOf f.s3, epoch := 0, left := 1, svc := some c.core }).advance c)

/-- A reply counts for a batch: the status of the lowest lane with one that is not zero stays. -/
def CallBatch.reply (b : CallBatch) (lane st : Nat) : CallBatch :=
  let takes := decide (st ≠ 0) && (decide (b.status = 0) || decide (lane < b.lane))
  { b with left := b.left - 1, status := if takes then st else b.status, lane := if takes then lane else b.lane }

/-- R401: a reply to the call in a slot of the ring of the issuing level. -/
def execScallReply (f : FmtA) (s : State) : Host.Outcome State Fault Refusal :=
  sysDo s .hypervisor f.g [.xs f.s1 24 1, .xs f.s2 16 1, .xd f.d] fun c s =>
    let p := c.part s
    let q := match p with | some p => (s.part p).callq | none => s.pkg.rcallq
    let a := ringSlot q 64 (c.xv f.s1).toNat
    if 2 ^ bits q 7 0 ≤ (c.xv f.s1).toNat then .ok (c.answer s f.d 3)
    else if !s.ringValid a 64 then .ok (c.answer s f.d 1)
    else do
      let s ← c.releaseReady s true
      let s := s.flushNow c.core
      let w0 := s.num a 8
      let n := s.num (a + 8) 4
      let (h, i) := match p with
        | some _ => (w0 % 2 ^ 32, w0 / 2 ^ 32 % 2 ^ 20)
        | none => (0, (s.part (w0 % 32)).svc)
      let s := s.setNum (a + 24) 8 (s.num (a + 24) 8 % 2 ^ 63)
      match s.callBatch h i n with
      | none => .ok (c.answer s f.d 2)
      | some b =>
        let b := b.reply (w0 / 2 ^ 56 % 64) (bits (c.xv f.s2) 7 0)
        let s := s.modBatchOf h i n (fun _ => b)
        .ok (c.answer (if b.left = 0 then s.soon [{ step := .scallBatchComplete, a := h, b := i, c := n }] else s) f.d 0)

/-- R401: `launch` for a VF of the partition. -/
def execScallLaunch (f : FmtA) (s : State) : Host.Outcome State Fault Refusal :=
  s.run fun c => do
    c.needs .hypervisor
    let s ← c.begin s none [.xs f.s1 24 1, .xs f.s3 8 1, .xd f.d]
    if !c.on f.g then .ok (s.advance c)
    else
      let v := c.xv f.s3
      match (c.part s).filter (fun p => decide (v.toNat < 512) && (s.part p).hasVf v.toNat) with
      | none => trapS 0x09 v
      | some _ => do
        let (h, s) ← c.submit s { c.acc s (opIdx f.s2 % 8) with vf := v.toNat } (c.xv f.s1)
        .ok ((s.landX c 8 (opIdx f.d) (BitVec.ofNat 64 h)).advance c)

/-! ### wmset (R389) -/

/-- R389. -/
def execWmset (f : FmtA) (s : State) : Host.Outcome State Fault Refusal :=
  sysDo s .hypervisor f.g [.xs f.s1 24 1, .xs f.s2 16 1] fun c s =>
    let v := c.xv f.s1
    let m := c.xv f.s2
    let own := match c.part s with | some p => (s.part p).hasVf v.toNat | none => true
    let ways := match s.partOfVf v.toNat with | some p => (s.part p).ways | none => 0
    if 511 < v.toNat ∨ own = false then trapS 0x09 v
    else if bits m 63 24 ≠ 0 ∨ (List.range 24).any (fun i => m.getLsbD i && !Nat.testBit ways i) = true then trapS 0x09 m
    else .ok ((s.modVf v.toNat (fun x => { x with ways := bits m 23 0 })).advance c)

end Sys2Proof.Machine
end

