-- ==== Sys2Proof/Machine/Display.lean ====
section
/-!
DEFINITION. Display heads (R375 to R377): the regulator, the vertical blank and the lines sent.
-/

namespace Sys2Proof.Machine

open Sys2Proof

def Head.enabled (h : Head) : Bool := bit h.dhctl 0
/-- Bytes of a pixel, pixels of a line, and the lines. -/
def Head.pixel (h : Head) : Nat := if bit h.dhctl 1 then 8 else 4
def Head.width (h : Head) : Nat := bits h.dhgeom 12 0 + 1
def Head.height (h : Head) : Nat := bits h.dhgeom 28 16 + 1
def Head.level (h : Head) : Nat := bits h.cnt1 34 32

/-- Add 1 to a saturating 16-bit field. -/
def bump16 (v : Word) (lo : Nat) : Word := setBits v lo 16 (satInc (bits v (lo + 15) lo) 65535 1)

/-- The level that a tick sets. -/
def Head.nextLevel (h : Head) : Nat :=
  let f := h.fifo.length / 1024
  if f < bits h.dhwm 25 16 then 5
  else if f < bits h.dhwm 9 0 then min (h.level + 1) 4
  else h.level - 1

/-- A tick of an enabled head. -/
def Head.tick (h : Head) (now : Nat) : Head :=
  let n := h.nextLevel
  let h := { h with cnt1 := setBits h.cnt1 32 3 n, tickAt := (now / (1000 * refUnit) + 1) * (1000 * refUnit) }
  if n = 0 then h
  else if n = 5 then { h with cnt1 := bump16 h.cnt1 0 }
  else { h with cnt0 := bump16 h.cnt0 (16 * (n - 1)) }

/-- REGULATOR_TICK (R377): head; every 1 µs. -/
def execRegulatorTick (s : State) : Host.Outcome State Fault Refusal :=
  .next (s.modHead s.ev.a (fun h => if h.enabled && decide (h.tickAt ≤ s.pkg.now) then h.tick s.pkg.now else h))

/-- VERTICAL_BLANK (R376): head. A base that waits takes effect, a frame has been scanned, the next is fetched anew. -/
def execVerticalBlank (s : State) : Host.Outcome State Fault Refusal :=
  .next (s.modHead s.ev.a (fun h => { h with
    dhbase := h.dhbaseNext.getD h.dhbase, dhbaseNext := none, fifo := [], fetchAt := 0, line := 0,
    dhctl := if h.enabled then setBits h.dhctl 48 16 (bits h.dhctl 63 48 + 1) else h.dhctl }))

/-- The partition that holds a head. -/
def State.partOfHead (s : State) (h : Nat) : Option Nat := (s.parts.find? (fun q => q.2.valid && Nat.testBit q.2.headMask h)).map (fun q => q.1)

/-- A frame is owned by a partition itself (R318, R375). -/
def State.ownFrame (s : State) (p a : Nat) : Bool := decide (a < memTop) && decide (bits (s.fotOf a) 11 0 = 0xE00 + p)

/-- Fetch the next `n` pixels of a head's frame into its FIFO, as its room allows; a frame that the head's partition does not own gives black. A
block that fails its check gives zeros; the head counts it and it is logged at the die (R242, R243). -/
def State.fetchPixels (s : State) (head : Nat) : Nat → State
  | 0 => s
  | n + 1 =>
    let h := s.head head
    if 524288 < h.fifo.length + h.pixel ∨ h.width * h.height ≤ h.fetchAt then s
    else
      let a := bits h.dhbase 49 8 * 256 + h.fetchAt / h.width * bits h.dhgeom 63 32 + h.fetchAt % h.width * h.pixel
      let own := match s.partOfHead head with | some p => s.ownFrame p a | none => false
      let cmp := sget false s.memCmp (a / 256)
      let bad := own && s.homeBad a cmp
      let b := if own && !bad then s.homeBytes a h.pixel cmp else List.replicate h.pixel 0
      let s := if own then s.scRead (lineOf a) 2 none cmp else s
      let s := if bad && decide (a % 64 = 0) then
        (s.modHead head (fun h => { h with mismatches := h.mismatches + 1 })).logEvent 6 head else s
      (s.modHead head (fun h => { h with fifo := h.fifo ++ b, fetchAt := h.fetchAt + 1 })).fetchPixels head n

/-- SCAN_OUT_LINE (R376): head, and the pixels that memory has delivered since the line before. Missing pixels are black. -/
def execScanOutLine (s : State) : Host.Outcome State Fault Refusal :=
  let e := s.ev
  let s := if (s.head e.a).enabled then s.fetchPixels e.a e.b else s
  .next (s.modHead e.a (fun h =>
    if !h.enabled || decide (h.height ≤ h.line) then h
    else
      let n := h.width * h.pixel
      let got := h.fifo.take n
      { h with fifo := h.fifo.drop n, line := h.line + 1, scanned := got ++ List.replicate (n - got.length) 0,
               cnt1 := if got.length < n then bump16 h.cnt1 16 else h.cnt1 }))

end Sys2Proof.Machine
end

