-- ==== Sys2Proof/Machine/LaneMove.lean ====
section
/-!
DEFINITION. Lane movement and the tree unit (R169 to R172).
-/

namespace Sys2Proof.Machine

open Sys2Proof

/-! ### Lane movement (R169) -/

/-- The lane number that a scalar operand names: bits [5:0]. -/
def Ctx.laneSel (c : Ctx) (b : BitVec 8) : Nat := (c.xv b).toNat % 64

/-- R169: copy a register or a pair. -/
def execVmov (f : FmtA) (s : State) : Host.Outcome State Fault Refusal :=
  s.run fun c => do
    let m := c.guard f.g
    let n := if f.md = 1 then 2 else 1
    let s ← c.begin s (some m) [.vs f.s1 24 n 3, .vd f.d n]
    let vals := (lanesOf m).map (fun l => (l, if f.md = 1 then (c.vv2 f.s1 l).toNat else (c.vv f.s1 l).toNat))
    .ok ((s.landLanes c 2 f.d (f.md == 1) vals).advance c)

/-- The value that `vbcast` puts into a lane. -/
def bcastValue (md : Nat) (x : Word) : Nat :=
  match md with
  | 0 => x.toNat % 2 ^ 32
  | 1 => x.toNat
  | 2 => x.toNat % 2 ^ 16 * 0x10001
  | _ => x.toNat % 2 ^ 8 * 0x1010101

/-- R169: a scalar into every guarded active lane. -/
def execVbcast (f : FmtA) (s : State) : Host.Outcome State Fault Refusal :=
  s.run fun c => do
    let m := c.guard f.g
    let s ← c.begin s (some m) [.xs f.s1 24 1, .vd f.d (if f.md = 1 then 2 else 1)]
    .ok ((s.landLanes c 3 f.d (f.md == 1) ((lanesOf m).map (fun l => (l, bcastValue f.md.toNat (c.xv f.s1))))).advance c)

/-- R169: one lane, active or not, into a scalar. -/
def execVext (f : FmtA) (s : State) : Host.Outcome State Fault Refusal :=
  s.run fun c => do
    let n := if f.md = 2 then 2 else 1
    let l := c.laneSel f.s2
    let s ← c.beginFrom s none (if c.on f.g then laneBit l else 0) [.vs f.s1 24 n 3, .xs f.s2 16 1, .xd f.d]
    let v : Word := if f.md = 2 then c.vv2 f.s1 l else if f.md = 1 then (c.vv f.s1 l).signExtend 64 else (c.vv f.s1 l).setWidth 64
    .ok ((if c.on f.g then s.landX c 4 (opIdx f.d) v else s).advance c)

/-- R169: a scalar into one lane, if that lane is active and its guard holds. -/
def execVins (f : FmtA) (s : State) : Host.Outcome State Fault Refusal :=
  s.run fun c => do
    let m := c.guard f.g &&& laneBit (c.laneSel f.s2)
    let s ← c.begin s (some (c.guard f.g)) [.xs f.s1 24 1, .xs f.s2 16 1, .vd f.d (if f.md = 1 then 2 else 1)]
    .ok ((s.landLanes c 3 f.d (f.md == 1) ((lanesOf m).map (fun l => (l, (c.xv f.s1).toNat)))).advance c)

/-- Single-register lane results, each from a source lane of S1 (`none`: the value 0). -/
def moveOp (s : State) (f : FmtA) (ops : List Opnd) (lat : Nat) (src : Ctx → Nat → Option Nat) :
    Host.Outcome State Fault Refusal :=
  s.run fun c => do
    let m := c.guard f.g
    let s ← match c.feCheck s (some m) (.vs f.s1 24 1 3 :: .vd f.d 1 :: ops) with
      | .error e => Except.error e
      | .ok () =>
        if c.w.sound then .ok s
        else do
          let s ← c.poisonCheck s (some m) (maskOf ((lanesOf m).filterMap (src c))) [.vs f.s1 24 1 3]
          c.poisonCheck s (some m) m ops
    .ok ((s.landV c lat (c.phys (opIdx f.d)) ((lanesOf m).map (fun l =>
      (l, match src c l with | some k => c.vv f.s1 k | none => 0)))).advance c)

/-- R169: per-lane indices; `.z` gives 0 where bit 31 of the index is set. -/
def execVperm (f : FmtA) (s : State) : Host.Outcome State Fault Refusal :=
  moveOp s f [.vs f.s2 16 1 (if f.md = 1 then 3 else 1)] 4 fun c l =>
    let i := c.vv f.s2 l
    if f.md = 1 ∧ bit i 31 = true then none else some (i.toNat % 64)

/-- The source lane of `vshfl`; outside 0 to 63 the lane itself. -/
def shflSrc (md k l : Nat) : Nat :=
  match md with
  | 0 => l ^^^ k
  | 1 => if l < k then l else l - k
  | 2 => if 64 ≤ l + k then l else l + k
  | _ => k

/-- R169. -/
def execVshfl (f : FmtA) (s : State) : Host.Outcome State Fault Refusal :=
  moveOp s f [] 4 fun _ l => some (shflSrc f.md.toNat (f.s3.toNat % 64) l)

/-- The source lane of `vlane`, within the slice. -/
def laneSrc (md k l : Nat) : Nat :=
  match md with
  | 0 => l ^^^ 1
  | 1 => l ^^^ 2
  | 2 => l ^^^ 3
  | _ => 4 * (l / 4) + k

/-- R169. -/
def execVlane (f : FmtA) (s : State) : Host.Outcome State Fault Refusal :=
  moveOp s f [] 3 fun _ l => some (laneSrc f.md.toNat (f.s3.toNat % 4) l)

/-- R169: a scalar mask of the guarded active lanes in which the test holds. -/
def execVballot (f : FmtA) (s : State) : Host.Outcome State Fault Refusal :=
  s.run fun c => do
    let m := c.guard f.g
    let gr := match f.md.toNat with | 0 => 3 | 1 => 2 | _ => 1
    let s ← c.beginFrom s none m [.vs f.s1 24 1 gr, .xd f.d]
    let test := fun (a : Lane) => match f.md.toNat with
      | 0 => decide (a ≠ 0)
      | 1 => a.getLsbD 31
      | _ => a.getLsbD 0
    let v := maskOf ((lanesOf m).filter (fun l => test (c.vv f.s1 l)))
    .ok ((if m = 0 then s else s.landX c 4 (opIdx f.d) v).advance c)

/-! ### The tree unit (R170 to R172) -/

/-- A node's value: an exact integer for MOD 0 to 4, FP32 bits for 5 to 7. -/
def treeIn (md : Nat) (a : Lane) : Int := if md ≤ 2 then a.toInt else a.toNat

/-- One combining node on two present operands: value and flags. -/
def treeComb (md : Nat) (rm : Rm) (x y : Int) : Int × Nat :=
  match md with
  | 0 => (x + y, 0)
  | 1 | 3 => (if x ≤ y then x else y, 0)
  | 2 | 4 => (if x ≤ y then y else x, 0)
  | 5 =>
    let (b, fl) := f32.rnd rm (fvAdd rm (f32.read rm.ftz x.toNat) (f32.read rm.ftz y.toNat)) 0
    (b, fl)
  | _ => let (b, fl) := f32.minMax rm.ftz (md == 7) x.toNat y.toNat; (b, fl)

/-- A node of the tree (R171): an absent operand passes the other on. -/
def treeNode (md : Nat) (rm : Rm) (x y : Option Int) : Option Int × Nat :=
  match x, y with
  | none, y => (y, 0)
  | x, none => (x, 0)
  | some x, some y => let (v, fl) := treeComb md rm x y; (some v, fl)

/-- The 64 nodes and the flags so far. -/
structure Tree where
  a : List (Option Int)
  fl : Nat
  deriving DecidableEq, Repr

def Tree.get (t : Tree) (k : Nat) : Option Int := (t.a[k]?).getD none
def Tree.set (t : Tree) (k : Nat) (v : Option Int) : Tree := { t with a := t.a.set k v }

/-- The nodes k with (k + 1) mod 2^(d+1) = 0. -/
def treeKs (d : Nat) : List Nat := (List.range 64).filter (fun k => (k + 1) % 2 ^ (d + 1) == 0)

/-- The up-sweep. -/
def Tree.up (md : Nat) (rm : Rm) (t : Tree) : Tree :=
  (List.range 6).foldl (fun t d => (treeKs d).foldl (fun (t : Tree) k =>
    let (v, fl) := treeNode md rm (t.get (k - 2 ^ d)) (t.get k)
    { t.set k v with fl := t.fl ||| fl }) t) t

/-- The down-sweep. -/
def Tree.down (md : Nat) (rm : Rm) (t : Tree) : Tree :=
  [5, 4, 3, 2, 1, 0].foldl (fun t d => (treeKs d).foldl (fun (t : Tree) k =>
    let x := t.get (k - 2 ^ d)
    let y := t.get k
    let (v, fl) := treeNode md rm x y
    { (t.set (k - 2 ^ d) y).set k v with fl := t.fl ||| fl }) t) (t.set 63 none)

/-- The empty value of an operation, a 32-bit pattern (R170). -/
def treeEmpty (md : Nat) : Lane :=
  match md with
  | 1 => 0x7FFFFFFF
  | 2 => 0x80000000
  | 3 => 0xFFFFFFFF
  | 6 => 0x7F800000
  | 7 => 0xFF800000
  | _ => 0

/-- The rounding of the tree unit: SR is taken as RNE (R170). -/
def Ctx.treeRm (c : Ctx) : Rm := if c.rm.mode = 4 then { c.rm with mode := 0 } else c.rm

/-- The leaves: the lanes that take part. -/
def Ctx.leaves (c : Ctx) (md : Nat) (m : Mask) (b : BitVec 8) : Tree :=
  { a := (List.range 64).map (fun l => if m.getLsbD l then some (treeIn md (c.vv b l)) else none), fl := 0 }

/-- R170: the reduction's value in D's 64 bits, and flags. -/
def Ctx.reduce (c : Ctx) (md : Nat) (m : Mask) (b : BitVec 8) : Word × Nat :=
  let t := (c.leaves md m b).up md c.treeRm
  (wrap64 ((t.get 63).getD (treeIn md (treeEmpty md))), t.fl)

/-- R171: the prefix values of the lanes that take part, and flags. -/
def Ctx.scan (c : Ctx) (md : Nat) (excl : Bool) (m : Mask) (b : BitVec 8) : List (Nat × Lane) × Nat :=
  let t := ((c.leaves md m b).up md c.treeRm).down md c.treeRm
  (lanesOf m).foldl (fun (r : List (Nat × Lane) × Nat) l =>
    let (v, fl) := if excl then (t.get l, 0) else treeNode md c.treeRm (t.get l) (some (treeIn md (c.vv b l)))
    (r.1 ++ [(l, match v with | some x => wrap32 x | none => treeEmpty md)], r.2 ||| fl)) ([], t.fl)

/-- R170: with no lane taking part the empty value is still written when the tree unit completes (R152). -/
def execRed (f : FmtA) (s : State) : Host.Outcome State Fault Refusal :=
  s.run fun c => do
    let m := c.guard f.g
    let s ← c.beginFrom s none m [.vs f.s1 24 1 3, .xd f.d]
    let s ← s.takeUnit c 1 2
    let (v, fl) := c.reduce f.md.toNat m f.s1
    let d := opIdx f.d
    .ok ((s.startLong c (if d = 0 then .none else .x d) m (.done (if d = 0 then [] else [.x d v]) fl)).advance c)

/-- R170. -/
def execScan (f : FmtA) (s : State) : Host.Outcome State Fault Refusal :=
  s.run fun c => do
    let m := c.guard f.g
    let s ← c.begin s (some m) [.vs f.s1 24 1 3, .vd f.d 1]
    if m = 0 then .ok (s.advance c)
    else do
      let s ← s.takeUnit c 1 2
      let (l, fl) := c.scan f.md.toNat (f.s3.getLsbD 0) m f.s1
      let ph := c.phys (opIdx f.d)
      .ok ((s.startLong c (.v [ph]) m (.done [.v ph l] fl)).advance c)

end Sys2Proof.Machine
end

