-- ==== Sys2Proof/Machine/Links.lean ====
section
/-!
DEFINITION. Virtual functions and links (R385, R390, R392 to R395): the launch ring, the doorbell, and what arrives over
PCIe, Flefin and UCIe.
-/

namespace Sys2Proof.Machine

open Sys2Proof

/-! ### RUN (R385) -/

/-- VFQ_RUN_SET (R385): VF. Its records are loaded into the queues again, so the arbiter sees its launches. -/
def execVfqRunSet (s : State) : Host.Outcome State Fault Refusal :=
  .next (if (s.taskRecords s.ev.a).isEmpty then s else (s.ringLoad s.ev.a).soon [{ step := .arbiterRun, a := 0 }, { step := .arbiterRun, a := 1 }])

/-- VFQ_RUN_CLEAR (R385): VF. Its records are written to its ring; entries that teams hold in cluster queues are given up. -/
def execVfqRunClear (s : State) : Host.Outcome State Fault Refusal :=
  let v := s.ev.a
  let s := s.ringStore v
  let mine := fun (e : Nat × Nat) => match s.launch e.1 with | some l => l.vf == v | none => false
  let s := { s with dies := smapv {} (fun d => { d with clusterQ := smapv [] (fun q => q.filter (fun e => !mine e)) d.clusterQ }) s.dies }
  .next { s with launches := modWhere (fun l => l.vf == v) (fun l => { l with next := l.started }) s.launches }

/-! ### PCIe (R395) -/

/-- BIND of a VF (R384). -/
def Vf.bind (x : Vf) : Nat := bits x.vfq 5 2
def Vf.enabled (x : Vf) : Bool := bit x.vfq 0

/-- DOORBELL (R395): VF, and with `c` = 0 the block's offset, with `c` = 1 a write of SPACE. -/
def execDoorbell (s : State) : Host.Outcome State Fault Refusal :=
  let e := s.ev
  let x := s.vf e.a
  let d := e.a / 256
  .next (match s.partOfVf e.a with
    | none => s
    | some p =>
      if !x.enabled || x.bind != 1 || x.saving then s
      else if e.c = 1 then s.modVf e.a (fun v => { v with dbSpace := BitVec.ofNat 16 e.w.toNat })
      else if s.launchFull d p || decide (e.w.toNat % 64 ≠ 0) then s.modVf e.a (fun v => { v with dbHandle := 0 })
      else
        let (h, s) := s.submit { handle := 0, die := d, vf := e.a, part := p, level := .supervisor, space := x.dbSpace, addr := e.w,
                                 doms := [x.dbSpace], csig := 15 }
        s.modVf e.a (fun v => { v with dbHandle := h }))

/-- Requests of a port that are held and arrived before this one: all but those behind it. -/
def State.heldFirst (s : State) (port n : Nat) (r : InboundReq) : List (Nat × Nat × InboundReq) :=
  (s.pkg.inbound.takeWhile (fun q => q != (port, n, r))).filter (fun q => q.1 == port)

/-- A request waits, in its place among those held. -/
def State.holdInbound (s : State) (port n : Nat) (r : InboundReq) : State :=
  if s.pkg.inbound.contains (port, n, r) then s else s.modPkg (fun k => { k with inbound := k.inbound ++ [(port, n, r)] })

/-- A request that was held is held no more. -/
def State.unhold (s : State) (port n : Nat) (r : InboundReq) : State :=
  s.modPkg (fun k => { k with inbound := k.inbound.filter (fun q => q != (port, n, r)) })

/-- What an inbound request ends in: its answer, with whether it carries the link's poison marking (R243), or the request held behind a stage-2
fault; a write waits behind the earlier writes of its port (R277). A refused access has no effect. -/
def State.inbound (s : State) (port n : Nat) (r : InboundReq) (core cls : Nat) (space : BitVec 16) : Option (List Byte × Bool) × State :=
  match s.partOfVf r.vf with
  | none => (none, s.unhold port n r)
  | some p =>
    let a : Acc := { part := p, vf := r.vf, space := space.toNat, level := .supervisor, id := ⟨some r.vf, some p, .supervisor⟩ }
    match r.wr with
    | some b =>
      if (s.heldFirst port n r).any (fun q => q.2.2.wr.isSome) then (none, s.holdInbound port n r)
      else (match s.unitWrite core a r.off b with
      | .ok _ s => (some ([], false), s.unhold port n r)
      | .wait s => (none, s.holdInbound port n r)
      | .bad _ => (none, s.unhold port n r))
    | none => (match s.egressRead core cls a r.off r.len with
      | .ok b s => (some b, s.unhold port n r)
      | .wait s => (none, s.holdInbound port n r)
      | .bad _ => (none, s.unhold port n r))

/-- PCIE_INBOUND_REQUEST (R395): its number, and the request; the PCIe address is the offset in the space that SPACE names. -/
def execPcieInboundRequest (s : State) : Host.Outcome State Fault Refusal :=
  .next (match s.ev.req with
    | none => s
    | some r =>
      let x := s.vf r.vf
      let n := s.ev.b
      if !x.enabled || x.bind != 1 then s.unhold 8 n r else (s.inbound 8 n r (128 * (r.vf / 256)) 4 x.dbSpace).2)

/-! ### Flefin (R392, R393) -/

/-- The die of a port: four to a die. -/
def portDie (p : Nat) : Nat := p / 4

/-- FLEFIN_INBOUND_REQUEST (R392): port, its number, and the request of a VF bound to the port. -/
def execFlefinInboundRequest (s : State) : Host.Outcome State Fault Refusal :=
  let p := s.ev.a
  let n := s.ev.b
  .next (match s.ev.req with
    | none => s
    | some r =>
      let x := s.vf r.vf
      let held := match s.partOfVf r.vf with | some q => Nat.testBit (s.part q).portMask p | none => false
      if !x.enabled || x.bind != p + 2 || !held || (s.port p).down then s.unhold p n r
      else
        let (ans, s) := s.inbound p n r (128 * portDie p) 3 r.space
        match ans with
        | some b => s.modPort p (fun k => { k with answers := k.answers ++ [(n, b)] })
        | none => s)

/-- The device-physical address that a transaction was made at. -/
def FleTxn.pa (t : FleTxn) (port : Nat) : Nat := 3 * 2 ^ 48 + port * 2 ^ 45 + t.off

/-- A producer gets the bytes of one of its lanes that waits for an address. -/
def LongOp.linkBytes (o : LongOp) (pa : Nat) (b : List Byte) (bad : Bool) : LongOp :=
  let r := o.kind.loads.foldl (fun (r : Bool × List LaneLoad) x =>
    if !r.1 && x.pa == pa && x.got.any (fun y => y.isNone) then
      (true, r.2 ++ [{ x with got := x.got.zipIdx.map (fun y => some ((b[y.2]?).getD 0)), bad := bad }])
    else (r.1, r.2 ++ [x])) (false, [])
  { o with kind := o.kind.setLoads r.2 }

/-- A transaction leaves the port: its credit and window return, its data goes to the producer that waits. -/
def State.endTxn (s : State) (port : Nat) (t : FleTxn) (b : List Byte) (bad : Bool) : State :=
  let s := s.modPort port (fun p => { p with txns := p.txns.filter (fun x => x.id != t.id), window := p.window - txnSize t.size })
  let s := match t.long_ with
    | some id => s.modCore t.core (fun k => { k with longs := modWhere (fun o => o.id == id) (fun o => o.linkBytes (t.pa port) b bad) k.longs })
    | none => s
  if t.write then s.orders t.core else s

/-- A transaction ends in error (R393): a load's bytes are poisoned, a write's error is kept for its warp; an atomic's
old value is free (log 5). -/
def State.failTxn (s : State) (port : Nat) (t : FleTxn) : State :=
  let s := if t.write then s.modPort port (fun p => { p with errored := p.errored ++ [64 * t.core + t.slot] }) else s
  let (b, s) := s.pcieRead t.size
  s.endTxn port t b (!t.write)

/-- FLEFIN_RESPONSE (R393): port, transaction, and the data it brings. -/
def execFlefinResponse (s : State) : Host.Outcome State Fault Refusal :=
  .next (match (s.port s.ev.a).txns.find? (fun t => t.id == s.ev.b) with
    | some t => s.endTxn s.ev.a t s.ev.data false
    | none => s)

/-- FLEFIN_TIMEOUT (R393): port, transaction. -/
def execFlefinTimeout (s : State) : Host.Outcome State Fault Refusal :=
  .next (match (s.port s.ev.a).txns.find? (fun t => t.id == s.ev.b) with
    | some t => if t.sentAt + micros 100 ≤ s.pkg.now then s.failTxn s.ev.a t else s
    | none => s)

/-- FLEFIN_PORT_FAILURE (R393): port. -/
def execFlefinPortFailure (s : State) : Host.Outcome State Fault Refusal :=
  let p := s.ev.a
  .next (((s.port p).txns.foldl (fun s t => s.failTxn p t) s).modPort p (fun k => { k with down := true }))

/-- FLEFIN_PORT_TRAINING (R393): port. -/
def execFlefinPortTraining (s : State) : Host.Outcome State Fault Refusal :=
  .next (s.modPort s.ev.a (fun k => { k with down := false }))

/-! ### UCIe (R390) -/

/-- UCIE_RETRY_FAILURE (R390): the flit carried 64-byte block `a` to its home (`b` = 0), or to core `c`'s L1 (`b` = 1). It is
delivered with poison, and the event is logged. -/
def execUcieRetryFailure (s : State) : Host.Outcome State Fault Refusal :=
  let e := s.ev
  let s := s.logEvent 2 e.a
  .next (if e.b = 0 then { s with memPoison := sput false s.memPoison e.a true }
    else s.modCore e.c (fun k => k.modL1 (e.a / 2) (fun l => { l with bad := l.bad ||| BitVec.ofNat 2 (2 ^ (e.a % 2)) })))

end Sys2Proof.Machine
end

