-- ==== Sys2Proof/Machine/Merger.lean ====
section
/-!
DEFINITION. The output merger (R361 to R366): `pxout`, `disc`, fragments in primitive order, and the end of a batch.
-/

namespace Sys2Proof.Machine

open Sys2Proof

/-! ### pxout and disc (R362, R363) -/

/-- Fragments of a team take their output. -/
def State.sendFrags (s : State) (h i : Nat) (out : Nat → Option (List Lane × Option Lane)) : State :=
  let put := fun (f : Frag) => if f.handle = h ∧ f.team = i then
      (match out f.lane with | some (c, z) => { f with out := some (c, z.getD f.z) } | none => f) else f
  { s with dies := smapv {} (fun d => { d with frags := d.frags.map put }) s.dies }

/-- The merger of the die that holds a team's fragments has no room for `n` outputs more: the spec gives it no size, which is a constant of the
implementation (log 62). It keeps room for the oldest team with a fragment that is neither performed nor retired (R364). -/
def State.mergerFull (s : State) (h i n : Nat) : Bool :=
  let mine := fun (f : Frag) => f.handle == h && f.team == i
  s.dies.any (fun d => d.2.frags.any mine && !(match d.2.frags with | f :: _ => mine f | [] => false) &&
    decide (Config.mergerRoom < (d.2.frags.filter (fun f => f.out.isSome)).length + n))

/-- R362; a later team's output that finds the merger full stalls (R364). -/
def execPxout (f : FmtA) (s : State) : Host.Outcome State Fault Refusal :=
  s.run fun c => do
    let m := c.guard f.g
    let z := f.md.getLsbD 0
    let s ← c.begin s (some m) ([.vs f.s1 24 4 3] ++ (if z then [.vs f.s2 16 1 3] else []))
    if m = 0 then .ok (s.advance c)
    else match c.foot s with
      | none => .ok (s.tickFree.takeTrap c 0x09 (Config.freeWord s.free) (some m) [])
      | some t =>
        match (lanesOf (t.sent &&& m)) with
        | l :: _ => let q := lanePixel t.ox t.oy l; trapV 0x09 (BitVec.ofNat 64 (q.1 + q.2 * 2 ^ 16)) m
        | [] =>
          if s.mergerFull t.handle t.team (lanesOf m).length then stall .token s else
          let mine := fun (x : Footprint) => x.handle == t.handle && x.team == t.team
          let s := { s with foots := modWhere mine (fun x => { x with sent := x.sent ||| m }) s.foots }
          .ok ((s.sendFrags t.handle t.team (fun l =>
            if m.getLsbD l then some ((List.range 4).map (fun i => c.vv (f.s1 + BitVec.ofNat 8 i) l), if z then some (c.vv f.s2 l) else none)
            else none)).advance c)

/-- R363: the guarded lanes exit, as by `exit`; their fragments then retire without a write. -/
def execDisc (f : FmtA) (s : State) : Host.Outcome State Fault Refusal := s.run fun c => c.exits s (c.guard f.g)

/-! ### Blending (R361) -/

def rne : Rm := { mode := 0 }
def fval (x : Lane) : Fv := f32.decode x.toNat
/-- Sums, products and fused products of FP32 values under RNE. -/
def lAdd (a b : Lane) : Lane := rne32 (fvAdd rne (fval a) (fval b))
def lMul (a b : Lane) : Lane := rne32 (fvMul (fval a) (fval b))
def lFma (a b c : Lane) : Lane := rne32 (fvFma rne (fval a) (fval b) (fval c))

/-- The blended colour: BLEND, source and destination. -/
def blendOf (b : Nat) (src dst : List Lane) : List Lane :=
  let s := fun (i : Nat) => src.getD i 0
  let d := fun (i : Nat) => dst.getD i 0
  let t := rne32 (fvAdd rne (fval 0x3F800000) (fval (s 3)).negate)
  match b with
  | 0 => src
  | 1 => (List.range 3).map (fun c => lFma (s c) (s 3) (lMul (d c) t)) ++ [lAdd (s 3) (lMul (d 3) t)]
  | _ => (List.range 4).map (fun c => lAdd (s c) (d c))

/-- sat(round_RNE(v x 255), 0, 255), 0 for a NaN. -/
def toUnorm (v : Lane) : Nat :=
  match fval v with
  | .nan _ => 0
  | .inf n => if n then 0 else 255
  | .num n m e => if m = 0 then 0 else (satI (rndInt 0 n (.dy (m * 255) e) 0).1 0 255).toNat

/-- FP16 of an FP32 value under RNE; overflow gives infinity. -/
def toHalf (v : Lane) : Nat :=
  match fval v with
  | .nan _ => f16.nan
  | .inf n => f16.inf n
  | .num n m e => (f16.rnd rne (Fin2.ex ⟨n, m, e⟩) 0).1

/-- A colour as its bytes in the target. -/
def packColour (wide : Bool) (c : List Lane) : List Byte :=
  if wide then c.flatMap (fun v => leBytes (toHalf v) 2) else c.map (fun v => BitVec.ofNat 8 (toUnorm v))

/-! ### Performing fragments (R364) -/

/-- The batch of a fragment at a die. -/
def Die.batchOf (d : Die) (f : Frag) : Option Batch := d.batches.find? (fun b => b.home == f.home && b.num == f.batch)

/-- The pixel's places: VF, space, colour offset, and depth offset where there is a depth target. -/
def Die.place (d : Die) (f : Frag) : Option (Nat × Nat × Word × Option Word) :=
  (d.batchOf f).map (fun b => (b.vf, b.space, b.colourAt f.px f.py, if b.zen then some (b.depthAt f.px f.py) else none))

/-- Two fragments are of one pixel: they share a target's place. -/
def samePixel (a b : Nat × Nat × Word × Option Word) : Bool :=
  a.1 == b.1 && a.2.1 == b.2.1 && (a.2.2.1 == b.2.2.1 || (a.2.2.2.isSome && a.2.2.2 == b.2.2.2))

/-- Every earlier fragment of the pixel has been performed or retired. -/
def Die.first (d : Die) (f : Frag) : Bool :=
  match d.place f with
  | none => true
  | some p => (d.frags.takeWhile (fun x => x.id != f.id)).all (fun x => match d.place x with | some q => !samePixel p q | none => true)

/-- A fragment whose lane can give no output any more: discarded, exited, or its team gone (R363). -/
def State.dead (s : State) (f : Frag) : Bool :=
  f.out.isNone && (match s.foot f.handle f.team with
    | none => true
    | some _ => match s.team f.handle f.team with
      | some t => (match t.slots with
        | sl :: _ => let w := s.warp t.core sl; !w.live || !w.lanes.getLsbD f.lane
        | [] => false)
      | none => false)

/-- A place of a target: whether an access to it is possible, or held behind a stage-2 fault or a link without room. -/
def State.targetAt (s : State) (b : Batch) (off : Word) (n acc : Nat) : Got Bool :=
  match s.unitAt b.core b.acc off acc with
  | .ok q s => if isFlefin q.1 && !s.flefinRoom [(q.1, n)] then .wait s else .ok true s
  | .wait s => .wait s
  | .bad _ => .ok false s

/-- The writes to the targets: each that is possible is made, and whether one was not (R365, status 4). -/
def State.targetWrite (s : State) (b : Batch) (off : Word) (data : List Byte) : Bool × State :=
  match s.unitWrite b.core b.acc off data with
  | .ok _ s => (false, s)
  | .wait s => (true, s)
  | .bad _ => (true, s)

/-- Write a fragment's output (R361): depth test, depth write, blend, colour write; and whether a target faulted. Both places are found before
either is written. A pixel whose depth or blended colour cannot be read is not written there (R365). -/
def State.output (s : State) (b : Batch) (f : Frag) (src : List Lane) (zf : Lane) : Got Bool :=
  let cls := 16 + 2 * b.vf
  let ca := b.colourAt f.px f.py
  let za := b.depthAt f.px f.py
  let n := if b.wide then 8 else 4
  (s.targetAt b ca n 1).bind fun cw s =>
  (if b.zen && b.zwrite then s.targetAt b za 4 1 else .ok true s).bind fun zw s =>
  let depth : Got (Option Bool) := if !b.zen then .ok (some true) s
    else match s.unitRead b.core cls b.acc za 4 with
      | .ok r s => .ok (some (depthPass b.zfunc zf (BitVec.ofNat 32 (ofBytes r)))) s
      | .wait s => .wait s
      | .bad _ => .ok none s
  depth.bind fun pass s =>
  let old : Got (Option (List Lane)) := if b.blend = 0 then .ok (some []) s
    else match s.unitRead b.core cls b.acc ca n with
      | .ok r s => .ok (some (texel (if b.wide then 1 else 0) r)) s
      | .wait s => .wait s
      | .bad _ => .ok none s
  old.bind fun dst s =>
  match pass with
  | none => .ok true s
  | some false => .ok false s
  | some true =>
    let (e, s) := if b.zen && b.zwrite && zw then s.targetWrite b za (leBytes zf.toNat 4) else (!zw, s)
    match dst with
    | some d => if cw then
        let r := s.targetWrite b ca (packColour b.wide (blendOf b.blend src d))
        .ok (e || r.1) r.2
      else .ok true s
    | none => .ok true s

def State.dropFrag (s : State) (d id : Nat) : State := s.modDie d (fun k => { k with frags := k.frags.filter (fun f => f.id != id) })

/-- MERGER_PERFORM (R361, R363, R364): die, fragment. A fault on a target sets the status; its block is not written, the
other is (R365). -/
def execMergerPerform (s : State) : Host.Outcome State Fault Refusal :=
  let d := s.ev.a
  let k := s.die d
  .next (match k.frags.find? (fun f => f.id == s.ev.b) with
    | none => s
    | some f =>
      if s.dead f then s.dropFrag d f.id
      else match f.out, k.batchOf f with
        | some (src, zf), some b =>
          if !k.first f then s
          else match s.output b f src zf with
            | .ok bad s =>
              (if bad then s.modBatch d b.home b.num (fun b => { b with status := if b.status % 256 = 0 then 4 else b.status }) else s).dropFrag d f.id
            | .wait s => s
            | .bad _ => s
        | some _, none => s.dropFrag d f.id
        | none, _ => s)

/-! ### The end of a batch (R365, R366) -/

/-- A die has finished its part of a batch. -/
def Die.finished (d : Die) (home num : Nat) : Bool :=
  d.batches.any (fun b => b.home == home && b.num == num && b.ended) && !d.frags.any (fun f => f.home == home && f.batch == num)

/-- Every die has finished the batch. -/
def State.batchDone (s : State) (b : Batch) : Bool :=
  (s.die b.home).finished b.home b.num && (!b.split || (b.forwarded && (s.die (1 - b.home)).finished b.home b.num))

/-- The lower nonzero status of two. -/
def lowerStatus (a b : Nat) : Nat := if a % 256 = 0 then b else if b % 256 = 0 ∨ a % 256 ≤ b % 256 then a else b

/-- DRAW_BATCH_COMPLETE (R365, R366): die, batch. STATUS is written, then the issuer's flag falls; a fault on STATUS leaves
it unwritten. -/
def execDrawBatchComplete (s : State) : Host.Outcome State Fault Refusal :=
  let d := s.ev.a
  .next (match (s.die d).batches.find? (fun b => b.home == d && b.num == s.ev.b) with
    | none => s
    | some b =>
      if !s.batchDone b then s
      else
        let other := (s.die (1 - d)).batches.find? (fun x => x.home == d && x.num == b.num)
        let st := lowerStatus b.status (match other with | some o => o.status | none => 0)
        let finish := fun (s : State) =>
          let s := s.join (b.handle, b.team, b.widx) b.sig
          { s with dies := smapv {} (fun k => { k with batches := k.batches.filter (fun x => !(x.home == d && x.num == b.num)) }) s.dies }
        match s.unitWrite b.core b.acc (b.off + 0x50) (leBytes st 8) with
        | .wait s => s
        | .ok _ s => finish s
        | .bad _ => finish s)

end Sys2Proof.Machine
end

