-- ==== Sys2Proof/Machine/Pred.lean ====
section
/-!
DEFINITION. Row 0x3 and `rrbset`: predicates and rotation (R120 to R125), and `elect` (R78).
-/

namespace Sys2Proof.Machine

open Sys2Proof

/-- R120: MOD 1 negates the second operand. -/
def execPand (f : FmtA) (s : State) : Host.Outcome State Fault Refusal :=
  predOp s f.g [] true 1 f.d fun c => c.pv f.s1 &&& (if f.md = 1 then ~~~c.pv f.s2 else c.pv f.s2)

/-- R120. -/
def execPor (f : FmtA) (s : State) : Host.Outcome State Fault Refusal :=
  predOp s f.g [] true 1 f.d fun c => c.pv f.s1 ||| (if f.md = 1 then ~~~c.pv f.s2 else c.pv f.s2)

/-- R120: MOD 1 negates the result. -/
def execPxor (f : FmtA) (s : State) : Host.Outcome State Fault Refusal :=
  predOp s f.g [] true 1 f.d fun c => if f.md = 1 then ~~~(c.pv f.s1 ^^^ c.pv f.s2) else c.pv f.s1 ^^^ c.pv f.s2

/-- R120. -/
def execPnot (f : FmtA) (s : State) : Host.Outcome State Fault Refusal :=
  predOp s f.g [] true 1 f.d fun c => ~~~c.pv f.s1

/-- R120. -/
def execPmov (f : FmtA) (s : State) : Host.Outcome State Fault Refusal :=
  predOp s f.g [] true 1 f.d fun c => c.pv f.s1

/-- R121: active lanes in which pA is set; 0 or 1 on a service core (R50). -/
def execPcount (f : FmtA) (s : State) : Host.Outcome State Fault Refusal :=
  scalarOp s f.g [] 3 f.d fun c => BitVec.ofNat 64 (popc (c.pv f.s1 &&& c.p.mask).toNat 64)

/-- R121: the lowest active lane in which pA is set, or 64. -/
def execPfirst (f : FmtA) (s : State) : Host.Outcome State Fault Refusal :=
  scalarOp s f.g [] 3 f.d fun c => BitVec.ofNat 64 (lowestLane (c.pv f.s1 &&& c.p.mask))

/-- R122. -/
def execVcmp (f : FmtA) (s : State) : Host.Outcome State Fault Refusal :=
  predOp s f.g [.vs f.s1 24 1 3, .vs f.s2 16 1 3] true 3 f.d fun c =>
    maskWhere (fun l => condHolds f.md.toNat (c.vv f.s1 l) (c.vv f.s2 l))

/-- A floating-point condition of R123 and the flag it raises. -/
def fcond (code : Nat) (a b : Fv) : Bool × Nat :=
  let un := a.isNan || b.isNan
  let o := fvCmp a b
  let sg := nvIf [a, b]
  let any := if un then 16 else 0
  match code with
  | 0 => (!un && decide (o = 0), sg)
  | 1 => (un || decide (o ≠ 0), sg)
  | 2 => (!un && decide (o < 0), any)
  | 3 => (!un && decide (o ≤ 0), any)
  | 4 => (!un && decide (0 < o), any)
  | 5 => (!un && decide (0 ≤ o), any)
  | 6 => (un, sg)
  | _ => (!un, sg)

/-- R123: MOD is the type and the half, S3 the condition; only NV is raised, by the guarded lanes' compared elements. -/
def execVfcmp (f : FmtA) (s : State) : Host.Outcome State Fault Refusal :=
  s.run fun c => do
    let md := f.md.toNat
    let m := c.guard f.g
    let (F, k) := match md with
      | 0 => (f32, 0)
      | 1 => (f16, 0)
      | 2 => (bf16, 0)
      | 3 => (f64, 0)
      | 4 => (f16, 1)
      | _ => (bf16, 1)
    let gr := if md = 1 ∨ md = 2 then 1 else if 4 ≤ md then 2 else 3
    let n := if md = 3 then 2 else 1
    let s ← c.begin s (some m) [.vs f.s1 24 n gr, .vs f.s2 16 n gr]
    let r := fun l => fcond (f.s3.toNat % 8) (F.read c.rm.ftz (elem (c.raw md f.s1 l) F.width k))
      (F.read c.rm.ftz (elem (c.raw md f.s2 l) F.width k))
    let s := if m = 0 then s else s.land c 4 (.p (c.predPhys f.d) m (maskWhere (fun l => (r l).1)))
    let s := s.landFlags c 4 ((lanesOf m).foldl (fun a l => a ||| (r l).2) 0)
    .ok ((s.holdIfD c md).advance c)

/-- R124. On a service core the one lane takes bit 0 (R50). -/
def execPset (f : FmtA) (s : State) : Host.Outcome State Fault Refusal :=
  predOp s f.g [.xs f.s1 24 1] false 2 f.d fun c => c.xv f.s1

/-- R124: bit l is 1 when lane l is active and pA is set in it. -/
def execPget (f : FmtA) (s : State) : Host.Outcome State Fault Refusal :=
  scalarOp s f.g [] 3 f.d fun c => c.pv f.s1 &&& c.p.mask

/-- R125: the new base binds the next instruction of the path. -/
def execRrbset (f : FmtI) (s : State) : Host.Outcome State Fault Refusal :=
  scalarDo s f.g [] fun c s => .ok (s.land c 1 (.rrb c.p.id (f.imm.toNat % 64)))

/-- R78: 1 in the lowest active lane whose guard holds, 0 in every other active lane. -/
def execElect (f : FmtA) (s : State) : Host.Outcome State Fault Refusal :=
  s.run fun c => do
    let g := c.guard f.g
    let v : Mask := if g = 0 then 0 else laneBit (lowestLane g)
    .ok ((s.land c 2 (.p (c.predPhys f.d) c.p.mask v)).advance c)

end Sys2Proof.Machine
end

