-- ==== Sys2Proof/Machine/Preempt.lean ====
section
/-!
DEFINITION. Blocked teams and pre-emption (R86, R87, R342), and the saving of a VF (R349).
-/

namespace Sys2Proof.Machine

open Sys2Proof

/-! ### Blocked teams (R86) -/

/-- A path waits in a way that R86 counts. -/
def Path.blocked (p : Path) : Bool :=
  match p.wait with
  | .point b => bodyOp b != 0x95
  | .mwait .. => true
  | .none => p.held
  | _ => false

/-- Each warp of a running team has ended or waits. -/
def State.teamBlocked (s : State) (t : Team) : Bool :=
  t.state == .running && (s.liveWarps t).all (fun q => q.2.paths.all Path.blocked)

/-- A launch's next team could be placed but for room. -/
def State.wantsRoom (s : State) (l : Launch) : Bool :=
  l.state == .accepted && decide (l.started < l.count) && (s.coreFor l l.started).isNone && !(s.vf l.vf).saving

/-- A launch's next team waits for placement: for room, or for a context slot or a group counter (R82). -/
def State.waitsPlace (s : State) (l : Launch) : Bool :=
  l.state == .accepted && decide (l.started < l.count) && !(s.vf l.vf).saving &&
    (match s.coreFor l l.started with | some c => (s.placeOn l c).isNone | none => true)

/-- BLOCKED_TEAM_ELIGIBLE (R86): handle, team. The time for which the team has been blocked is kept here; after 2^16 vc it may
be pre-empted while a team of its partition waits for placement. -/
def execBlockedTeamEligible (s : State) : Host.Outcome State Fault Refusal :=
  .next (match s.team s.ev.a s.ev.b with
    | none => s
    | some t =>
      let vc := (s.core t.core).vc
      let set := fun (f : Team → Team) => s.modTeam t.handle t.idx f
      if t.out then s
      else if !s.teamBlocked t then set (fun x => { x with blockedSince := none, eligible := false })
      else match t.blockedSince with
        | none => set (fun x => { x with blockedSince := some vc })
        | some v => set (fun x => { x with eligible := decide (v + 2 ^ 16 ≤ vc) && s.launches.any (fun l => l.part == t.part && s.waitsPlace l) }))

/-! ### Victims (R342) -/

/-- The choices of `n` elements, in the order of the list. -/
def choices {α : Type} : List α → Nat → List (List α)
  | [], n => if n = 0 then [[]] else []
  | a :: l, n => if n = 0 then [[]] else (choices l (n - 1)).map (fun r => a :: r) ++ choices l n

/-- A team that leaves its core without more being done for launch `n`: being saved or killed, or drained for it. -/
def State.leaving (s : State) (n : Nat) (t : Team) : Bool :=
  t.saveFor.isSome || t.state == .saving || t.state == .retiring ||
    (match s.launch t.handle with | some l => l.drained.contains (t.core, n) | none => false)

/-- The machine as it would be without some teams. -/
def State.without (s : State) (gone : Team → Bool) : State :=
  { s with
    teams := s.teams.filter (fun t => t.slots.isEmpty || !gone t),
    pairs := smapv {} (fun p => match p.twins with
      | some (h, i) => (match s.team h i with | some t => if gone t then { p with twins := none } else p | none => p)
      | none => p) s.pairs }

/-- Preference among victims: lower PRIO, then the larger estimate. -/
def State.victimBefore (s : State) (a b : Team) : Bool :=
  let pa := s.prioOf a.handle
  let pb := s.prioOf b.handle
  decide (pa < pb) || (decide (pa = pb) && decide (s.tleftOf b < s.tleftOf a))

/-- One choice of victims is preferred to another of as many. -/
def State.choiceBefore (s : State) : List Team → List Team → Bool
  | a :: l, b :: r => if s.victimBefore a b then true else if s.victimBefore b a then false else s.choiceBefore l r
  | _, _ => false

/-- The teams that may be victims for a launch on a core: resident, with no handler running and not suspended (R337, R338),
and of lower PRIO; under the starvation rule eligible and
with CHKPT. Twins count once. -/
def State.candidates (s : State) (l : Launch) (starved : Bool) (core : Nat) : List Team :=
  let here := fun (t : Team) => t.core == core || (l.twin && t.core == core + 1) || (t.half == some 0 && t.core + 1 == core)
  sortBy s.victimBefore (s.teams.filter (fun t => here t && !t.slots.isEmpty && t.half != some 1 && !s.leaving l.handle t &&
    (s.haltSet t).all (fun u => u.state != .inHandler && u.state != .suspended) &&
    (if starved then t.eligible && (match s.launch t.handle with | some x => x.chkpt | none => false) else decide (s.prioOf t.handle < l.prio))))

/-- The fewest victims on a core whose departure places the launch's next team there. -/
def State.victimsOn (s : State) (l : Launch) (starved : Bool) (core : Nat) : Option (List Team) :=
  let cs := s.candidates l starved core
  let works := fun (v : List Team) =>
    let set := v.flatMap s.haltSet
    (s.without (fun t => s.leaving l.handle t || set.any (fun u => u.handle == t.handle && u.idx == t.idx))).canTake l core
  (List.range (cs.length + 1)).findSome? (fun n => (choices cs n).find? works)

/-- The core and victims that R342 chooses. -/
def State.victims (s : State) (l : Launch) (starved : Bool) : Option (Nat × List Team) :=
  let all := ((l.dies l.started).flatMap coresOf).filterMap (fun c => (s.victimsOn l starved c).map (fun v => (c, v)))
  all.foldl (fun (b : Option (Nat × List Team)) q => match b with
    | none => some q
    | some r => if decide (q.2.length < r.2.length) || (decide (q.2.length = r.2.length) && s.choiceBefore q.2 r.2) then some q else b) none

/-- Keep the cores of a victim for launch `n`. -/
def State.drainFor (s : State) (t : Team) (n : Nat) : State :=
  s.modLaunch t.handle (fun x => { x with drained := x.drained ++ (s.haltSet t).map (fun u => (u.core, n)) })

/-- The first rule of R342 that applies to a victim; `starved` uses only the second. -/
def State.preempt (s : State) (l : Launch) (starved : Bool) (t : Team) : State :=
  let pm := (s.part l.part).pmctl
  let chk := match s.launch t.handle with | some x => x.chkpt | none => false
  if !starved && decide (s.tleftOf t ≤ bits pm 31 0) then s.drainFor t l.handle
  else if chk then (s.drainFor t l.handle).beginSave t { auto := true }
  else if !starved && decide (bits pm 47 32 ≤ l.tokens) then s.beginSave t { kill := true }
  else s

/-- PREEMPTION_DECISION (R342): handle. The wait for room is timed here; a decision is tried again after PWAIT µs. -/
def execPreemptionDecision (s : State) : Host.Outcome State Fault Refusal :=
  .next (match s.launch s.ev.a with
    | none => s
    | some l =>
      if !s.wantsRoom l then s.modLaunch l.handle (fun x => { x with waitSince := none })
      else match l.waitSince with
        | none => s.modLaunch l.handle (fun x => { x with waitSince := some s.pkg.now })
        | some t0 =>
          let starved := s.teams.any (fun t => t.part == l.part && t.eligible && !t.slots.isEmpty)
          let lower := s.teams.any (fun t => t.part == l.part && !t.slots.isEmpty && decide (s.prioOf t.handle < l.prio))
          let due := decide (t0 + micros (bits (s.part l.part).pmctl 63 48) ≤ s.pkg.now)
          let act := fun (s : State) (st : Bool) => match s.victims l st with
            | some (_, v) => v.foldl (fun s t => s.preempt l st t) s
            | none => s
          let s := if due && lower then (act s false).modLaunch l.handle (fun x => { x with waitSince := some s.pkg.now }) else s
          if starved then act s true else s)

/-! ### vfsave and vfrest (R349) -/

/-- The image area: 1 MiB, 64 KiB aligned, in frames of the partition. -/
def State.areaOk (s : State) (p : Nat) (a : Word) : Bool :=
  decide (a.toNat % 65536 = 0 ∧ a.toNat + 2 ^ 20 ≤ memTop) && (List.range 16).all (fun i => s.fotAllows (.hyp p) (a.toNat + 65536 * i) false)

/-- The VF that an operand names, where it is the issuing partition's. -/
def Ctx.vfNamed (c : Ctx) (s : State) (w : Word) : Option (Nat × Nat) :=
  (c.part s).bind (fun p => if w.toNat < 512 ∧ (s.part p).hasVf w.toNat = true then some (p, w.toNat) else none)

/-- R349: save a VF. Every resident team is checkpointed, whatever CHKPT says. -/
def execVfsave (f : FmtA) (s : State) : Host.Outcome State Fault Refusal :=
  sysDo s .hypervisor f.g [.xs f.s1 24 1, .xs f.s2 16 1, .xd f.d] fun c s =>
    match c.vfNamed s (c.xv f.s1) with
    | none => .ok (c.answer s f.d 1)
    | some (p, v) =>
      if !s.areaOk p (c.xv f.s2) || (s.vf v).saveOp.isSome then .ok (c.answer s f.d 2)
      else
        let (id, s) := c.await s f.d 5
        let s := s.modVf v (fun x => { x with saving := true, saveOp := some (c.core, id, (c.xv f.s2).toNat) })
        let live := s.teams.filter (fun t => t.vf == v && !t.slots.isEmpty && !t.out && t.state != .retiring && t.saveFor.isNone && t.half != some 1)
        .ok ((live.foldl (fun s t => s.beginSave t {}) s).vfDone v)

/-- The groups that an image's copy of a group table holds. -/
def State.groupCopy (s : State) (a : Nat) : Nat → Nat → List (List Nat)
  | 0, _ => []
  | n + 1, at_ =>
    let c := min (s.num (a + at_) 4) (2 ^ 20)
    ((List.range c).map (fun i => s.num (a + at_ + 4 + 4 * i) 4)) :: s.groupCopy a n (at_ + 4 + 4 * c)

/-- A launch as its record in an image has it. -/
def State.launchRead (s : State) (a : Nat) (b : List Byte) (l : Launch) : Launch :=
  { l with
    lpb := recordBlock b, tileCtr := fieldAt b 0x68 4, csig := fieldAt b 0x6C 4 % 16,
    groups := if fieldAt b 0x70 4 = 0 then l.groups else s.groupCopy a (min 256 (fieldAt b 0x74 4)) (fieldAt b 0x70 4) }

/-- The VF state, launch records and launch queue entries that an image holds: the queue holds what the image lists, in its order. The QoS class of a VF
is its number's (R386) and needs no setting. -/
def State.vfRead (s : State) (v a : Nat) : State :=
  let n := s.num (a + 16) 8
  let s := s.modVf v (fun x => { x with
    saving := false, spbase := BitVec.ofNat 64 (s.num (a + 0x100) 8), fpool := BitVec.ofNat 64 (s.num (a + 0x108) 8), ways := s.num (a + 0x110) 8 % 2 ^ 24 })
  let s := (List.range (min n 1984)).foldl (fun s k =>
    let b := s.bytes (a + 0x1000 + 256 * k) 256
    s.modLaunch (fieldAt b 0x64 4) (fun l => if l.vf = v ∧ l.state = .accepted then s.launchRead a b l else l)) s
  let queued := (List.range (min (s.num (a + 0x128) 8) 474)).map (fun i => s.num (a + 0x130 + 8 * i) 8)
  let mine := fun (l : Launch) => l.vf == v && l.state == .queued
  { s with launches := s.launches.filter (fun l => !mine l) ++ queued.filterMap (fun h => s.launches.find? (fun l => mine l && l.handle == h)) }

/-- The teams of an image's list come back: each takes the context slot listed and may be placed again. One that is not listed stays out. -/
def State.teamsRead (s : State) (v p a : Nat) : State :=
  (List.range (min (s.num (a + 24) 8) 65536)).foldl (fun s k =>
    let w := s.num (a + 0x80000 + 8 * k) 8
    match s.team (w / 2 ^ 32) (w / 2 ^ 12 % 2 ^ 20) with
    | some t =>
      if t.vf = v ∧ t.state = .checkpointed then
        let s := s.modPart p (fun q => { q with slotsUsed := (w % 2 ^ 12) :: q.slotsUsed.filter (fun i => i != t.cslot) })
        (s.modTeam t.handle t.idx (fun x => { x with cslot := w % 2 ^ 12 })).makePlaceable t
      else s
    | none => s) s

/-- R349: rebuild a VF from its image; its teams may be placed again under R346. -/
def execVfrest (f : FmtA) (s : State) : Host.Outcome State Fault Refusal :=
  sysDo s .hypervisor f.g [.xs f.s1 24 1, .xs f.s2 16 1, .xd f.d] fun c s =>
    match c.vfNamed s (c.xv f.s1) with
    | none => .ok (c.answer s f.d 1)
    | some (p, v) =>
      let a := (c.xv f.s2).toNat
      if !s.areaOk p (c.xv f.s2) || decide (s.num a 8 ≠ v) then .ok (c.answer s f.d 2)
      else if !(s.vf v).saving || (s.vf v).saveOp.isSome then .ok (c.answer s f.d 3)
      else
        .ok (c.answer ((s.vfRead v a).teamsRead v p a) f.d 0)

end Sys2Proof.Machine
end

