-- ==== Sys2Proof/Machine/Special.lean ====
section
/-!
DEFINITION. The special functions (R167, R168). The exact cases and the special operands are computed; every other
result is a free value within the bound that R167 gives it (log 5): `Config.sfu` picks among the representable values
that the bound admits around the true one, which fixed-point series give to about 300 bits.
-/

namespace Sys2Proof.Machine

open Sys2Proof

/-! ### The functions in fixed point, 2^-320 a unit -/

def fxBits : Nat := 320
def fxOne : Nat := 2 ^ fxBits

/-- ln 2 as the sum of 1 / (k 2^k). -/
def fxLn2 : Nat := (List.range 330).foldl (fun a k => a + fxOne / ((k + 1) * 2 ^ (k + 1))) 0
/-- atan(1 / k). -/
def fxAtanInv (k : Nat) : Int :=
  (List.range 150).foldl (fun (a : Int) i =>
    let t : Int := (fxOne / ((2 * i + 1) * k ^ (2 * i + 1)) : Nat)
    if i % 2 = 0 then a + t else a - t) 0
/-- pi (Machin). -/
def fxPi : Int := 16 * fxAtanInv 5 - 4 * fxAtanInv 239

/-- e^y for 0 <= y < 2 by its series. -/
def fxExp (y : Nat) : Nat :=
  ((List.range 110).foldl (fun (q : Nat × Nat) k => (q.1 + q.2, q.2 * y / fxOne / (k + 1))) (0, fxOne)).1
/-- The sine (`k` = 1) or cosine (`k` = 0) of an angle of at most 2. -/
def fxTrig (k : Nat) (y : Int) : Int :=
  ((List.range 60).foldl (fun (q : Int × Int) (i : Nat) =>
    let n : Int := ((k + 2 * i + 2 : Nat) : Int)
    (q.1 + q.2, -(q.2 * y / fxOne * y / fxOne / ((n - 1) * n)))) (0, if k = 1 then y else (fxOne : Int))).1
/-- ln y for 1 <= y < 2: twice the inverse hyperbolic tangent of (y - 1) / (y + 1). -/
def fxLn (y : Nat) : Nat :=
  let z := (y - fxOne) * fxOne / (y + fxOne)
  2 * ((List.range 105).foldl (fun (q : Nat × Nat) i =>
    (q.1 + q.2 / (2 * i + 1), q.2 * z / fxOne * z / fxOne)) (0, z)).1

/-- m x 2^e in fixed point, rounded down. -/
def fxOf (m : Nat) (e : Int) : Nat := m * pw (e + fxBits) / pw (-(e + fxBits))

/-! ### Picking within a bound -/

/-- A result `m` x 2^`q` of an inexact special function: NX, UF where it is below the min normal, OF where it
overflows; FTZ applies (R167). -/
def Ffmt.sfuResult (F : Ffmt) (ftz neg : Bool) (m : Nat) (q : Int) : Nat × Nat :=
  if m = 0 then (F.zero neg, 3)
  else
    let (b, fl) := F.rndMag { mode := 0 } neg (.dy m q) 0
    if fl / 4 % 2 = 1 then (b, 5)
    else if decide ((Mag.dy m q).log2 < F.emin) then (if ftz then F.zero neg else b, 3) else (b, 1)

/-- A result within `n` ulp of a true value. -/
def Ffmt.pickUlp (F : Ffmt) (ftz neg : Bool) (x : Mag) (n choice : Nat) : Nat × Nat :=
  let e := x.log2
  let q := (if e < F.emin then F.emin else e) - F.fb
  let k := (x.floorAt q).1
  F.sfuResult ftz neg (k + 1 + choice % (2 * n) - n) q

/-- A result within 2^-`n` of a true value in fixed point, where the format has one: a value that the bound admits is rounded
towards the true one, and where that leaves the bound, the result is the nearest to the true value. -/
def Ffmt.pickAbs (F : Ffmt) (ftz : Bool) (t : Int) (n choice : Nat) : Nat × Nat :=
  let b : Nat := 2 ^ (fxBits - n) - 2 ^ 40
  let j : Nat := choice % (2 * b + 1)
  let d : Int := (j : Int) - (b : Int)
  let round := fun (mode : Nat) (v : Int) => (F.rndMag { mode := mode } (decide (v < 0)) (.dy v.natAbs (-(fxBits : Int))) 0).1
  let v := t + d
  if v = 0 then (F.zero false, 3)
  else
    let near := fun (r : Nat) => match F.decode r with
      | .num s m q => decide (((if s then -(fxOf m q : Int) else (fxOf m q : Int)) - t).natAbs ≤ b)
      | _ => false
    let r := round (if 0 ≤ d then 3 else 2) v
    let r := if near r then r else round 0 t
    match F.decode r with
    | .num s m q => F.sfuResult ftz s m q
    | _ => (r, 5)

/-- A true value in fixed point as a magnitude. -/
def fxMag (a : Nat) : Mag := .dy a (-(fxBits : Int))

/-- 1 / sqrt(m x 2^e) as a magnitude, from its first 2 x 320 bits. -/
def rsqMag (m : Nat) (e : Int) : Mag :=
  let o : Nat := if e % 2 = 0 then 0 else 1
  .dy (isqrt (2 ^ (4 * fxBits) / (m * 2 ^ o))) (-(2 * fxBits : Int) - (e - o) / 2)

/-- An exact result, rounded only where its format cannot hold it. -/
def Ffmt.exactPow (F : Ffmt) (ftz neg : Bool) (k : Int) : Nat × Nat := F.rndMag { mode := 0, ftz := ftz } neg (.dy 1 k) 0

/-! ### The functions (R167, R168) -/

/-- 1 / x. -/
def sfuRcp (F : Ffmt) (ftz : Bool) (ch : Nat) (neg : Bool) (m : Nat) (e : Int) : Nat × Nat :=
  if 2 ^ Nat.log2 m = m then F.exactPow ftz neg (-(Nat.log2 m : Int) - e)
  else F.pickUlp ftz neg (.quo 1 m (-e)) 1 ch

/-- 1 / sqrt x for positive x. -/
def sfuRsq (F : Ffmt) (ftz : Bool) (ch : Nat) (m : Nat) (e : Int) : Nat × Nat :=
  let k := (Nat.log2 m : Int) + e
  if 2 ^ Nat.log2 m = m ∧ k % 2 = 0 then F.exactPow ftz false (-k / 2)
  else F.pickUlp ftz false (rsqMag m e) (if F = f32 then 2 else 1) ch

/-- 2^x: a power of two for an integer; beyond every format's range, the nearest such power. -/
def sfuExp2 (F : Ffmt) (ftz : Bool) (ch : Nat) (neg : Bool) (m : Nat) (e : Int) : Nat × Nat :=
  let n := if F = f32 then 2 else 1
  if (Mag.dy m e).floorAt 0 |>.2 then
    let k : Int := ((Mag.dy m e).floorAt 0).1
    let k := if 2000 < k then 2000 else k
    let k := if neg then -k else k
    if k < F.emin - (F.fb : Int) then F.pickUlp ftz false (.dy 1 k) n ch else F.exactPow ftz false k
  else
    let a : Int := (fxOf m e : Nat)
    let a := if neg then -a else a
    let i := a / (fxOne : Int)
    if 2000 < i then F.exactPow ftz false 2000
    else if i < -2000 then F.pickUlp ftz false (.dy 1 (-2000)) n ch
    else
      let f := (a % (fxOne : Int)).toNat
      F.pickUlp ftz false (.dy (fxExp (f * fxLn2 / fxOne)) (i - fxBits)) n ch

/-- log2 x for positive x. -/
def sfuLog2 (F : Ffmt) (ftz : Bool) (ch : Nat) (m : Nat) (e : Int) : Nat × Nat :=
  let k := (Nat.log2 m : Int) + e
  if 2 ^ Nat.log2 m = m then
    (if k = 0 then (F.zero false, 0) else F.rndMag { mode := 0, ftz := ftz } (decide (k < 0)) (.dy k.natAbs 0) 0)
  else
    let y := fxOf m (-(Nat.log2 m : Int))
    let t : Int := k * (fxOne : Int) + (fxLn y * fxOne / fxLn2 : Nat)
    if F = f32 ∧ -1 ≤ k ∧ k ≤ 0 then F.pickAbs ftz t 22 ch
    else F.pickUlp ftz (decide (t < 0)) (fxMag t.natAbs) (if F = f32 then 2 else 1) ch

/-- sin(pi x) and cos(pi x): exact at multiples of 0.5, a zero sine keeping the sign of x, a zero cosine +0 (log 58). -/
def sfuTrig (F : Ffmt) (ftz : Bool) (ch : Nat) (sine neg : Bool) (m : Nat) (e : Int) : Nat × Nat :=
  let one := fun (n : Bool) => F.exactPow ftz n 0
  let (h, ex) := (Mag.dy m e).floorAt (-1)
  if ex then
    match h % 4 with
    | 0 => if sine then (F.zero neg, 0) else one false
    | 1 => if sine then one neg else (F.zero false, 0)
    | 2 => if sine then (F.zero neg, 0) else one true
    | _ => if sine then one (!neg) else (F.zero false, 0)
  else
    let r : Int := ((fxOf m e % (2 * fxOne) : Nat) : Int)
    let r := if (fxOne : Int) < r then r - 2 * fxOne else r
    let half : Int := (fxOne / 2 : Nat)
    let ang := fun (x : Int) => x * fxPi / (fxOne : Int)
    let t : Int :=
      if sine then
        let x := if half < r then (fxOne : Int) - r else if r < -half then -(fxOne : Int) - r else r
        fxTrig 1 (ang x)
      else
        let x := if r < 0 then -r else r
        if half < x then -(fxTrig 0 (ang ((fxOne : Int) - x))) else fxTrig 0 (ang x)
    F.pickAbs ftz (if sine && neg then -t else t) (if F = f32 then 22 else 10) ch

/-- tanh x: ±1 from |x| = 9.0. -/
def sfuTanh (F : Ffmt) (ftz : Bool) (ch : Nat) (neg : Bool) (m : Nat) (e : Int) : Nat × Nat :=
  if 9 ≤ ((Mag.dy m e).floorAt 0).1 then F.exactPow ftz neg 0
  else
    let u := fxExp (2 * fxOf m e / 32)
    let u := (List.range 5).foldl (fun v _ => v * v / fxOne) u
    let t : Int := ((u - fxOne) * fxOne / (u + fxOne) : Nat)
    if F = f32 ∧ (Mag.dy m e).log2 < 0 then F.pickAbs ftz (if neg then -t else t) 22 ch
    else F.pickUlp ftz neg (fxMag t.natAbs) (if F = f32 then 2 else 1) ch

/-- The results of zeros and infinities (R168), by function: +0, -0, +inf, -inf. -/
def sfuSpecial (op : Nat) (F : Ffmt) (isInf neg : Bool) : Nat × Nat :=
  let one := (F.exactPow false false 0).1
  let mone := (F.exactPow false true 0).1
  let nan := (F.nan, flNV)
  match op, isInf with
  | 0x62, false => (F.inf neg, flDZ)
  | 0x62, true => (F.zero neg, 0)
  | 0x63, false => (F.inf neg, flDZ)
  | 0x63, true => if neg then nan else (F.zero false, 0)
  | 0x64, false => (one, 0)
  | 0x64, true => if neg then (F.zero false, 0) else (F.inf false, 0)
  | 0x65, false => (F.inf true, flDZ)
  | 0x65, true => if neg then nan else (F.inf false, 0)
  | 0x66, false => (F.zero neg, 0)
  | 0x67, false => (one, 0)
  | 0x66, true | 0x67, true => nan
  | _, false => (F.zero neg, 0)
  | _, true => (if neg then mone else one, 0)

/-- One element of a special function (OP 0x62 to 0x68) of type code `ty`. -/
def sfuValue (op ty : Nat) (F : Ffmt) (ftz : Bool) (x : Nat) : Nat × Nat :=
  let ch := Config.sfu op ty x
  match F.read ftz x with
  | .nan sg => (F.nan, if sg then flNV else 0)
  | .inf n => sfuSpecial op F true n
  | .num n m e =>
    if m = 0 then sfuSpecial op F false n
    else match op with
      | 0x62 => sfuRcp F ftz ch n m e
      | 0x63 => if n then (F.nan, flNV) else sfuRsq F ftz ch m e
      | 0x64 => sfuExp2 F ftz ch n m e
      | 0x65 => if n then (F.nan, flNV) else sfuLog2 F ftz ch m e
      | 0x66 => sfuTrig F ftz ch true n m e
      | 0x67 => sfuTrig F ftz ch false n m e
      | _ => sfuTanh F ftz ch n m e

/-- The shape of a special function: long-latency on the pipe's special-function unit (R149); no draw, no `fmt.RM`. -/
def sfuOp (s : State) (f : FmtA) (op : Nat) : Host.Outcome State Fault Refusal :=
  longOp s f [(f.s1, 24)] (fun pipe => 2 + pipe) (fun c => cdiv c.slices 4) false fun c F l _ =>
    sfuValue op f.md.toNat F c.rm.ftz (l.getD 0 0)

/-- R167. -/
def execVrcp (f : FmtA) (s : State) : Host.Outcome State Fault Refusal := sfuOp s f 0x62
/-- R167. -/
def execVrsq (f : FmtA) (s : State) : Host.Outcome State Fault Refusal := sfuOp s f 0x63
/-- R167. -/
def execVexp2 (f : FmtA) (s : State) : Host.Outcome State Fault Refusal := sfuOp s f 0x64
/-- R167. -/
def execVlog2 (f : FmtA) (s : State) : Host.Outcome State Fault Refusal := sfuOp s f 0x65
/-- R167. -/
def execVsin (f : FmtA) (s : State) : Host.Outcome State Fault Refusal := sfuOp s f 0x66
/-- R167. -/
def execVcos (f : FmtA) (s : State) : Host.Outcome State Fault Refusal := sfuOp s f 0x67
/-- R167. -/
def execVtanh (f : FmtA) (s : State) : Host.Outcome State Fault Refusal := sfuOp s f 0x68

end Sys2Proof.Machine
end

