-- ==== Sys2Proof/Machine/VecInt.lean ====
section
/-!
DEFINITION. Row 0x4: integer lane instructions (R153, R154).
-/

namespace Sys2Proof.Machine

open Sys2Proof

/-- Two vector sources. -/
def vsrc2 (f : FmtA) : List Opnd := [.vs f.s1 24 1 3, .vs f.s2 16 1 3]

/-- An exact result wrapped (MOD 0), saturated signed (1) or unsigned (2). -/
def laneSat (md : Nat) (x : Int) : Lane :=
  match md with
  | 0 => wrap32 x
  | 1 => wrap32 (satI x (-2 ^ 31) (2 ^ 31 - 1))
  | _ => wrap32 (satI x 0 (2 ^ 32 - 1))

/-- A lane as `.us` or as the other forms read it. -/
def laneInt (md : Nat) (a : Lane) : Int := if md = 2 then a.toNat else a.toInt

/-- R153. -/
def execVadd (f : FmtA) (s : State) : Host.Outcome State Fault Refusal :=
  laneOp s f.g (vsrc2 f) 3 f.d fun c l =>
    laneSat f.md.toNat (laneInt f.md.toNat (c.vv f.s1 l) + laneInt f.md.toNat (c.vv f.s2 l))

/-- R153. -/
def execVsub (f : FmtA) (s : State) : Host.Outcome State Fault Refusal :=
  laneOp s f.g (vsrc2 f) 3 f.d fun c l =>
    laneSat f.md.toNat (laneInt f.md.toNat (c.vv f.s1 l) - laneInt f.md.toNat (c.vv f.s2 l))

/-- R153. -/
def execVmul (f : FmtA) (s : State) : Host.Outcome State Fault Refusal :=
  laneOp s f.g (vsrc2 f) 5 f.d fun c l => laneSat f.md.toNat ((c.vv f.s1 l).toInt * (c.vv f.s2 l).toInt)

/-- R153: bits [63:32] of the exact product. -/
def execVmulh (f : FmtA) (s : State) : Host.Outcome State Fault Refusal :=
  laneOp s f.g (vsrc2 f) 5 f.d fun c l =>
    let x : Int := if f.md = 1 then (c.vv f.s1 l).toNat else (c.vv f.s1 l).toInt
    let y : Int := if f.md = 0 then (c.vv f.s2 l).toInt else (c.vv f.s2 l).toNat
    wrap32 (x * y / 2 ^ 32)

/-- R153: S3 is a vector source. -/
def execVmad (f : FmtA) (s : State) : Host.Outcome State Fault Refusal :=
  laneOp s f.g (vsrc2 f ++ [.vs f.s3 8 1 3]) 5 f.d fun c l =>
    laneSat f.md.toNat ((c.vv f.s1 l).toInt * (c.vv f.s2 l).toInt + (c.vv f.s3 l).toInt)

/-- R153. -/
def execVand (f : FmtA) (s : State) : Host.Outcome State Fault Refusal :=
  laneOp s f.g (vsrc2 f) 3 f.d fun c l => c.vv f.s1 l &&& c.vv f.s2 l

/-- R153. -/
def execVor (f : FmtA) (s : State) : Host.Outcome State Fault Refusal :=
  laneOp s f.g (vsrc2 f) 3 f.d fun c l => c.vv f.s1 l ||| c.vv f.s2 l

/-- R153. -/
def execVxor (f : FmtA) (s : State) : Host.Outcome State Fault Refusal :=
  laneOp s f.g (vsrc2 f) 3 f.d fun c l => c.vv f.s1 l ^^^ c.vv f.s2 l

/-- The sources of a shift: of the amount only the low granule is consumed (R153, R173). -/
def shiftSrc (f : FmtA) : List Opnd := [.vs f.s1 24 1 3, .vs f.s2 16 1 1]

/-- R153: bits [31:5] of the amount are ignored. -/
def execVshl (f : FmtA) (s : State) : Host.Outcome State Fault Refusal :=
  laneOp s f.g (shiftSrc f) 3 f.d fun c l => c.vv f.s1 l <<< ((c.vv f.s2 l).toNat % 32)

/-- R153. -/
def execVshr (f : FmtA) (s : State) : Host.Outcome State Fault Refusal :=
  laneOp s f.g (shiftSrc f) 3 f.d fun c l => c.vv f.s1 l >>> ((c.vv f.s2 l).toNat % 32)

/-- R153. -/
def execVsar (f : FmtA) (s : State) : Host.Outcome State Fault Refusal :=
  laneOp s f.g (shiftSrc f) 3 f.d fun c l => (c.vv f.s1 l).sshiftRight ((c.vv f.s2 l).toNat % 32)

/-- R153. -/
def execVmin (f : FmtA) (s : State) : Host.Outcome State Fault Refusal :=
  laneOp s f.g (vsrc2 f) 3 f.d fun c l => minValue f.md.toNat (c.vv f.s1 l) (c.vv f.s2 l)

/-- R153. -/
def execVmax (f : FmtA) (s : State) : Host.Outcome State Fault Refusal :=
  laneOp s f.g (vsrc2 f) 3 f.d fun c l => maxValue f.md.toNat (c.vv f.s1 l) (c.vv f.s2 l)

/-- R153: absolute value or negation, MOD 2 and 3 saturating. -/
def execVabn (f : FmtA) (s : State) : Host.Outcome State Fault Refusal :=
  laneOp s f.g [.vs f.s1 24 1 3] 3 f.d fun c l =>
    let a := (c.vv f.s1 l).toInt
    let r : Int := if f.md = 0 ∨ f.md = 2 then a.natAbs else -a
    laneSat (if f.md.toNat < 2 then 0 else 1) r

/-- R153: S3 is a predicate. Each lane consumes the source that it takes (R173). -/
def execVsel (f : FmtA) (s : State) : Host.Outcome State Fault Refusal :=
  s.run fun c => do
    let m := c.guard f.g
    let p := c.pv f.s3
    let s ← match c.feCheck s (some m) (vsrc2 f ++ [.vd f.d 1]) with
      | .error e => Except.error e
      | .ok () =>
        if c.w.sound then .ok s
        else do
          let s ← c.poisonCheck s (some m) (m &&& p) [.vs f.s1 24 1 3]
          c.poisonCheck s (some m) (m &&& ~~~p) [.vs f.s2 16 1 3]
    .ok ((s.landV c 3 (c.phys (opIdx f.d)) ((lanesOf m).map (fun l => (l, if p.getLsbD l then c.vv f.s1 l else c.vv f.s2 l)))).advance c)

/-- R154. -/
def execVaddi (f : FmtI) (s : State) : Host.Outcome State Fault Refusal :=
  laneOp s f.g [.vs f.s1 24 1 3] 3 f.d fun c l => c.vv f.s1 l + (imm19 f).setWidth 32

end Sys2Proof.Machine
end

