-- ==== Sys2Proof/Machine/Dispatch.lean ====
section
/-!
DEFINITION. One arm per step of the part: each a call of its meaning.
-/

namespace Sys2Proof.Machine

open Sys2Proof

def exec (i : Instr) (s : State) : Host.Outcome State Fault Refusal :=
  match i with
  | .nop f => Sys2Proof.Machine.execNop f s
  | .br f => Sys2Proof.Machine.execBr f s
  | .brc f => Sys2Proof.Machine.execBrc f s
  | .brany f => Sys2Proof.Machine.execBrany f s
  | .brall f => Sys2Proof.Machine.execBrall f s
  | .brx f => Sys2Proof.Machine.execBrx f s
  | .jmpx f => Sys2Proof.Machine.execJmpx f s
  | .call f => Sys2Proof.Machine.execCall f s
  | .ret f => Sys2Proof.Machine.execRet f s
  | .rejoin f => Sys2Proof.Machine.execRejoin f s
  | .loop f => Sys2Proof.Machine.execLoop f s
  | .exit f => Sys2Proof.Machine.execExit f s
  | .trap f => Sys2Proof.Machine.execTrap f s
  | .ipref f => Sys2Proof.Machine.execIpref f s
  | .elect f => Sys2Proof.Machine.execElect f s
  | .yield f => Sys2Proof.Machine.execYield f s
  | .add f => Sys2Proof.Machine.execAdd f s
  | .sub f => Sys2Proof.Machine.execSub f s
  | .mul f => Sys2Proof.Machine.execMul f s
  | .mulh f => Sys2Proof.Machine.execMulh f s
  | .div f => Sys2Proof.Machine.execDiv f s
  | .rem f => Sys2Proof.Machine.execRem f s
  | .and f => Sys2Proof.Machine.execAnd f s
  | .or f => Sys2Proof.Machine.execOr f s
  | .xor f => Sys2Proof.Machine.execXor f s
  | .shl f => Sys2Proof.Machine.execShl f s
  | .shr f => Sys2Proof.Machine.execShr f s
  | .sar f => Sys2Proof.Machine.execSar f s
  | .min f => Sys2Proof.Machine.execMin f s
  | .max f => Sys2Proof.Machine.execMax f s
  | .bitc f => Sys2Proof.Machine.execBitc f s
  | .sel f => Sys2Proof.Machine.execSel f s
  | .addi f => Sys2Proof.Machine.execAddi f s
  | .andi f => Sys2Proof.Machine.execAndi f s
  | .ori f => Sys2Proof.Machine.execOri f s
  | .xori f => Sys2Proof.Machine.execXori f s
  | .shi f => Sys2Proof.Machine.execShi f s
  | .lim f lit => Sys2Proof.Machine.execLim f lit s
  | .mov f => Sys2Proof.Machine.execMov f s
  | .movDomain f => Sys2Proof.Machine.execMovDomain f s
  | .lea f => Sys2Proof.Machine.execLea f s
  | .cmp f => Sys2Proof.Machine.execCmp f s
  | .cmpi f => Sys2Proof.Machine.execCmpi f s
  | .csrr f => Sys2Proof.Machine.execCsrr f s
  | .csrw f => Sys2Proof.Machine.execCsrw f s
  | .csrs f => Sys2Proof.Machine.execCsrs f s
  | .fmtset f => Sys2Proof.Machine.execFmtset f s
  | .fmtsetM f => Sys2Proof.Machine.execFmtsetM f s
  | .dset f => Sys2Proof.Machine.execDset f s
  | .rdtime f => Sys2Proof.Machine.execRdtime f s
  | .pand f => Sys2Proof.Machine.execPand f s
  | .por f => Sys2Proof.Machine.execPor f s
  | .pxor f => Sys2Proof.Machine.execPxor f s
  | .pnot f => Sys2Proof.Machine.execPnot f s
  | .pmov f => Sys2Proof.Machine.execPmov f s
  | .pcount f => Sys2Proof.Machine.execPcount f s
  | .pfirst f => Sys2Proof.Machine.execPfirst f s
  | .vcmp f => Sys2Proof.Machine.execVcmp f s
  | .vfcmp f => Sys2Proof.Machine.execVfcmp f s
  | .pset f => Sys2Proof.Machine.execPset f s
  | .pget f => Sys2Proof.Machine.execPget f s
  | .vadd f => Sys2Proof.Machine.execVadd f s
  | .vsub f => Sys2Proof.Machine.execVsub f s
  | .vmul f => Sys2Proof.Machine.execVmul f s
  | .vmulh f => Sys2Proof.Machine.execVmulh f s
  | .vmad f => Sys2Proof.Machine.execVmad f s
  | .vand f => Sys2Proof.Machine.execVand f s
  | .vor f => Sys2Proof.Machine.execVor f s
  | .vxor f => Sys2Proof.Machine.execVxor f s
  | .vshl f => Sys2Proof.Machine.execVshl f s
  | .vshr f => Sys2Proof.Machine.execVshr f s
  | .vsar f => Sys2Proof.Machine.execVsar f s
  | .vmin f => Sys2Proof.Machine.execVmin f s
  | .vmax f => Sys2Proof.Machine.execVmax f s
  | .vabn f => Sys2Proof.Machine.execVabn f s
  | .vsel f => Sys2Proof.Machine.execVsel f s
  | .vaddi f => Sys2Proof.Machine.execVaddi f s
  | .fadd f => Sys2Proof.Machine.execFadd f s
  | .fsub f => Sys2Proof.Machine.execFsub f s
  | .fmul f => Sys2Proof.Machine.execFmul f s
  | .fma f => Sys2Proof.Machine.execFma f s
  | .fmin f => Sys2Proof.Machine.execFmin f s
  | .fmax f => Sys2Proof.Machine.execFmax f s
  | .fabn f => Sys2Proof.Machine.execFabn f s
  | .fdiv f => Sys2Proof.Machine.execFdiv f s
  | .fsqrt f => Sys2Proof.Machine.execFsqrt f s
  | .fdot2 f => Sys2Proof.Machine.execFdot2 f s
  | .fdot4 f => Sys2Proof.Machine.execFdot4 f s
  | .vdot4 f => Sys2Proof.Machine.execVdot4 f s
  | .fclass f => Sys2Proof.Machine.execFclass f s
  | .frnd f => Sys2Proof.Machine.execFrnd f s
  | .cvt f => Sys2Proof.Machine.execCvt f s
  | .cvtsr f => Sys2Proof.Machine.execCvtsr f s
  | .vrcp f => Sys2Proof.Machine.execVrcp f s
  | .vrsq f => Sys2Proof.Machine.execVrsq f s
  | .vexp2 f => Sys2Proof.Machine.execVexp2 f s
  | .vlog2 f => Sys2Proof.Machine.execVlog2 f s
  | .vsin f => Sys2Proof.Machine.execVsin f s
  | .vcos f => Sys2Proof.Machine.execVcos f s
  | .vtanh f => Sys2Proof.Machine.execVtanh f s
  | .vqnt f => Sys2Proof.Machine.execVqnt f s
  | .vdeq f => Sys2Proof.Machine.execVdeq f s
  | .vpack f => Sys2Proof.Machine.execVpack f s
  | .vunpack f => Sys2Proof.Machine.execVunpack f s
  | .vmov f => Sys2Proof.Machine.execVmov f s
  | .vbcast f => Sys2Proof.Machine.execVbcast f s
  | .vext f => Sys2Proof.Machine.execVext f s
  | .vins f => Sys2Proof.Machine.execVins f s
  | .vperm f => Sys2Proof.Machine.execVperm f s
  | .vshfl f => Sys2Proof.Machine.execVshfl f s
  | .vlane f => Sys2Proof.Machine.execVlane f s
  | .vballot f => Sys2Proof.Machine.execVballot f s
  | .red f => Sys2Proof.Machine.execRed f s
  | .scan f => Sys2Proof.Machine.execScan f s
  | .rrbset f => Sys2Proof.Machine.execRrbset f s
  | .ld f => Sys2Proof.Machine.execLd f s
  | .st f => Sys2Proof.Machine.execSt f s
  | .vld f => Sys2Proof.Machine.execVld f s
  | .vst f => Sys2Proof.Machine.execVst f s
  | .vldg f => Sys2Proof.Machine.execVldg f s
  | .vstg f => Sys2Proof.Machine.execVstg f s
  | .vlds f => Sys2Proof.Machine.execVlds f s
  | .vsts f => Sys2Proof.Machine.execVsts f s
  | .spld f => Sys2Proof.Machine.execSpld f s
  | .spst f => Sys2Proof.Machine.execSpst f s
  | .dprf f => Sys2Proof.Machine.execDprf f s
  | .ldl f => Sys2Proof.Machine.execLdl f s
  | .atom f => Sys2Proof.Machine.execAtom f s
  | .vatom f => Sys2Proof.Machine.execVatom f s
  | .cas f => Sys2Proof.Machine.execCas f s
  | .vcas f => Sys2Proof.Machine.execVcas f s
  | .fence f => Sys2Proof.Machine.execFence f s
  | .phase f => Sys2Proof.Machine.execPhase f s
  | .mfence f => Sys2Proof.Machine.execMfence f s
  | .mjoin f => Sys2Proof.Machine.execMjoin f s
  | .sstep f => Sys2Proof.Machine.execSstep f s
  | .mwait f => Sys2Proof.Machine.execMwait f s
  | .mzero f => Sys2Proof.Machine.execMzero f s
  | .mmul f => Sys2Proof.Machine.execMmul f s
  | .mmull f => Sys2Proof.Machine.execMmull f s
  | .mmulm f => Sys2Proof.Machine.execMmulm f s
  | .mplane f => Sys2Proof.Machine.execMplane f s
  | .mout f => Sys2Proof.Machine.execMout f s
  | .mcfg f => Sys2Proof.Machine.execMcfg f s
  | .tgive f => Sys2Proof.Machine.execTgive f s
  | .ttake f => Sys2Proof.Machine.execTtake f s
  | .trow f => Sys2Proof.Machine.execTrow f s
  | .twrow f => Sys2Proof.Machine.execTwrow f s
  | .spzero f => Sys2Proof.Machine.execSpzero f s
  | .qpush f => Sys2Proof.Machine.execQpush f s
  | .qpushv f => Sys2Proof.Machine.execQpushv f s
  | .qpop f => Sys2Proof.Machine.execQpop f s
  | .qpopv f => Sys2Proof.Machine.execQpopv f s
  | .qpeek f => Sys2Proof.Machine.execQpeek f s
  | .cpy f => Sys2Proof.Machine.execCpy f s
  | .cpyz f => Sys2Proof.Machine.execCpyz f s
  | .wdq f => Sys2Proof.Machine.execWdq f s
  | .launch f => Sys2Proof.Machine.execLaunch f s
  | .scall f => Sys2Proof.Machine.execScall f s
  | .scallUp f => Sys2Proof.Machine.execScallUp f s
  | .scallReply f => Sys2Proof.Machine.execScallReply f s
  | .scallLaunch f => Sys2Proof.Machine.execScallLaunch f s
  | .fcall f => Sys2Proof.Machine.execFcall f s
  | .fcallDone f => Sys2Proof.Machine.execFcallDone f s
  | .bar f => Sys2Proof.Machine.execBar f s
  | .gbar f => Sys2Proof.Machine.execGbar f s
  | .gred f => Sys2Proof.Machine.execGred f s
  | .ident f => Sys2Proof.Machine.execIdent f s
  | .lease f => Sys2Proof.Machine.execLease f s
  | .leaseMeas f => Sys2Proof.Machine.execLeaseMeas f s
  | .tleft f => Sys2Proof.Machine.execTleft f s
  | .clkreq f => Sys2Proof.Machine.execClkreq f s
  | .clkreqArm f => Sys2Proof.Machine.execClkreqArm f s
  | .sleep f => Sys2Proof.Machine.execSleep f s
  | .eret f => Sys2Proof.Machine.execEret f s
  | .eretSkip f => Sys2Proof.Machine.execEretSkip f s
  | .mapfp f => Sys2Proof.Machine.execMapfp f s
  | .tlbinvAll f => Sys2Proof.Machine.execTlbinvAll f s
  | .tlbinvSpace f => Sys2Proof.Machine.execTlbinvSpace f s
  | .tlbinvPage f => Sys2Proof.Machine.execTlbinvPage f s
  | .tlbinvS2all f => Sys2Proof.Machine.execTlbinvS2all f s
  | .tlbinvS2page f => Sys2Proof.Machine.execTlbinvS2page f s
  | .icinvMod f => Sys2Proof.Machine.execIcinvMod f s
  | .icinvRange f => Sys2Proof.Machine.execIcinvRange f s
  | .modreg f => Sys2Proof.Machine.execModreg f s
  | .modrel f => Sys2Proof.Machine.execModrel f s
  | .modrelNb f => Sys2Proof.Machine.execModrelNb f s
  | .frscrub f => Sys2Proof.Machine.execFrscrub f s
  | .fotset f => Sys2Proof.Machine.execFotset f s
  | .wmset f => Sys2Proof.Machine.execWmset f s
  | .vfsave f => Sys2Proof.Machine.execVfsave f s
  | .vfrest f => Sys2Proof.Machine.execVfrest f s
  | .ctxsave f => Sys2Proof.Machine.execCtxsave f s
  | .ctxsaveKill f => Sys2Proof.Machine.execCtxsaveKill f s
  | .ctxrest f => Sys2Proof.Machine.execCtxrest f s
  | .rdraw f => Sys2Proof.Machine.execRdraw f s
  | .pxout f => Sys2Proof.Machine.execPxout f s
  | .tsample f => Sys2Proof.Machine.execTsample f s
  | .tfetch f => Sys2Proof.Machine.execTfetch f s
  | .rtrace f => Sys2Proof.Machine.execRtrace f s
  | .rhit f => Sys2Proof.Machine.execRhit f s
  | .disc f => Sys2Proof.Machine.execDisc f s
  | .attr f => Sys2Proof.Machine.execAttr f s
  | .engineWordStart => Sys2Proof.Machine.execEngineWordStart s
  | .line => Sys2Proof.Machine.execLine s
  | .box => Sys2Proof.Machine.execBox s
  | .fill => Sys2Proof.Machine.execFill s
  | .zpack => Sys2Proof.Machine.execZpack s
  | .zunpack => Sys2Proof.Machine.execZunpack s
  | .copyCommandComplete => Sys2Proof.Machine.execCopyCommandComplete s
  | .engineCommandFault => Sys2Proof.Machine.execEngineCommandFault s
  | .matrixChunkStart => Sys2Proof.Machine.execMatrixChunkStart s
  | .matrixCommandComplete => Sys2Proof.Machine.execMatrixCommandComplete s
  | .freezeResume => Sys2Proof.Machine.execFreezeResume s
  | .freezeConversion => Sys2Proof.Machine.execFreezeConversion s
  | .rayBatchComplete => Sys2Proof.Machine.execRayBatchComplete s
  | .wdqService => Sys2Proof.Machine.execWdqService s
  | .wdqAnswer => Sys2Proof.Machine.execWdqAnswer s
  | .markerArrival => Sys2Proof.Machine.execMarkerArrival s
  | .longLatencyWriteComplete => Sys2Proof.Machine.execLongLatencyWriteComplete s
  | .fetchBlockArrival => Sys2Proof.Machine.execFetchBlockArrival s
  | .launchValidation => Sys2Proof.Machine.execLaunchValidation s
  | .teamPlacement => Sys2Proof.Machine.execTeamPlacement s
  | .teamStart => Sys2Proof.Machine.execTeamStart s
  | .neighbourBalancing => Sys2Proof.Machine.execNeighbourBalancing s
  | .teamRetirement => Sys2Proof.Machine.execTeamRetirement s
  | .launchCompletion => Sys2Proof.Machine.execLaunchCompletion s
  | .moduleVerificationComplete => Sys2Proof.Machine.execModuleVerificationComplete s
  | .moduleReleaseComplete => Sys2Proof.Machine.execModuleReleaseComplete s
  | .phaseBoundaryStart => Sys2Proof.Machine.execPhaseBoundaryStart s
  | .phaseBoundaryComplete => Sys2Proof.Machine.execPhaseBoundaryComplete s
  | .barrierRelease => Sys2Proof.Machine.execBarrierRelease s
  | .pisteArrivalForward => Sys2Proof.Machine.execPisteArrivalForward s
  | .groupRelease => Sys2Proof.Machine.execGroupRelease s
  | .groupReleaseMessage => Sys2Proof.Machine.execGroupReleaseMessage s
  | .barrierRefresh => Sys2Proof.Machine.execBarrierRefresh s
  | .refusionMismatch => Sys2Proof.Machine.execRefusionMismatch s
  | .lineEviction => Sys2Proof.Machine.execLineEviction s
  | .writebackArrival => Sys2Proof.Machine.execWritebackArrival s
  | .writebackAck => Sys2Proof.Machine.execWritebackAck s
  | .loadRequestArrival => Sys2Proof.Machine.execLoadRequestArrival s
  | .atomicAtHome => Sys2Proof.Machine.execAtomicAtHome s
  | .loamRefreshWindowStart => Sys2Proof.Machine.execLoamRefreshWindowStart s
  | .loamRefreshWindowEnd => Sys2Proof.Machine.execLoamRefreshWindowEnd s
  | .pageWalkStart => Sys2Proof.Machine.execPageWalkStart s
  | .pageWalkComplete => Sys2Proof.Machine.execPageWalkComplete s
  | .haltBroadcast => Sys2Proof.Machine.execHaltBroadcast s
  | .handlerEntry => Sys2Proof.Machine.execHandlerEntry s
  | .asyncFaultDelivery => Sys2Proof.Machine.execAsyncFaultDelivery s
  | .handlerWatchdogExpiry => Sys2Proof.Machine.execHandlerWatchdogExpiry s
  | .blockedTeamEligible => Sys2Proof.Machine.execBlockedTeamEligible s
  | .preemptionDecision => Sys2Proof.Machine.execPreemptionDecision s
  | .drainWindowEnd => Sys2Proof.Machine.execDrainWindowEnd s
  | .restore => Sys2Proof.Machine.execRestore s
  | .measuringIntervalEnd => Sys2Proof.Machine.execMeasuringIntervalEnd s
  | .warpRotation => Sys2Proof.Machine.execWarpRotation s
  | .pathBoost => Sys2Proof.Machine.execPathBoost s
  | .greedyLimit => Sys2Proof.Machine.execGreedyLimit s
  | .powerForcedIssue => Sys2Proof.Machine.execPowerForcedIssue s
  | .slewWindowEnd => Sys2Proof.Machine.execSlewWindowEnd s
  | .droopTrip => Sys2Proof.Machine.execDroopTrip s
  | .quantRestore => Sys2Proof.Machine.execQuantRestore s
  | .sleepEnd => Sys2Proof.Machine.execSleepEnd s
  | .arbiterRun => Sys2Proof.Machine.execArbiterRun s
  | .clusterIdleRelease => Sys2Proof.Machine.execClusterIdleRelease s
  | .grantApply => Sys2Proof.Machine.execGrantApply s
  | .quiescenceTimeout => Sys2Proof.Machine.execQuiescenceTimeout s
  | .railSettled => Sys2Proof.Machine.execRailSettled s
  | .relockComplete => Sys2Proof.Machine.execRelockComplete s
  | .railLower => Sys2Proof.Machine.execRailLower s
  | .mwaitWake => Sys2Proof.Machine.execMwaitWake s
  | .mwaitPoll => Sys2Proof.Machine.execMwaitPoll s
  | .rasterBatchAccept => Sys2Proof.Machine.execRasterBatchAccept s
  | .splitFrameForward => Sys2Proof.Machine.execSplitFrameForward s
  | .mergerPerform => Sys2Proof.Machine.execMergerPerform s
  | .drawBatchComplete => Sys2Proof.Machine.execDrawBatchComplete s
  | .scallBatchComplete => Sys2Proof.Machine.execScallBatchComplete s
  | .regulatorTick => Sys2Proof.Machine.execRegulatorTick s
  | .verticalBlank => Sys2Proof.Machine.execVerticalBlank s
  | .dhbaseWrite => Sys2Proof.Machine.execDhbaseWrite s
  | .dhselClr => Sys2Proof.Machine.execDhselClr s
  | .scselClr => Sys2Proof.Machine.execScselClr s
  | .rferrClear => Sys2Proof.Machine.execRferrClear s
  | .sperrClear => Sys2Proof.Machine.execSperrClear s
  | .l1errClear => Sys2Proof.Machine.execL1errClear s
  | .srseedWrite => Sys2Proof.Machine.execSrseedWrite s
  | .hmodWrite => Sys2Proof.Machine.execHmodWrite s
  | .gkindWrite => Sys2Proof.Machine.execGkindWrite s
  | .partitionCreate => Sys2Proof.Machine.execPartitionCreate s
  | .partitionDestroy => Sys2Proof.Machine.execPartitionDestroy s
  | .vfqEnable => Sys2Proof.Machine.execVfqEnable s
  | .vfqRunSet => Sys2Proof.Machine.execVfqRunSet s
  | .vfqRunClear => Sys2Proof.Machine.execVfqRunClear s
  | .skclkWrite => Sys2Proof.Machine.execSkclkWrite s
  | .registerWrite => Sys2Proof.Machine.execRegisterWrite s
  | .doorbell => Sys2Proof.Machine.execDoorbell s
  | .pcieInboundRequest => Sys2Proof.Machine.execPcieInboundRequest s
  | .flefinInboundRequest => Sys2Proof.Machine.execFlefinInboundRequest s
  | .flefinResponse => Sys2Proof.Machine.execFlefinResponse s
  | .flefinTimeout => Sys2Proof.Machine.execFlefinTimeout s
  | .flefinPortFailure => Sys2Proof.Machine.execFlefinPortFailure s
  | .ucieRetryFailure => Sys2Proof.Machine.execUcieRetryFailure s
  | .standbyWake => Sys2Proof.Machine.execStandbyWake s
  | .powerOnReset => Sys2Proof.Machine.execPowerOnReset s
  | .temperatureReading => Sys2Proof.Machine.execTemperatureReading s
  | .thermalTrip => Sys2Proof.Machine.execThermalTrip s
  | .scanOutLine => Sys2Proof.Machine.execScanOutLine s
  | .droopWithholdEnd => Sys2Proof.Machine.execDroopWithholdEnd s
  | .standbyEntry => Sys2Proof.Machine.execStandbyEntry s
  | .flefinPortTraining => Sys2Proof.Machine.execFlefinPortTraining s
  | .frscrubComplete => Sys2Proof.Machine.execFrscrubComplete s
  | .icinvComplete => Sys2Proof.Machine.execIcinvComplete s

end Sys2Proof.Machine
end

