-- ==== Sys2Proof/Machine/Enabled.lean ====
section
/-!
DEFINITION. Which autonomous steps the state itself enables: what a tick puts on the agenda (log 3). Steps that only the
world outside can cause are put there from outside: requests and answers of links, sensor readings, the lines of a display.
-/

namespace Sys2Proof.Machine

open Sys2Proof

/-- A step at up to three places. -/
def mkEv (i : Instr) (a : Nat) (b : Nat := 0) (c : Nat := 0) : Ev := { step := i, a := a, b := b, c := c }
/-- A step where a condition holds. -/
def evIf (p : Bool) (i : Instr) (a : Nat) (b : Nat := 0) (c : Nat := 0) : List Ev := if p then [mkEv i a b c] else []

/-- The step that performs an operation of the copy engine. -/
def copyStep (op : Nat) : Instr :=
  match op with
  | 0x01 => .line
  | 0x02 => .box
  | 0x03 => .fill
  | 0x10 => .zpack
  | _ => .zunpack

/-- Commands and markers of a core. -/
def State.cmdEvents (s : State) (c : Nat) (k : Core) : List Ev :=
  let next := fun (eng : Nat) => match k.nextQueued eng with | some x => [x] | none => []
  ((next 1).filter (s.waitOver c) ++ (next 2).filter (s.waitOver c)).map (fun x => mkEv .engineWordStart c x.seq) ++
  ((next 3).filter (s.serves c)).map (fun x => mkEv .wdqService c x.seq) ++
  k.cmds.flatMap (fun x =>
    if x.fault.isSome then evIf (!x.abnd) .engineCommandFault c x.seq
    else match x.stage, x.eng with
      | .fork _, _ => evIf (x.forkOver k) .engineWordStart c x.seq
      | .running, 1 => if x.abnd then [] else [mkEv (copyStep (ewOp (x.words.headD 0))) c x.seq]
      | .running, 2 => evIf (!x.abnd) .rayBatchComplete c x.seq
      | .finished, 1 => [mkEv .copyCommandComplete c x.seq]
      | .finished, 3 => evIf (decide (x.due ≤ s.pkg.now)) .wdqAnswer c x.seq
      | _, _ => []) ++
  (k.markers.filter (fun m => !m.arrived && k.reached m)).map (fun m => mkEv .markerArrival c m.slot m.queue)

/-- The unloaded latency of a producer in vc (R150, R185, R194, R219, R236, R362). The figures are not architectural (log 6). -/
def LongOp.unloaded (o : LongOp) : Nat :=
  match opOf o.word |>.toNat with
  | 0x77 => 10
  | 0x78 => 14
  | 0x57 | 0x58 => if (fmtA o.word).md = 3 then 34 else 18
  | 0x62 | 0x63 | 0x64 | 0x65 => 12
  | 0x66 | 0x67 | 0x68 => 16
  | 0x88 => 8
  | 0x8B => 60
  | 0xB2 => 12
  | 0xF7 => 8
  | _ => match o.kind with
    | .load .. | .tex .. => 20
    | _ => 0

/-- What the way to a line's home on the other die adds, and with `back` the answer: 120 nc of each sending die's own clock, in
vc of the core (R227). -/
def State.crossing (s : State) (c line : Nat) (back : Bool) : Nat :=
  let h := s.homeDie (line * 128)
  if h = dieOf c then 0
  else cdiv (120 * (ncPeriod (s.die (dieOf c)).an + (if back then ncPeriod (s.die h).an else 0))) (s.period c)

/-- The unloaded latency of a line from its home (R236). -/
def State.lineLatency (s : State) (c line : Nat) : Nat :=
  (if (s.die (s.homeDie (line * 128))).sc.any (fun l => l.line == line) then 150 else 400) + s.crossing c line true

/-- A line that a producer misses may arrive. -/
def State.lineDue (s : State) (c : Nat) (k : Core) (o : LongOp) (line : Nat) : Bool :=
  decide (o.issued + o.late + s.lineLatency c line ≤ k.vc)

/-- Memory traffic of a core, and its phase boundary: an unloaded write-back is at its home after 76 vc and acknowledged after 152,
and a boundary takes no less than 4 vc (R261). -/
def State.trafficEvents (s : State) (c : Nat) (k : Core) : List Ev :=
  (k.longs.filter (fun o => o.kind.loads.any (fun x => x.todo) || decide (o.issued + o.late + o.unloaded ≤ k.vc) && (s.arrived c o).isSome)).map (fun o => mkEv .longLatencyWriteComplete c o.id) ++
  (dedup (k.longs.flatMap (fun o => o.missing.filter (s.lineDue c k o)) ++ (k.reqs.filter (fun r => k.before r.line == k.nextId)).map (fun r => r.line))).map (fun n => mkEv .loadRequestArrival c n) ++
  (k.wbs.filter (fun w => decide (w.sent + (if w.arrived then 152 else 76) + s.crossing c w.line w.arrived ≤ k.vc))).map
    (fun w => mkEv (if w.arrived then .writebackAck else .writebackArrival) c w.id) ++
  k.atomics.map (fun a => mkEv .atomicAtHome c a.id) ++
  (match k.bstage with
    | .idle => evIf (!k.bnext.isEmpty) .phaseBoundaryStart c
    | .drain => [mkEv .phaseBoundaryStart c]
    | .writeback _ => evIf (decide (k.bat + 4 ≤ k.vc)) .phaseBoundaryComplete c
    | .refresh => k.bserve.flatMap (fun b => match b with | .group h g => [mkEv .barrierRefresh h g] | _ => []))

/-- A write was performed where an `mwait` reads: in the L1 a store of the core, at the home one after which the word meets its condition (R275). -/
def State.mwaitDue (s : State) (c : Nat) (w : Wait) : Bool :=
  match w with
  | .mwait m => m.poll.isNone && m.op.isNone && (if m.home then m.met (s.mwaitWord c m) else m.wrote)
  | _ => false

/-- A path's own steps. -/
def State.pathEvents (s : State) (c sl : Nat) (k : Core) (p : Path) : List Ev :=
  (p.buf.flatMap (fun b => match b.2 with | .pending _ due _ => (if due ≤ k.vc then [{ mkEv .fetchBlockArrival c sl p.id with w := BitVec.ofNat 64 b.1 }] else []) | _ => [])) ++
  (match p.wait with
    | .sleep t => evIf (decide (t ≤ k.vc)) .sleepEnd c sl p.id
    | .mwait { poll := some t, .. } => evIf (decide (t ≤ s.pkg.now)) .mwaitPoll c sl p.id
    | w => evIf (s.mwaitDue c w) .mwaitWake c sl p.id) ++
  evIf (decide (256 ≤ p.cand) && !p.boosted) .pathBoost c sl p.id ++
  evIf (decide (4096 ≤ p.powerHeld) && !p.forced) .powerForcedIssue c sl p.id

/-- A warp's own steps. -/
def State.warpEvents (s : State) (c sl : Nat) (k : Core) : List Ev :=
  let w := k.warp sl
  evIf (s.watchdogDue c sl) .handlerWatchdogExpiry c sl ++ evIf w.mismatched .refusionMismatch c sl ++ (w.paths.filter (fun p => !w.stopped || p.handler)).flatMap (fun p => s.pathEvents c sl k p)

/-- Rotations of one vc, the youngest warp first (R284). -/
def Core.rotations (k : Core) : List Nat :=
  sortBy (fun a b => decide ((k.warp b).rank < (k.warp a).rank)) (k.slots.filter (fun sl => decide (65536 ≤ (k.warp sl).parked)))

/-- A core's steps. -/
def State.coreEvents (s : State) (c : Nat) (k : Core) : List Ev :=
  s.cmdEvents c k ++ s.trafficEvents c k ++
  k.slots.flatMap (fun sl => s.warpEvents c sl k) ++
  [0, 1].flatMap (fun pipe => evIf (decide (64 < (sget (0, 0, 0) k.greedy pipe).2.1)) .greedyLimit c pipe) ++
  k.ops.flatMap (fun o => if o.2.1 ≤ 2 then [mkEv .frscrubComplete c 0] else evIf (o.2.1 == 3) .icinvComplete c)

/-- A pair's steps. -/
def State.pairEvents (s : State) (p : Nat) (k : Pair) : List Ev :=
  if k.freeze.isSome then [mkEv .freezeResume p, mkEv .freezeConversion p]
  else evIf (s.dueRun p).isSome .matrixCommandComplete p ++ evIf (s.nextChunk p).isSome .matrixChunkStart p

/-- R86: what is kept of a team's blocking is out of date. -/
def State.blockNews (s : State) (t : Team) : Bool :=
  !t.out && (s.teamBlocked t != t.blockedSince.isSome ||
    (match t.blockedSince with | some v => decide (v + 2 ^ 16 ≤ (s.core t.core).vc) && !t.eligible | none => false))

/-- A team's steps. -/
def State.teamEvents (s : State) (t : Team) : List Ev :=
  let e := fun (p : Bool) (i : Instr) => evIf p i t.handle t.idx
  e t.broadcastAt.isSome .haltBroadcast ++ e (s.entering t) .handlerEntry ++
  e (!t.heldAsync.isEmpty && t.state == .running) .asyncFaultDelivery ++
  e (t.state == .placed && decide (t.startAt ≤ (s.core t.core).vc)) .teamStart ++ e (s.barFull t) .barrierRelease ++
  e (t.half != some 1 && (s.haltSet t).all s.spent) .teamRetirement ++ e (s.blockNews t) .blockedTeamEligible ++
  e (t.saveFor.isSome && t.half != some 1 && !t.out && t.state != .retiring && s.teamStopped t) .drainWindowEnd ++
  (match s.restoreCore t with | some c => [mkEv .restore t.handle t.idx c] | none => [])

/-- A launch's steps. -/
def State.launchEvents (s : State) (l : Launch) : List Ev :=
  evIf (l.state == .queued) .launchValidation l.handle ++ evIf l.due.isSome .launchCompletion l.handle ++
  evIf (s.wantsRoom l || l.waitSince.isSome) .preemptionDecision l.handle

/-- A die's steps. -/
def State.dieEvents (s : State) (d : Nat) : List Ev :=
  let k := s.die d
  (match s.nextLaunch d with
    | some l => (match s.pushCore l l.next with | some c => [mkEv .teamPlacement l.handle c 1] | none => [])
    | none => []) ++
  (List.range 16).flatMap (fun i => match s.nextEntry (16 * d + i) with | some (h, c) => [mkEv .teamPlacement h c 0] | none => []) ++
  (List.range 16).flatMap (fun i => match s.stuckEntry (16 * d + i) with | some (h, c) => [mkEv .teamPlacement h c 2] | none => []) ++
  evIf (decide (k.balAt ≤ s.pkg.now) && !k.clusterQ.isEmpty) .neighbourBalancing d ++
  k.groups.flatMap (fun c => evIf (!c.home && c.complete && !c.forwarded) .pisteArrivalForward d c.handle c.group ++
    evIf (c.home && s.groupReady c.handle c.group) .groupRelease c.handle c.group) ++
  evIf (k.walks.any (fun w => !w.started)) .pageWalkStart d ++
  (k.walks.filter (fun w => w.started && w.held.isNone)).map (fun w => mkEv .pageWalkComplete d w.id) ++
  evIf (s.drawReady d).isSome .rasterBatchAccept d ++ evIf (s.toForward d).isSome .splitFrameForward d ++
  (k.frags.filter (fun f => s.dead f || (f.out.isSome && k.first f))).map (fun f => mkEv .mergerPerform d f.id) ++
  (k.batches.filter (fun b => b.home == d && !b.done && s.batchDone b)).map (fun b => mkEv .drawBatchComplete d b.num) ++
  evIf (decide (k.arbAt ≤ s.pkg.now) && !k.pools.isEmpty) .arbiterRun d ++
  (k.calls.filter (fun b => b.left == 0)).map (fun b => mkEv .scallBatchComplete b.handle b.team b.batch) ++
  evIf (!k.refresh.contains (s.refreshing d)) .loamRefreshWindowStart d (s.refreshing d) ++
  (k.refresh.filter (fun g => g != s.refreshing d)).map (fun g => mkEv .loamRefreshWindowEnd d g)

/-- The steps of clusters, rails and partitions. -/
def State.clockEvents (s : State) : List Ev :=
  let due := fun (t : Option Nat) => match t with | some t => decide (t ≤ s.pkg.now) | none => false
  s.clusters.flatMap (fun q =>
    let k := q.2
    evIf (s.idleDue q.1) .clusterIdleRelease q.1 ++ evIf (k.pending.isSome && k.relockUntil.isNone && s.quiet q.1) .grantApply q.1 ++
    evIf (match k.pending with | some (_, _, t) => decide (t + micros 50 ≤ s.pkg.now) && !s.quiet q.1 | none => false) .quiescenceTimeout q.1 ++
    evIf (due k.relockUntil) .relockComplete q.1) ++
  s.rails.flatMap (fun q => evIf (q.2.rises.any (fun x => decide (x.1 ≤ s.pkg.now))) .railSettled q.1 ++
    evIf (q.2.falls.any (fun x => decide (x.1 ≤ s.pkg.now))) .railLower q.1 ++
    evIf (q.2.withheld.any (fun x => decide (x.2 ≤ s.pkg.now))) .droopWithholdEnd q.1 ++ evIf (due q.2.halfUntil) .quantRestore q.1) ++
  s.parts.flatMap (fun q => evIf (q.2.valid && decide (q.2.slewAt ≤ s.pkg.now)) .slewWindowEnd q.1) ++
  s.heads.flatMap (fun q => evIf (q.2.enabled && decide (q.2.tickAt ≤ s.pkg.now)) .regulatorTick q.1)

/-- Link transactions out of time, and inbound requests held. -/
def State.linkEvents (s : State) : List Ev :=
  s.ports.flatMap (fun q => (q.2.txns.filter (fun t => decide (t.sentAt + micros 100 ≤ s.pkg.now))).map (fun t => mkEv .flefinTimeout q.1 t.id)) ++
  s.pkg.inbound.map (fun q => { mkEv (if q.1 = 8 then .pcieInboundRequest else .flefinInboundRequest) q.1 q.2.1 with req := some q.2.2 })

/-- Every autonomous step that the state enables now. -/
def State.enabledEvents (s : State) : List Ev :=
  (if s.pkg.bootStage = 0 then [mkEv .powerOnReset 0] else []) ++ s.cores.flatMap (fun q => s.coreEvents q.1 q.2) ++
  s.pairs.flatMap (fun q => s.pairEvents q.1 q.2) ++ s.teams.flatMap s.teamEvents ++ s.launches.flatMap s.launchEvents ++
  (s.dieEvents 0 ++ s.dieEvents 1) ++ s.clockEvents ++ s.linkEvents

end Sys2Proof.Machine
end

