-- ==== Sys2Proof/Machine/Tick.lean ====
section
/-!
DEFINITION. The vc of a core, and time (R6, R71, R95, R300, R338, R408): what begins with each tick.
-/

namespace Sys2Proof.Machine

open Sys2Proof

/-- Event records that waited for their ring slot enter it (R338). -/
def State.flushEvents (s : State) : State :=
  s.parts.foldl (fun s q => match q.2.tevWait with
    | [] => s
    | r :: l =>
      let a := ringSlot q.2.tevq 64 q.2.tevTail
      if s.ringValid a 64 then s
      else (s.setBytes a (wordsBytes (r.map (fun w => w.toNat)))).modPart q.1 (fun p => { p with tevWait := l, tevTail := p.tevTail + 1 })) s

/-- The ends of measuring intervals and the rotations that come due with a vc: they come before its admission (R280, R284). -/
def State.leaseEvents (s : State) (c : Nat) : List Ev :=
  let k := s.core c
  evIf (decide (k.measAt ≤ k.vc) && !k.slots.isEmpty) .measuringIntervalEnd c ++ k.rotations.map (fun sl => mkEv .warpRotation c sl)

/-- A vc of a core begins: the vc before is charged, results land, those of CSRs through their own steps in the order of R72,
and intervals and rotations that come due. -/
def State.beginVc (s : State) (c : Nat) : State :=
  let s := if isSvc c then s else (s.gainPower (clusterOf c)).runMc (c / 2)
  let k := s.core c
  let vc := k.vc + 1
  let res := k.slots.map (fun sl => (sl, ((((k.warp sl).bankStall k.vc).charged).skidEnd vc).landDue vc))
  let k := res.foldl (fun (k : Core) r => k.setWarp r.1 { r.2.1 with fprev := r.2.1.f })
    { k with vc := vc, at_ := k.at_ + s.period c }
  let lands := sortBy (fun a b => decide (a.1 < b.1 ∨ a.1 = b.1 ∧ a.2.1 ≤ b.2.1)) (res.flatMap (fun r => r.2.2))
  let s := s.setCore c k
  { s with agenda := lands.flatMap (fun q => q.2.2) ++ s.leaseEvents c, opened := some (c, false) }

/-- The admission of a vc that has begun, and the autonomous steps that it enables. -/
def State.admitVc (s : State) (c : Nat) : State :=
  let s := s.readmit c
  { s with agenda := s.enabledEvents, opened := some (c, true) }

/-- A vc at the network clock without an active core: only timers and autonomous steps move (log 3). -/
def State.idleTick (s : State) : State :=
  let s := { s with pkg := { s.pkg with now := s.pkg.now + ncPeriod (s.die 0).an } }
  { s with agenda := s.enabledEvents }

/-- A vc that has begun, once the steps that come due in it are done: its paths are listed in the order of R290, each warp's
`lease` is what its paths will read, and the re-fusions that exits of the vc before complete are made: their paths issue from
the next vc on. -/
def State.listTurns (s : State) (c : Nat) : State :=
  let k := s.core c
  let s := s.setCore c (k.slots.foldl (fun (k : Core) sl =>
    let w := k.warp sl
    k.setWarp sl { w with counted := true, lease0 := w.leaseWord }) k)
  ({ s with opened := none, turns := s.turnsOf c, taken := [] } : State).settleDue c

/-- A vc that has begun admits its warps, then lists its paths; otherwise time moves to the next vc of a core. -/
def State.tick (s : State) : State :=
  match s.opened with
  | some (c, false) => s.admitVc c
  | some (c, true) => s.listTurns c
  | none =>
    let s := s.flushEvents
    match s.nextCore with
    | none => s.idleTick
    | some (c, t) =>
      let s := { s with pkg := { s.pkg with now := max s.pkg.now t } }
      if s.clockStopped c then
        let s := s.modCore c (fun k => { k with at_ := max k.at_ t + s.period c })
        { s with agenda := s.enabledEvents }
      else s.beginVc c

end Sys2Proof.Machine
end

