-- ==== Sys2Proof/Machine/Cycle.lean ====
section
/-!
DEFINITION. The body of a step: the next autonomous step, the next path to try or to issue, or what a vc begins with.
-/

namespace Sys2Proof.Machine

open Sys2Proof

/-- One step: an unpowered package executes nothing but its power-on (R409). The autonomous step at the head of the agenda is performed;
else the next path of the vc is tried; else the next chosen path issues; else time moves on. -/
def State.cycle (s : State) : Host.Outcome State Fault Refusal :=
  if s.pkg.powered = false ∧ ((s.agenda.head?).map (fun e => e.step)) ≠ some .powerOnReset then .fault .noPower
  else match s.agenda with
    | e :: r => exec e.step { s with agenda := r, ev := e }
    | [] => match s.turns with
      | t :: r =>
        match ({ s with turns := r } : State).prepare t.core t.slot t.path with
        | .none k u => .next (u.noteStall t k)
        | .trap u _ _ _ _ => .next (u.candidate t)
        | .go i u => match exec i u with
          | .next v => .next (u.noteTrial t v)
          | .fault e => .fault e
          | .refused e => .refused e
      | [] => match s.chosen with
        | t :: r =>
          match ({ s with chosen := r } : State).prepare t.core t.slot t.path with
          | .none k u => .next (u.noteStall t k)
          | .trap u c cause info fl => .next (u.takeTrap c cause info none fl)
          | .go i u => exec i u
        | [] => .next s.tick

end Sys2Proof.Machine
end

