-- ==== Sys2Proof/Machine/Load.lean ====
section
/-!
DEFINITION. A program brought in from outside the machine (log 4): one resident team of one warp on core 0 whose path
holds the given fetch block and issues from its first slot.
-/

namespace Sys2Proof.Machine

open Sys2Proof

/-- The launch, team and warp that `placed` puts in: module 0 of partition 0, VF 0, 64 lanes, one warp, a scratchpad of
1 KiB, at user level. -/
def placedPath (bytes : List Byte) : Path :=
  { id := 0, mask := BitVec.allOnes 64, csize := 2 ^ 40, buf := [(0, .ready bytes), (64, .ready (List.replicate 64 0))] }

def placedWarp (bytes : List Byte) : Warp :=
  { live := true, handle := 1, team := 0, paths := [placedPath bytes], sr := srSeeded 1 }

def placedTeam : Team :=
  { handle := 1, idx := 0, core := 0, state := .running, wpt := 1, slots := [0], base := 0, size := 1024, spb := 1024,
    vf := 0, part := 0 }

def placedLaunch : Launch :=
  { handle := 1, die := 0, vf := 0, part := 0, level := .user, space := 0, addr := 0, doms := [], csig := 15,
    state := .accepted, count := 1, next := 1, started := 1 }

/-- A partition 0 that holds every pair and VF 0, with its descriptor. -/
def placedPart : Part :=
  { valid := true,
    desc := leBytes 0x101 8 ++ leBytes (2 ^ 64 - 1) 8 ++ leBytes (2 ^ 64 - 1) 8 ++ List.replicate 0x28 0 ++
      leBytes (512 * 512) 4 ++ List.replicate (256 - 0x44) 0 }

/-- The state in which the very next step issues the first instruction of `bytes` (the 64 bytes of a fetch block). -/
def State.placed (s : State) (bytes : List Byte) : State :=
  let s := { s with pkg := { s.pkg with bootStage := 15 }, launches := [placedLaunch], teams := [placedTeam],
                    agenda := [], turns := [], chosen := [{ core := 0, slot := 0, path := 0 }], taken := [] }
  let s := s.modPart 0 (fun _ => placedPart)
  let s := s.modCluster 0 (fun k => { k with count := 4096 })
  s.modCore 0 (fun k => k.setWarp 0 (placedWarp bytes))

end Sys2Proof.Machine
end

