-- ==== Sys2Proof/Machine/Step.lean ====
section
/-!
DEFINITION. One step of the part, and the placing of an instruction for the next step.
-/

namespace Sys2Proof.Machine

open Sys2Proof

/-- One step (see `State.cycle`). -/
def step (s : State) : Host.Outcome State Fault Refusal := s.cycle

/-- An instruction placed where the next step fetches and issues it. -/
def State.withFetchWord (s : State) (nbits w : Nat) : State := s.placed (leBytes (w % 2 ^ nbits) 64)

end Sys2Proof.Machine
end

