-- ==== Sys2Proof/Safety.lean ====
section
/-!
DEFINITION. What counts as a safe run, and the terms in which claims about one instruction are made: the path that issues
it is not held, its cluster's allowance admits it, and its operands can be read.
-/

namespace Sys2Proof.Machine

open Sys2Proof

/-- A step did not stop the machine. -/
def Running (o : Host.Outcome State Fault Refusal) : Prop := ∃ t, o = .next t

/-- Memory is in its canonical form. -/
structure State.Inv (s : State) : Prop where
  mem : swf 0 s.mem = true

/-- A run of `n` steps is safe when it reaches a state with memory in canonical form. -/
def SafeRun (n : Nat) (s : State) : Prop := ∃ t, Host.Core.run Sys2Proof.core n s = .next t ∧ t.Inv

/-- The path of `cur` stands before its instruction in context `c`: nothing holds the slices that it needs (R96), and the
energy allowance of its cluster admits the word (R293, R294). -/
structure Issuing (s : State) (c : Ctx) : Prop where
  ctx : s.ctx = some c
  free : c.blocked = false
  power : s.powerOk c = true

/-- `Issuing`, and the operands `ops` of an instruction can be taken: no source or destination is empty (R92, R93) and no
poisoned granule is consumed (R173). `m` is the guarded active lanes of a vector instruction, none for a scalar one; `u` is
the state with the register-file errors that reading them logged (R175). -/
structure Ready (s : State) (c : Ctx) (m : Option Mask) (ops : List Opnd) (u : State) : Prop extends Issuing s c where
  operands : c.begin s m ops = .ok u

/-- `Ready` for an instruction of row 0xE, whose path runs at level `lv` or above (R43). -/
structure ReadyAt (s : State) (c : Ctx) (lv : Level) (ops : List Opnd) (u : State) : Prop extends Ready s c none ops u where
  level : lv.rank ≤ c.p.level.rank

/-- `Ready` for an instruction that consumes the source lanes `used` (R173). -/
structure ReadyFrom (s : State) (c : Ctx) (m : Option Mask) (used : Mask) (ops : List Opnd) (u : State) : Prop
    extends Issuing s c where
  operands : c.beginFrom s m used ops = .ok u

/-- `Ready` for a lane move of S1 that takes the source lanes `used` of it and the guarded lanes `m` of the other sources
`more` (R169, R173). -/
structure ReadyMove (s : State) (c : Ctx) (m used : Mask) (s1 d : BitVec 8) (more : List Opnd) (u : State) : Prop
    extends Issuing s c where
  full : c.feCheck s (some m) (.vs s1 24 1 3 :: .vd d 1 :: more) = .ok ()
  sound : (if c.w.sound then .ok s else c.poisonCheck s (some m) used [.vs s1 24 1 3] >>= (fun t => c.poisonCheck t (some m) m more)) = .ok u

/-- The outcome of an instruction that has issued with effect `t`: the path's issue is recorded and the energy of the word
debited (R33, R293). -/
def Ctx.done (c : Ctx) (t : State) : Host.Outcome State Fault Refusal := .next ((t.issued c).debit c)

/-- A scalar result `v` of latency `lat` under the scalar guard rule (R38, R95), and the path at the next word. -/
def Ctx.scalar (c : Ctx) (u : State) (g : BitVec 5) (lat : Nat) (d : BitVec 8) (v : Word) : State :=
  (if c.on g then u.landX c lat (opIdx d) v else u).advance c

/-- Lane results `v` of latency `lat` in the lanes of `m` (R38, R95), and the path at the next word. -/
def Ctx.lanes (c : Ctx) (u : State) (m : Mask) (lat : Nat) (d : BitVec 8) (v : Nat → Lane) : State :=
  (u.landV c lat (c.phys (opIdx d)) ((lanesOf m).map (fun l => (l, v l)))).advance c

/-- A predicate result `v` of latency `lat` in the lanes of `m` (R38, R95), and the path at the next word. -/
def Ctx.pred (c : Ctx) (u : State) (m : Mask) (lat : Nat) (d : BitVec 8) (v : Mask) : State :=
  (if m = 0 then u else u.land c lat (.p (c.predPhys d) m v)).advance c

/-- Element-wise work of the type of MOD in the guarded active lanes: `v` on the elements of the sources, with the draw of
each element where the path rounds stochastically (R127, R140, R155). -/
def Ctx.elementwise (c : Ctx) (f : FmtA) (rounds : Bool) (srcs : List (BitVec 8)) (v : List Nat → Nat → Nat × Nat) : LaneRes :=
  c.eachLane (c.guard f.g) (rounds && c.rm.mode == 4) (typeOf f.md.toNat).1.width (typeOf f.md.toNat).2
    (fun l k r => v (srcs.map (fun b => elem (c.raw f.md.toNat b l) (typeOf f.md.toNat).1.width k)) r)

/-- Lane results with their flags, of latency `lat`, in one register or a pair (R95, R145). -/
def Ctx.float (c : Ctx) (u : State) (r : LaneRes) (lat : Nat) (d : BitVec 8) (pair : Bool) : State :=
  ((u.setSr c r.sr).landLanes c lat d pair r.vals).landFlags c lat r.flags

/-- The completion flag of a command can count one more: 15 names no flag (R97). -/
def Ctx.flagRoom (c : Ctx) (s : State) (f : Nat) : Bool := decide (f = 15) || decide ((s.warp c.core c.slot).fr f < 63)

/-- The completion flag of a command counts it (R97). -/
def Ctx.flagged (c : Ctx) (s : State) (f : Nat) : State :=
  if f = 15 then s else s.modWarp c.core c.slot (fun w => w.fw f (w.fr f + 1))

/-- The matrix queue, its result records, the journal and the flag have room for a command (R97, R99, R339). -/
def Ctx.matrixRoom (c : Ctx) (s : State) (m : MatCmd) (sig : Nat) : Bool :=
  let k := s.core c.core
  decide (k.queued 0 < 32) && (!m.wantsRec || decide (k.popUsed 1 < 16)) && decide (k.cmds.length < 512) && c.flagRoom s sig

/-- A matrix command in its queue and, where it names a tile, in the tile order (R99, R203), a stream's fork write-back
begun (R270). -/
def Ctx.matrixPushed (c : Ctx) (s : State) (m : MatCmd) (sig : Nat) : State :=
  let seq := (s.core c.core).nextSeq
  let r := (c.flagged s sig).forkStream c m
  let t := (r.2.addCmd c.core { c.newCmd 0 sig (.matrix m) with rec_ := m.wantsRec, fork := r.1 }).modPair (c.core / 2)
    (fun p => { p with q0 := p.q0 ++ [(seq, p.mc)] })
  if m.usesTile then t.modPair (c.core / 2) (fun p => { p with order := p.order ++ [(m.tile, .cmd seq)] }) else t

/-- The path belongs to a team of the matrix class, on the leader core where `leader`, and its warp holds the token of
`tile` where `token` (check 1 of R212). -/
structure Ctx.MayUseTile (c : Ctx) (s : State) (t : Team) (leader token : Bool) (tile : Nat) : Prop where
  team : s.teamOf c.w = some t
  twin : t.half.isSome = true
  side : leader = true → c.half = 0
  held : token = true → c.holds s tile = true

end Sys2Proof.Machine
end

