-- ==== Sys2Proof/Certificates/Slice0/Obligations.lean ====
section
/-!
DEFINITION. The statements for the provers.
-/

open Sys2Proof Sys2Proof.Machine

/-- R107, R109: the two-source scalar instructions of row 0x1 complete, with these results on their way to D (2 vc; 4 vc for the
multiplier, R95) under the scalar guard rule. A write to x0 is discarded by `landX` (R89). -/
def Obligations.ScalarArithmeticResults : Prop :=
  ∀ (s u : State) (c : Ctx) (f : FmtA), Ready s c none [.xs f.s1 24 1, .xs f.s2 16 1, .xd f.d] u →
    exec (.add f) s = c.done (c.scalar u f.g 2 f.d (c.xv f.s1 + c.xv f.s2)) ∧
    exec (.sub f) s = c.done (c.scalar u f.g 2 f.d (c.xv f.s1 - c.xv f.s2)) ∧
    exec (.mul f) s = c.done (c.scalar u f.g 4 f.d (c.xv f.s1 * c.xv f.s2)) ∧
    (f.md = 0 → exec (.mulh f) s =
      c.done (c.scalar u f.g 4 f.d (BitVec.ofInt 64 ((c.xv f.s1).toInt * (c.xv f.s2).toInt / 2 ^ 64)))) ∧
    (f.md = 1 → exec (.mulh f) s =
      c.done (c.scalar u f.g 4 f.d (BitVec.ofInt 64 ((c.xv f.s1).toNat * (c.xv f.s2).toNat / 2 ^ 64)))) ∧
    (f.md = 2 → exec (.mulh f) s =
      c.done (c.scalar u f.g 4 f.d (BitVec.ofInt 64 ((c.xv f.s1).toInt * (c.xv f.s2).toNat / 2 ^ 64)))) ∧
    exec (.and f) s = c.done (c.scalar u f.g 2 f.d (c.xv f.s1 &&& c.xv f.s2)) ∧
    exec (.or f) s = c.done (c.scalar u f.g 2 f.d (c.xv f.s1 ||| c.xv f.s2)) ∧
    exec (.xor f) s = c.done (c.scalar u f.g 2 f.d (c.xv f.s1 ^^^ c.xv f.s2)) ∧
    exec (.shl f) s = c.done (c.scalar u f.g 2 f.d (c.xv f.s1 <<< ((c.xv f.s2).toNat % 64))) ∧
    exec (.shr f) s = c.done (c.scalar u f.g 2 f.d (c.xv f.s1 >>> ((c.xv f.s2).toNat % 64))) ∧
    exec (.sar f) s = c.done (c.scalar u f.g 2 f.d ((c.xv f.s1).sshiftRight ((c.xv f.s2).toNat % 64))) ∧
    (f.md = 0 → exec (.min f) s =
      c.done (c.scalar u f.g 2 f.d (if (c.xv f.s1).toInt ≤ (c.xv f.s2).toInt then c.xv f.s1 else c.xv f.s2)) ∧
      exec (.max f) s =
      c.done (c.scalar u f.g 2 f.d (if (c.xv f.s1).toInt ≤ (c.xv f.s2).toInt then c.xv f.s2 else c.xv f.s1))) ∧
    (f.md = 1 → exec (.min f) s =
      c.done (c.scalar u f.g 2 f.d (if (c.xv f.s1).toNat ≤ (c.xv f.s2).toNat then c.xv f.s1 else c.xv f.s2)) ∧
      exec (.max f) s =
      c.done (c.scalar u f.g 2 f.d (if (c.xv f.s1).toNat ≤ (c.xv f.s2).toNat then c.xv f.s2 else c.xv f.s1))) ∧
    exec (.sel f) s = c.done (c.scalar u f.g 2 f.d
      (if (c.pv f.s3).getLsbD (lowestLane c.p.mask) then c.xv f.s1 else c.xv f.s2))

/-- R110 to R114, R119, R124: the scalar instructions with an immediate, a literal, a domain register, a predicate or no source
complete, with these results on their way to D under the scalar guard rule. -/
def Obligations.ScalarImmediateAndMoveResults : Prop :=
  ∀ (s u : State) (c : Ctx),
    (∀ f : FmtI, Ready s c none [.xs f.s1 24 1, .xd f.d] u →
      exec (.addi f) s = c.done (c.scalar u f.g 2 f.d (c.xv f.s1 + f.imm.signExtend 64)) ∧
      exec (.andi f) s = c.done (c.scalar u f.g 2 f.d (c.xv f.s1 &&& f.imm.signExtend 64)) ∧
      exec (.ori f) s = c.done (c.scalar u f.g 2 f.d (c.xv f.s1 ||| f.imm.signExtend 64)) ∧
      exec (.xori f) s = c.done (c.scalar u f.g 2 f.d (c.xv f.s1 ^^^ f.imm.signExtend 64)) ∧
      (bits f.imm 7 6 = 0 → exec (.shi f) s = c.done (c.scalar u f.g 2 f.d (c.xv f.s1 <<< bits f.imm 5 0))) ∧
      (bits f.imm 7 6 = 1 → exec (.shi f) s = c.done (c.scalar u f.g 2 f.d (c.xv f.s1 >>> bits f.imm 5 0))) ∧
      (bits f.imm 7 6 = 2 →
        exec (.shi f) s = c.done (c.scalar u f.g 2 f.d ((c.xv f.s1).sshiftRight (bits f.imm 5 0))))) ∧
    (∀ (f : FmtI) (lit : Word), Ready s c none [.xd f.d] u →
      exec (.lim f lit) s = c.done (c.scalar u f.g 2 f.d lit)) ∧
    (∀ f : FmtA, Ready s c none [.xs f.s1 24 1, .xd f.d] u →
      exec (.mov f) s = c.done (c.scalar u f.g 2 f.d (c.xv f.s1))) ∧
    (∀ f : FmtA, Ready s c none [.xs f.s1 24 1, .xs f.s2 16 1, .xd f.d] u →
      exec (.lea f) s = c.done (c.scalar u f.g 2 f.d (c.xv f.s1 + (c.xv f.s2 <<< f.md.toNat) + f.s3.signExtend 64))) ∧
    (∀ f : FmtA, Ready s c none [.xd f.d] u →
      exec (.movDomain f) s = c.done (c.scalar u f.g 2 f.d ((c.w.dr (opIdx f.s1)).setWidth 64)) ∧
      exec (.rdtime f) s = c.done (c.scalar u f.g 6 f.d (BitVec.ofNat 64 s.ns)) ∧
      exec (.pget f) s = c.done (c.scalar u f.g 3 f.d (c.pv f.s1 &&& c.p.mask)))

/-- R107, R121: `bitc`, `pcount` and `pfirst` complete, and what they write is characterised by the bits of the source, not by the
way it is counted. -/
def Obligations.BitCountResults : Prop :=
  ∀ (s u : State) (c : Ctx) (f : FmtA),
    (Ready s c none [.xs f.s1 24 1, .xd f.d] u →
      (f.md = 0 → ∃ n : Nat, n ≤ 64 ∧ (∀ k, 64 - n ≤ k → (c.xv f.s1).getLsbD k = false) ∧
        (n < 64 → (c.xv f.s1).getLsbD (63 - n) = true) ∧
        exec (.bitc f) s = c.done (c.scalar u f.g 2 f.d (BitVec.ofNat 64 n))) ∧
      (f.md = 1 → ∃ n : Nat, n ≤ 64 ∧ (∀ k, k < n → (c.xv f.s1).getLsbD k = false) ∧
        (n < 64 → (c.xv f.s1).getLsbD n = true) ∧
        exec (.bitc f) s = c.done (c.scalar u f.g 2 f.d (BitVec.ofNat 64 n))) ∧
      (f.md = 2 → exec (.bitc f) s = c.done (c.scalar u f.g 2 f.d
        (BitVec.ofNat 64 ((List.range 64).countP (fun k => (c.xv f.s1).getLsbD k)))))) ∧
    (Ready s c none [.xd f.d] u →
      exec (.pcount f) s = c.done (c.scalar u f.g 3 f.d
        (BitVec.ofNat 64 ((List.range 64).countP (fun l => (c.pv f.s1).getLsbD l && c.p.mask.getLsbD l)))) ∧
      ∃ n : Nat, n ≤ 64 ∧ (∀ l, l < n → ((c.pv f.s1).getLsbD l && c.p.mask.getLsbD l) = false) ∧
        (n < 64 → ((c.pv f.s1).getLsbD n && c.p.mask.getLsbD n) = true) ∧
        exec (.pfirst f) s = c.done (c.scalar u f.g 3 f.d (BitVec.ofNat 64 n)))

/-- R107, R108: `div` and `rem` complete while the core's divider is free (unit 0, held for 16 vc, R96), and without it where the
guard holds in no active lane. The result of a zero divisor is all ones, or the dividend; of the most negative number by −1
it is that number, or 0. -/
def Obligations.DivisionResults : Prop :=
  ∀ (s u : State) (c : Ctx) (f : FmtA), Ready s c none [.xs f.s1 24 1, .xs f.s2 16 1, .xd f.d] u →
    let a := c.xv f.s1
    let b := c.xv f.s2
    let t := u.modCore c.core (fun k => { k with busy := sput 0 k.busy 0 (c.vc + 16) })
    (c.on f.g = false → exec (.div f) s = c.done (u.advance c) ∧ exec (.rem f) s = c.done (u.advance c)) ∧
    (c.on f.g = true → sget 0 (u.core c.core).busy 0 ≤ c.vc →
      (b = 0 → exec (.div f) s = c.done ((t.landX c 20 (opIdx f.d) (BitVec.allOnes 64)).advance c) ∧
        exec (.rem f) s = c.done ((t.landX c 20 (opIdx f.d) a).advance c)) ∧
      (b ≠ 0 → f.md = 0 →
        exec (.div f) s = c.done ((t.landX c 20 (opIdx f.d) (BitVec.ofInt 64 (a.toInt.tdiv b.toInt))).advance c) ∧
        exec (.rem f) s = c.done ((t.landX c 20 (opIdx f.d) (BitVec.ofInt 64 (a.toInt.tmod b.toInt))).advance c)) ∧
      (b ≠ 0 → f.md = 1 →
        exec (.div f) s = c.done ((t.landX c 20 (opIdx f.d) (BitVec.ofNat 64 (a.toNat / b.toNat))).advance c) ∧
        exec (.rem f) s = c.done ((t.landX c 20 (opIdx f.d) (BitVec.ofNat 64 (a.toNat % b.toNat))).advance c)))

/-- R115, R120, R122, R124, R78: the compares, the predicate logic, `pset` and `elect` complete. `c.pred` sends the result to the
active lanes of D whose guard holds and to no other lane; `elect` writes every active lane. -/
def Obligations.PredicateResults : Prop :=
  ∀ (s u : State) (c : Ctx),
    (∀ f : FmtA, Ready s c none [.xs f.s1 24 1, .xs f.s2 16 1] u →
      exec (.cmp f) s = c.done (c.pred u (c.guard f.g) 2 f.d
        (if condHolds f.md.toNat (c.xv f.s1) (c.xv f.s2) then BitVec.allOnes 64 else 0))) ∧
    (∀ f : FmtI, Ready s c none [.xs f.s1 24 1] u →
      exec (.cmpi f) s = c.done (c.pred u (c.guard f.g) 2 f.d
        (if condHolds (bits f.imm 18 16) (c.xv f.s1) ((f.imm.setWidth 16).signExtend 64) then BitVec.allOnes 64 else 0))) ∧
    (∀ f : FmtA, Ready s c none [.xs f.s1 24 1] u →
      exec (.pset f) s = c.done (c.pred u (c.guard f.g) 2 f.d (c.xv f.s1))) ∧
    (∀ f : FmtA, Ready s c (some (c.guard f.g)) [] u →
      (f.md = 0 →
        exec (.pand f) s = c.done (c.pred u (c.guard f.g) 1 f.d (c.pv f.s1 &&& c.pv f.s2)) ∧
        exec (.por f) s = c.done (c.pred u (c.guard f.g) 1 f.d (c.pv f.s1 ||| c.pv f.s2)) ∧
        exec (.pxor f) s = c.done (c.pred u (c.guard f.g) 1 f.d (c.pv f.s1 ^^^ c.pv f.s2))) ∧
      (f.md = 1 →
        exec (.pand f) s = c.done (c.pred u (c.guard f.g) 1 f.d (c.pv f.s1 &&& ~~~c.pv f.s2)) ∧
        exec (.por f) s = c.done (c.pred u (c.guard f.g) 1 f.d (c.pv f.s1 ||| ~~~c.pv f.s2)) ∧
        exec (.pxor f) s = c.done (c.pred u (c.guard f.g) 1 f.d (~~~(c.pv f.s1 ^^^ c.pv f.s2)))) ∧
      exec (.pnot f) s = c.done (c.pred u (c.guard f.g) 1 f.d (~~~c.pv f.s1)) ∧
      exec (.pmov f) s = c.done (c.pred u (c.guard f.g) 1 f.d (c.pv f.s1))) ∧
    (∀ f : FmtA, Ready s c (some (c.guard f.g)) [.vs f.s1 24 1 3, .vs f.s2 16 1 3] u →
      exec (.vcmp f) s = c.done (c.pred u (c.guard f.g) 3 f.d
        (maskWhere (fun l => condHolds f.md.toNat (c.vv f.s1 l) (c.vv f.s2 l))))) ∧
    (∀ f : FmtA, Issuing s c →
      exec (.elect f) s = c.done ((s.land c 2 (.p (c.predPhys f.d) c.p.mask
        (if c.guard f.g = 0 then 0 else laneBit (lowestLane (c.guard f.g))))).advance c))

/-- R153, R154: the integer lane instructions complete; `c.lanes` sends the result of each guarded active lane to D (3 vc; 5 vc for
the multiplier). -/
def Obligations.LaneIntegerResults : Prop :=
  ∀ (s u : State) (c : Ctx),
    (∀ f : FmtA, Ready s c (some (c.guard f.g)) [.vs f.s1 24 1 3, .vs f.s2 16 1 3, .vd f.d 1] u →
      let r := fun (n : Nat) (v : Lane → Lane → Lane) =>
        c.done (c.lanes u (c.guard f.g) n f.d (fun l => v (c.vv f.s1 l) (c.vv f.s2 l)))
      (f.md = 0 →
        exec (.vadd f) s = r 3 (fun a b => a + b) ∧
        exec (.vsub f) s = r 3 (fun a b => a - b) ∧
        exec (.vmul f) s = r 5 (fun a b => a * b) ∧
        exec (.vmulh f) s = r 5 (fun a b => BitVec.ofInt 32 (a.toInt * b.toInt / 2 ^ 32)) ∧
        exec (.vmin f) s = r 3 (fun a b => if a.toInt ≤ b.toInt then a else b) ∧
        exec (.vmax f) s = r 3 (fun a b => if a.toInt ≤ b.toInt then b else a)) ∧
      (f.md = 1 →
        exec (.vadd f) s = r 3 (fun a b => BitVec.ofInt 32 (satI (a.toInt + b.toInt) (-2 ^ 31) (2 ^ 31 - 1))) ∧
        exec (.vsub f) s = r 3 (fun a b => BitVec.ofInt 32 (satI (a.toInt - b.toInt) (-2 ^ 31) (2 ^ 31 - 1))) ∧
        exec (.vmul f) s = r 5 (fun a b => BitVec.ofInt 32 (satI (a.toInt * b.toInt) (-2 ^ 31) (2 ^ 31 - 1))) ∧
        exec (.vmulh f) s = r 5 (fun a b => BitVec.ofInt 32 ((a.toNat : Int) * (b.toNat : Int) / 2 ^ 32)) ∧
        exec (.vmin f) s = r 3 (fun a b => if a.toNat ≤ b.toNat then a else b) ∧
        exec (.vmax f) s = r 3 (fun a b => if a.toNat ≤ b.toNat then b else a)) ∧
      (f.md = 2 →
        exec (.vadd f) s = r 3 (fun a b => BitVec.ofInt 32 (satI ((a.toNat : Int) + (b.toNat : Int)) 0 (2 ^ 32 - 1))) ∧
        exec (.vsub f) s = r 3 (fun a b => BitVec.ofInt 32 (satI ((a.toNat : Int) - (b.toNat : Int)) 0 (2 ^ 32 - 1))) ∧
        exec (.vmulh f) s = r 5 (fun a b => BitVec.ofInt 32 (a.toInt * (b.toNat : Int) / 2 ^ 32))) ∧
      exec (.vand f) s = r 3 (fun a b => a &&& b) ∧
      exec (.vor f) s = r 3 (fun a b => a ||| b) ∧
      exec (.vxor f) s = r 3 (fun a b => a ^^^ b)) ∧
    (∀ f : FmtA, let m := c.guard f.g
      Issuing s c → c.feCheck s (some m) [.vs f.s1 24 1 3, .vs f.s2 16 1 3, .vd f.d 1] = .ok () →
      (if c.w.sound then .ok s else c.poisonCheck s (some m) (m &&& c.pv f.s3) [.vs f.s1 24 1 3] >>=
        (fun t => c.poisonCheck t (some m) (m &&& ~~~c.pv f.s3) [.vs f.s2 16 1 3])) = .ok u →
      exec (.vsel f) s = c.done (c.lanes u m 3 f.d (fun l => if (c.pv f.s3).getLsbD l then c.vv f.s1 l else c.vv f.s2 l))) ∧
    (∀ f : FmtA, Ready s c (some (c.guard f.g)) [.vs f.s1 24 1 3, .vs f.s2 16 1 1, .vd f.d 1] u →
      let r := fun (v : Lane → Nat → Lane) => c.done (c.lanes u (c.guard f.g) 3 f.d (fun l => v (c.vv f.s1 l) ((c.vv f.s2 l).toNat % 32)))
      exec (.vshl f) s = r (fun a n => a <<< n) ∧
      exec (.vshr f) s = r (fun a n => a >>> n) ∧
      exec (.vsar f) s = r (fun a n => a.sshiftRight n)) ∧
    (∀ f : FmtA, Ready s c (some (c.guard f.g)) [.vs f.s1 24 1 3, .vs f.s2 16 1 3, .vs f.s3 8 1 3, .vd f.d 1] u →
      (f.md = 0 → exec (.vmad f) s = c.done (c.lanes u (c.guard f.g) 5 f.d
        (fun l => c.vv f.s1 l * c.vv f.s2 l + c.vv f.s3 l))) ∧
      (f.md = 1 → exec (.vmad f) s = c.done (c.lanes u (c.guard f.g) 5 f.d
        (fun l => BitVec.ofInt 32
          (satI ((c.vv f.s1 l).toInt * (c.vv f.s2 l).toInt + (c.vv f.s3 l).toInt) (-2 ^ 31) (2 ^ 31 - 1)))))) ∧
    (∀ f : FmtA, Ready s c (some (c.guard f.g)) [.vs f.s1 24 1 3, .vd f.d 1] u →
      let r := fun (v : Lane → Lane) => c.done (c.lanes u (c.guard f.g) 3 f.d (fun l => v (c.vv f.s1 l)))
      (f.md = 0 → exec (.vabn f) s = r (fun a => BitVec.ofInt 32 a.toInt.natAbs)) ∧
      (f.md = 1 → exec (.vabn f) s = r (fun a => -a)) ∧
      (f.md = 2 → exec (.vabn f) s = r (fun a => BitVec.ofInt 32 (satI a.toInt.natAbs (-2 ^ 31) (2 ^ 31 - 1)))) ∧
      (f.md = 3 → exec (.vabn f) s = r (fun a => BitVec.ofInt 32 (satI (-a.toInt) (-2 ^ 31) (2 ^ 31 - 1))))) ∧
    (∀ f : FmtI, Ready s c (some (c.guard f.g)) [.vs f.s1 24 1 3, .vd f.d 1] u →
      exec (.vaddi f) s = c.done (c.lanes u (c.guard f.g) 3 f.d (fun l => c.vv f.s1 l + f.imm.signExtend 32)))

/-- R156 to R158, R160: the fixed-latency floating-point lane instructions complete, element by element in the type of MOD, under the
path's rounding mode. `F.rnd` rounds an exact value, `F.read` reads an element under FTZ. -/
def Obligations.FloatLaneResults : Prop :=
  ∀ (s u : State) (c : Ctx) (f : FmtA),
    let md := f.md.toNat
    let F := (typeOf md).1
    let out := fun (lat latD : Nat) (r : LaneRes) =>
      c.done (((c.float u r (if md = 3 then latD else lat) f.d (md == 3)).holdIfD c md).advance c)
    (Ready s c (some (c.guard f.g)) [vsrc md f.s1 24, vsrc md f.s2 16, vdst md f.d] u →
      exec (.fadd f) s = out 5 10 (c.elementwise f true [f.s1, f.s2] (fun l r =>
        F.rnd c.rm (fvAdd c.rm (F.read c.rm.ftz (l.getD 0 0)) (F.read c.rm.ftz (l.getD 1 0))) r)) ∧
      exec (.fsub f) s = out 5 10 (c.elementwise f true [f.s1, f.s2] (fun l r =>
        F.rnd c.rm (fvAdd c.rm (F.read c.rm.ftz (l.getD 0 0)) (F.read c.rm.ftz (l.getD 1 0)).negate) r)) ∧
      exec (.fmul f) s = out 5 10 (c.elementwise f true [f.s1, f.s2] (fun l r =>
        F.rnd c.rm (fvMul (F.read c.rm.ftz (l.getD 0 0)) (F.read c.rm.ftz (l.getD 1 0))) r)) ∧
      exec (.fmin f) s = out 3 3 (c.elementwise f false [f.s1, f.s2] (fun l _ =>
        F.minMax c.rm.ftz false (l.getD 0 0) (l.getD 1 0))) ∧
      exec (.fmax f) s = out 3 3 (c.elementwise f false [f.s1, f.s2] (fun l _ =>
        F.minMax c.rm.ftz true (l.getD 0 0) (l.getD 1 0)))) ∧
    (Ready s c (some (c.guard f.g)) [vsrc md f.s1 24, vsrc md f.s2 16, vsrc md f.s3 8, vdst md f.d] u →
      exec (.fma f) s = out 5 10 (c.elementwise f true [f.s1, f.s2, f.s3] (fun l r =>
        F.rnd c.rm (fvFma c.rm (F.read c.rm.ftz (l.getD 0 0)) (F.read c.rm.ftz (l.getD 1 0))
          (F.read c.rm.ftz (l.getD 2 0))) r))) ∧
    (Ready s c (some (c.guard f.g)) [vsrc md f.s1 24, vdst md f.d] u →
      exec (.fabn f) s = out 3 3 (c.elementwise f false [f.s1] (fun l _ =>
        let x := l.getD 0 0
        let neg := if f.s3.toNat % 4 = 0 then false else if f.s3.toNat % 4 = 1 then !Nat.testBit x (F.width - 1) else true
        match F.read c.rm.ftz x with
        | .nan signalling => (F.nan, if signalling then flNV else 0)
        | .num _ 0 _ => (F.zero neg, 0)
        | _ => (F.signBit neg + x % 2 ^ (F.width - 1), 0))) ∧
      exec (.frnd f) s = out 4 4 (c.elementwise f true [f.s1] (fun l r =>
        match F.read c.rm.ftz (l.getD 0 0) with
        | .nan signalling => (F.nan, if signalling then flNV else 0)
        | .inf n => (F.inf n, 0)
        | .num n 0 _ => (F.zero n, 0)
        | .num n m e =>
          let v := rndInt c.rm.mode n (.dy m e) r
          (if v.1 = 0 then F.zero n else (F.rndMag { mode := 0 } n (.dy v.1.natAbs 0) 0).1, if v.2 then 0 else flNX))))

/-- R159, R161, R123: the dot products, `fclass` and `vfcmp` complete with these results. -/
def Obligations.DotClassAndCompareResults : Prop :=
  ∀ (s u : State) (c : Ctx) (f : FmtA),
    let md := f.md.toNat
    let dot := fun (F G : Ffmt) (n : Nat) => c.done ((c.float u
      (c.eachLane (c.guard f.g) (c.rm.mode == 4) 32 1 (fun l _ r =>
        f32.rnd c.rm (dotEx c.rm ((List.range n).map (fun k =>
          (F.read c.rm.ftz (elem (c.vv f.s1 l).toNat F.width k), G.read c.rm.ftz (elem (c.vv f.s2 l).toNat G.width k))))
          (f32.read c.rm.ftz (c.vv f.s3 l).toNat)) r)) 6 f.d false).advance c)
    (Ready s c (some (c.guard f.g)) [.vs f.s1 24 1 3, .vs f.s2 16 1 3, .vs f.s3 8 1 3, .vd f.d 1] u →
      (f.md = 1 → exec (.fdot2 f) s = dot f16 f16 2) ∧
      (f.md = 2 → exec (.fdot2 f) s = dot bf16 bf16 2) ∧
      (f.md = 0 → exec (.fdot4 f) s = dot e4m3 e4m3 4) ∧
      (f.md = 1 → exec (.fdot4 f) s = dot e5m2 e5m2 4) ∧
      (f.md = 2 → exec (.fdot4 f) s = dot e4m3 e5m2 4) ∧
      (f.md = 3 → exec (.fdot4 f) s = dot e5m2 e4m3 4) ∧
      exec (.vdot4 f) s = c.done (c.lanes u (c.guard f.g) 6 f.d (fun l =>
        let a := fun k => if md % 4 = 0 ∨ md % 4 = 2 then sextN (elem (c.vv f.s1 l).toNat 8 k) 8
          else (elem (c.vv f.s1 l).toNat 8 k : Int)
        let b := fun k => if md % 4 = 0 ∨ md % 4 = 3 then sextN (elem (c.vv f.s2 l).toNat 8 k) 8
          else (elem (c.vv f.s2 l).toNat 8 k : Int)
        let t := (c.vv f.s3 l).toInt + a 0 * b 0 + a 1 * b 1 + a 2 * b 2 + a 3 * b 3
        BitVec.ofInt 32 (if 4 ≤ md then satI t (-2 ^ 31) (2 ^ 31 - 1) else t)))) ∧
    (Ready s c (some (c.guard f.g)) [vsrc md f.s1 24, .vd f.d 1] u →
      exec (.fclass f) s = c.done (((u.landLanes c 3 f.d false ((lanesOf (c.guard f.g)).map (fun l =>
        (l, (List.range (typeOf md).2).foldl (fun x k =>
          x + 2 ^ ((typeOf md).1.classBit (elem (c.raw md f.s1 l) (typeOf md).1.width k) + 16 * k)) 0)))).holdIfD c md).advance
            c)) ∧
    (∀ (F : Ffmt) (k n gr : Nat),
      ((md, F, k, n, gr) ∈ [(0, f32, 0, 1, 3), (1, f16, 0, 1, 1), (2, bf16, 0, 1, 1), (3, f64, 0, 2, 3), (4, f16, 1, 1, 2),
        (5, bf16, 1, 1, 2)]) →
      Ready s c (some (c.guard f.g)) [.vs f.s1 24 n gr, .vs f.s2 16 n gr] u →
      let r := fun l => fcond (f.s3.toNat % 8) (F.read c.rm.ftz (elem (c.raw md f.s1 l) F.width k))
        (F.read c.rm.ftz (elem (c.raw md f.s2 l) F.width k))
      exec (.vfcmp f) s = c.done ((((if c.guard f.g = 0 then u
        else u.land c 4 (.p (c.predPhys f.d) (c.guard f.g) (maskWhere (fun l => (r l).1)))).landFlags c 4
          ((lanesOf (c.guard f.g)).foldl (fun a l => a ||| (r l).2) 0)).holdIfD c md).advance c))

/-- R91, R149, R152, R156, R167, R168: the long-latency lane instructions complete. Where the guard holds in no active lane only
the path advances. Else the unit of the path's pipe (4 + pipe: divide, 2 + pipe: special function) is taken, D becomes empty
and the result is pending. `sfuValue` is the result within the bounds of R168 (free within them, log entry 5). -/
def Obligations.LongFloatResults : Prop :=
  ∀ (s u : State) (c : Ctx) (f : FmtA),
    let md := f.md.toNat
    let F := (typeOf md).1
    let m := c.guard f.g
    let runs := fun (i : Instr) (unit occ : Nat) (r : LaneRes) =>
      (m = 0 → exec i s = c.done (u.advance c)) ∧
      (m ≠ 0 → sget 0 (u.core c.core).busy unit ≤ c.vc →
        let t := u.modCore c.core (fun k => { k with busy := sput 0 k.busy unit (c.vc + occ) })
        exec i s = c.done ((((t.setSr c r.sr).startLong c (.v (c.dregs f.d (md == 3))) m
          (.done (laneWrites (c.dregs f.d (md == 3)) r.vals) r.flags)).holdIfD c md).advance c))
    let quarter := (c.slices + 3) / 4
    (Ready s c (some m) [vsrc md f.s1 24, vsrc md f.s2 16, vdst md f.d] u →
      runs (.fdiv f) (4 + pipeOf c.slot) ((if md = 3 then 8 else 2) * quarter) (c.elementwise f true [f.s1, f.s2] (fun l r =>
        F.rnd c.rm (fvDiv (F.read c.rm.ftz (l.getD 0 0)) (F.read c.rm.ftz (l.getD 1 0))) r))) ∧
    (Ready s c (some m) [vsrc md f.s1 24, vdst md f.d] u →
      let special := fun (op : Nat) => c.elementwise f false [f.s1] (fun l _ => sfuValue op md F c.rm.ftz (l.getD 0 0))
      runs (.fsqrt f) (4 + pipeOf c.slot) ((if md = 3 then 8 else 2) * quarter) (c.elementwise f true [f.s1] (fun l r =>
        F.rnd c.rm (fvSqrt (F.read c.rm.ftz (l.getD 0 0))) r)) ∧
      runs (.vrcp f) (2 + pipeOf c.slot) quarter (special 0x62) ∧
      runs (.vrsq f) (2 + pipeOf c.slot) quarter (special 0x63) ∧
      runs (.vexp2 f) (2 + pipeOf c.slot) quarter (special 0x64) ∧
      runs (.vlog2 f) (2 + pipeOf c.slot) quarter (special 0x65) ∧
      runs (.vsin f) (2 + pipeOf c.slot) quarter (special 0x66) ∧
      runs (.vcos f) (2 + pipeOf c.slot) quarter (special 0x67) ∧
      runs (.vtanh f) (2 + pipeOf c.slot) quarter (special 0x68))

/-- R141, R162 to R166: the conversions, `vqnt`, `vdeq`, `vpack` and `vunpack` complete. `cvt` of a block-integer destination
asks for a group size that `fmt` allows (R163; group size 2 traps, stated elsewhere). -/
def Obligations.ConversionResults : Prop :=
  ∀ (s u : State) (c : Ctx) (f : FmtA),
    (∀ always : Bool,
      let i : Instr := if always then .cvtsr f else .cvt f
      let sc := cvtSrc f
      let dc := cvtDst f
      let se := f.s3.toNat % 4
      let de := f.s3.toNat / 4 % 4
      let sr := always || c.rm.mode == 4
      let rm : Rm := if sr then { c.rm with mode := 4 } else c.rm
      let raw := fun (l : Nat) => if sc = 3 then (c.vv2 f.s1 l).toNat else elem (c.vv f.s1 l).toNat (cvtWidth sc) se
      let r := c.eachLane (c.guard f.g) sr 64 1 (fun l _ d => cvtElem rm (bit c.p.fmt 4) sc dc (raw l) d)
      Ready s c (some (c.guard f.g)) ([.vs f.s1 24 (if sc = 3 then 2 else 1) (granules (cvtWidth sc) se),
        .vd f.d (if dc = 3 then 2 else 1)] ++ (if cvtWidth dc < 32 then [.vs f.d 32 1 0] else [])) u →
      (dc < 14 → cvtWidth dc < 32 → r.vals ≠ [] →
        exec i s = c.done ((((u.setSr c r.sr).landFlags c 4 r.flags).land c 4
          (.vn (c.phys (opIdx f.d)) (if cvtWidth dc = 16 then 2 ^ (de % 2) else 0)
            (r.vals.map (fun q => (q.1, setBits (c.vv f.d q.1) (cvtWidth dc * de) (cvtWidth dc) q.2))))).advance c)) ∧
      (dc < 14 → cvtWidth dc < 32 → r.vals = [] →
        exec i s = c.done (((u.setSr c r.sr).landFlags c 4 r.flags).advance c)) ∧
      (dc < 14 → 32 ≤ cvtWidth dc →
        exec i s = c.done ((((u.setSr c r.sr).landFlags c 4 r.flags).landLanes c 4 f.d (dc == 3) r.vals).advance c)) ∧
      (14 ≤ dc → bits c.p.fmt 7 6 ≠ 2 →
        exec i s = c.done ((c.float u (c.toBi (c.guard f.g) sr rm.mode (if dc = 14 then 12 else 16) raw) 4 f.d false).advance
          c))) ∧
    (Ready s c (some (c.guard f.g)) [.vs f.s1 24 1 3, .vs f.s2 16 1 3, .vs f.s3 8 1 3, .vd f.d 1] u →
      exec (.vqnt f) s = c.done ((c.float u (c.eachLane (c.guard f.g) (c.rm.mode == 4) 32 1 (fun l _ r =>
        let q := qntValue c.rm f.md.toNat (c.vv f.s1 l).toNat (c.vv f.s2 l).toNat (c.vv f.s3 l).toInt r
        ((BitVec.ofInt 32 q.1).toNat, q.2))) 6 f.d false).advance c)) ∧
    (Ready s c (some (c.guard f.g)) [.vs f.s1 24 1 1, .vs f.s2 16 1 3, .vs f.s3 8 1 3, .vd f.d 1] u →
      exec (.vdeq f) s = c.done ((c.float u (c.eachLane (c.guard f.g) (c.rm.mode == 4) 32 1 (fun l _ r =>
        deqValue c.rm f.md.toNat (c.vv f.s1 l).toNat (c.vv f.s2 l).toNat (c.vv f.s3 l).toInt r)) 6 f.d false).advance c)) ∧
    (Ready s c (some (c.guard f.g)) [.vs f.s1 24 1 (if f.md = 0 then 1 else 3), .vs f.s2 16 1 (if f.md = 0 then 1 else 3),
        .vd f.d 1] u →
      exec (.vpack f) s =
        c.done (c.lanes u (c.guard f.g) 3 f.d (fun l => packValue f.md.toNat (c.vv f.s1 l) (c.vv f.s2 l)))) ∧
    (∀ w : Nat, w = (if f.md.toNat ≤ 1 then 16 else if f.md.toNat ≤ 3 then 8 else 4) →
      Ready s c (some (c.guard f.g)) [.vs f.s1 24 1 (granules w f.s3.toNat), .vd f.d 1] u →
      (f.md.toNat % 2 = 0 → exec (.vunpack f) s = c.done (c.lanes u (c.guard f.g) 3 f.d
        (fun l => BitVec.ofInt 32 (sextN (elem (c.vv f.s1 l).toNat w f.s3.toNat) w)))) ∧
      (f.md.toNat % 2 = 1 → exec (.vunpack f) s = c.done (c.lanes u (c.guard f.g) 3 f.d
        (fun l => BitVec.ofNat 32 (elem (c.vv f.s1 l).toNat w f.s3.toNat)))))

/-- R169: the lane moves complete. Each lane of `vperm`, `vshfl` and `vlane` takes the source lane that R169 names, active or not. -/
def Obligations.LaneMoveResults : Prop :=
  ∀ (s u : State) (c : Ctx) (f : FmtA),
    let m := c.guard f.g
    (Ready s c (some m) [.vs f.s1 24 (if f.md = 1 then 2 else 1) 3, .vd f.d (if f.md = 1 then 2 else 1)] u →
      (f.md = 0 → exec (.vmov f) s =
        c.done ((u.landLanes c 2 f.d false ((lanesOf m).map (fun l => (l, (c.vv f.s1 l).toNat)))).advance c)) ∧
      (f.md = 1 → exec (.vmov f) s =
        c.done ((u.landLanes c 2 f.d true ((lanesOf m).map (fun l => (l, (c.vv2 f.s1 l).toNat)))).advance c))) ∧
    (Ready s c (some m) [.xs f.s1 24 1, .vd f.d (if f.md = 1 then 2 else 1)] u →
      let x := (c.xv f.s1).toNat
      let all := fun (pair : Bool) (v : Nat) => c.done ((u.landLanes c 3 f.d pair ((lanesOf m).map (fun l => (l, v)))).advance c)
      (f.md = 0 → exec (.vbcast f) s = all false (x % 2 ^ 32)) ∧
      (f.md = 1 → exec (.vbcast f) s = all true x) ∧
      (f.md = 2 → exec (.vbcast f) s = all false (x % 2 ^ 16 * 0x10001)) ∧
      (f.md = 3 → exec (.vbcast f) s = all false (x % 2 ^ 8 * 0x1010101))) ∧
    (let l := (c.xv f.s2).toNat % 64;
      ReadyFrom s c none (if c.on f.g then laneBit l else 0)
        [.vs f.s1 24 (if f.md = 2 then 2 else 1) 3, .xs f.s2 16 1, .xd f.d] u →
      (f.md = 0 → exec (.vext f) s = c.done (c.scalar u f.g 4 f.d ((c.vv f.s1 l).setWidth 64))) ∧
      (f.md = 1 → exec (.vext f) s = c.done (c.scalar u f.g 4 f.d ((c.vv f.s1 l).signExtend 64))) ∧
      (f.md = 2 → exec (.vext f) s = c.done (c.scalar u f.g 4 f.d (c.vv2 f.s1 l)))) ∧
    (Ready s c (some m) [.xs f.s1 24 1, .xs f.s2 16 1, .vd f.d (if f.md = 1 then 2 else 1)] u →
      exec (.vins f) s = c.done ((u.landLanes c 3 f.d (f.md == 1)
        ((lanesOf (m &&& laneBit ((c.xv f.s2).toNat % 64))).map (fun l => (l, (c.xv f.s1).toNat)))).advance c)) ∧
    (let src := fun (l : Nat) => if f.md = 1 ∧ (c.vv f.s2 l).getLsbD 31 = true then none else some ((c.vv f.s2 l).toNat % 64);
      ReadyMove s c m (maskOf ((lanesOf m).filterMap src)) f.s1 f.d [.vs f.s2 16 1 (if f.md = 1 then 3 else 1)] u →
      exec (.vperm f) s = c.done (c.lanes u m 4 f.d (fun l => match src l with | some k => c.vv f.s1 k | none => 0))) ∧
    (∀ src : Nat → Nat,
      ReadyMove s c m (maskOf ((lanesOf m).map src)) f.s1 f.d [] u →
      (let k := f.s3.toNat % 64;
        (f.md = 0 ∧ (∀ l, src l = l ^^^ k) ∨ f.md = 1 ∧ (∀ l, src l = if k ≤ l then l - k else l) ∨
          f.md = 2 ∧ (∀ l, src l = if l + k < 64 then l + k else l) ∨ f.md = 3 ∧ (∀ l, src l = k)) →
        exec (.vshfl f) s = c.done (c.lanes u m 4 f.d (fun l => c.vv f.s1 (src l)))) ∧
      ((f.md = 0 ∧ (∀ l, src l = l ^^^ 1) ∨ f.md = 1 ∧ (∀ l, src l = l ^^^ 2) ∨ f.md = 2 ∧ (∀ l, src l = l ^^^ 3) ∨
          f.md = 3 ∧ (∀ l, src l = 4 * (l / 4) + f.s3.toNat % 4)) →
        exec (.vlane f) s = c.done (c.lanes u m 3 f.d (fun l => c.vv f.s1 (src l))))) ∧
    (let ballot := fun (test : Lane → Bool) =>
        c.done ((if m = 0 then u else u.landX c 4 (opIdx f.d) (maskOf ((lanesOf m).filter (fun l => test (c.vv f.s1 l))))).advance c);
      (f.md = 0 → ReadyFrom s c none m [.vs f.s1 24 1 3, .xd f.d] u → exec (.vballot f) s = ballot (fun a => decide (a ≠ 0))) ∧
      (f.md = 1 → ReadyFrom s c none m [.vs f.s1 24 1 2, .xd f.d] u → exec (.vballot f) s = ballot (fun a => a.getLsbD 31)) ∧
      (f.md = 2 → ReadyFrom s c none m [.vs f.s1 24 1 1, .xd f.d] u → exec (.vballot f) s = ballot (fun a => a.getLsbD 0)))

/-- R149, R152, R170, R171: `red` and `scan` complete: the tree unit (unit 1) is held for 2 vc, the destination becomes empty, and
the value of the up-sweep (and down-sweep) over the guarded active lanes is pending with its flags. `red` into x0 leaves no
destination (R89). -/
def Obligations.TreeResults : Prop :=
  ∀ (s u : State) (c : Ctx) (f : FmtA),
    let m := c.guard f.g
    let t := u.modCore c.core (fun k => { k with busy := sput 0 k.busy 1 (c.vc + 2) })
    (ReadyFrom s c none m [.vs f.s1 24 1 3, .xd f.d] u → sget 0 (u.core c.core).busy 1 ≤ c.vc →
      let r := c.reduce f.md.toNat m f.s1
      (opIdx f.d ≠ 0 → exec (.red f) s =
        c.done ((t.startLong c (.x (opIdx f.d)) m (.done [.x (opIdx f.d) r.1] r.2)).advance c)) ∧
      (opIdx f.d = 0 → exec (.red f) s = c.done ((t.startLong c .none m (.done [] r.2)).advance c))) ∧
    (Ready s c (some m) [.vs f.s1 24 1 3, .vd f.d 1] u →
      (m = 0 → exec (.scan f) s = c.done (u.advance c)) ∧
      (m ≠ 0 → sget 0 (u.core c.core).busy 1 ≤ c.vc →
        let r := c.scan f.md.toNat (f.s3.getLsbD 0) m f.s1
        let ph := c.phys (opIdx f.d)
        exec (.scan f) s = c.done ((t.startLong c (.v [ph]) m (.done [.v ph r.1] r.2)).advance c)))

/-- R42, R103, R116 to R118, R125, R290, R31: the instructions on CSRs, on the path's `fmt` and `rrb` and on the domain registers,
`nop`, `yield` and `ipref` complete. CSR 0x000 is the path's `fmt`, whose write is checked as `fmtset` checks it. -/
def Obligations.SpecialRegisterResults : Prop :=
  ∀ (s u : State) (c : Ctx),
    (∀ f : FmtI, ∀ n unit : Nat, n = f.imm.toNat % 4096 → c.csrUnit u n = some unit → c.on f.g = true →
      let free := fun (v : Word) => n ≠ 0 ∧ ¬ (n = 0x450 ∧ v.getLsbD 8 = true ∧ Nat.testBit (u.part unit).headMask (bits v 1 0) = false)
      (Ready s c none [.xd f.d] u → (csrReadLevel n).rank ≤ c.p.level.rank →
        exec (.csrr f) s = c.done ((u.landX c 4 (opIdx f.d) (c.csrValue u n unit)).advance c)) ∧
      (Ready s c none [.xs f.s1 24 1] u → (csrWriteLevel n).rank ≤ c.p.level.rank →
        (free (c.xv f.s1) → exec (.csrw f) s = c.done ((u.land c 2 (.csr n unit (c.xv f.s1))).advance c)) ∧
        (n = 0 → fmtBad ((c.xv f.s1).setWidth 32) = false →
          exec (.csrw f) s = c.done ((u.land c 2 (.fmt c.p.id ((c.xv f.s1).setWidth 32))).advance c))) ∧
      (Ready s c none [.xs f.s1 24 1, .xd f.d] u → (csrReadLevel n).rank ≤ c.p.level.rank →
        (csrWriteLevel n).rank ≤ c.p.level.rank →
        let old := c.csrValue u n unit
        (free (old ||| c.xv f.s1) → exec (.csrs f) s =
          c.done (((u.land c 2 (.csr n unit (old ||| c.xv f.s1))).landX c 4 (opIdx f.d) old).advance c)) ∧
        (n = 0 → fmtBad ((old ||| c.xv f.s1).setWidth 32) = false → exec (.csrs f) s =
          c.done (((u.land c 2 (.fmt c.p.id ((old ||| c.xv f.s1).setWidth 32))).landX c 4 (opIdx f.d) old).advance c)))) ∧
    (∀ f : FmtI, c.on f.g = false →
      (Ready s c none [.xd f.d] u → exec (.csrr f) s = c.done (u.advance c)) ∧
      (Ready s c none [.xs f.s1 24 1] u → exec (.csrw f) s = c.done (u.advance c)) ∧
      (Ready s c none [.xs f.s1 24 1, .xd f.d] u → exec (.csrs f) s = c.done (u.advance c)) ∧
      (Ready s c none [] u → exec (.rrbset f) s = c.done (u.advance c))) ∧
    (∀ f : FmtI, Ready s c none [] u → c.on f.g = true →
      exec (.rrbset f) s = c.done ((u.land c 1 (.rrb c.p.id (f.imm.toNat % 64))).advance c)) ∧
    (∀ f : FmtA, c.on f.g = true →
      (Ready s c none [.xs f.s1 24 1] u →
        exec (.dset f) s = c.done ((u.land c 2 (.d (opIdx f.d) ((c.xv f.s1).setWidth 16))).advance c) ∧
        (fmtBad ((c.xv f.s1).setWidth 32) = false →
          exec (.fmtset f) s = c.done ((u.land c 2 (.fmt c.p.id ((c.xv f.s1).setWidth 32))).advance c))) ∧
      (Ready s c none [.xs f.s1 24 1, .xs f.s2 16 1] u →
        let v := (c.p.fmt &&& ~~~(c.xv f.s2).setWidth 32) ||| ((c.xv f.s1).setWidth 32 &&& (c.xv f.s2).setWidth 32)
        (fmtBad v = false → exec (.fmtsetM f) s = c.done ((u.land c 2 (.fmt c.p.id v)).advance c)) ∧
        exec (.ipref f) s = c.done ((u.fillBlocks c f.md.toNat (min (c.xv f.s2).toNat 4096)
          (blockBase (c.xv f.s1)).toNat).advance c)) ∧
      (Issuing s c → exec (.yield f) s = c.done
        (((s.modCore c.core (fun k => { k with greedy := sput (0, 0, 0) k.greedy (pipeOf c.slot) (0, 0, 0) })).modCur c
          (fun p => { p with yielded := some c.vc })).advance c))) ∧
    (∀ f : FmtA, c.on f.g = false →
      (Ready s c none [.xs f.s1 24 1] u →
        exec (.dset f) s = c.done (u.advance c) ∧ exec (.fmtset f) s = c.done (u.advance c)) ∧
      (Ready s c none [.xs f.s1 24 1, .xs f.s2 16 1] u →
        exec (.fmtsetM f) s = c.done (u.advance c) ∧ exec (.ipref f) s = c.done (u.advance c)) ∧
      (Issuing s c → exec (.yield f) s = c.done (s.advance c))) ∧
    (∀ f : FmtA, Issuing s c → exec (.nop f) s = c.done (s.advance c))

/-- R20, R21, R25, R36, R76: the control transfers complete. A J-format target is the block base plus 64 × OFF; `brany` asks for the
guard in one active lane, `brall` in every active lane. -/
def Obligations.ControlTransferResults : Prop :=
  ∀ (s u : State) (c : Ctx),
    let base := c.p.pc &&& ~~~63
    let moved := fun (t : Word) (p : Path) => { p with pc := t, ready := c.vc + 3, buf := p.buf.map (fun b => match b with
      | (o, .pending l d _) => (o, .pending l d (o != t.toNat))
      | b => b) }
    let goes := fun (i : Instr) (w : State) (take : Prop) (target : Word) =>
      (take → target.toNat % 64 = 0 → target.toNat < c.p.csize →
        exec i s = c.done (w.modCur c (moved target))) ∧
      (¬ take → exec i s = c.done (u.advance c))
    (∀ f : FmtJ, let target := base + (f.off.signExtend 64 <<< 6)
      (Ready s c none [] u →
        goes (.br f) u True target ∧
        goes (.brany f) u (c.guard f.g ≠ 0) target ∧
        goes (.brall f) u (∀ l, c.p.mask.getLsbD l = true → (c.guard f.g).getLsbD l = true) target) ∧
      (Ready s c none [.xd 63] u →
        goes (.call f) (u.landX c 2 63 (base + 64)) (c.guard f.g ≠ 0) target)) ∧
    (∀ f : FmtA, Ready s c none [.xs f.s1 24 1] u →
      goes (.brx f) u (c.guard f.g ≠ 0) (base + c.xv f.s1) ∧
      goes (.jmpx f) u (c.guard f.g ≠ 0) (c.xv f.s1) ∧
      goes (.ret f) u (c.guard f.g ≠ 0) (c.xv f.s1))

/-- R70, R74 to R76, R393: `brc`, `rejoin` and `exit` complete. `Warp.split` pushes the reconvergence entry and makes the sides,
`State.syncStack` keeps the spilled entries in memory, `State.settle` fuses the entries that are covered, `State.exitLanes` ends lanes. -/
def Obligations.DivergenceResults : Prop :=
  ∀ (s : State) (c : Ctx), Issuing s c →
    (∀ f : FmtJ, let base := c.p.pc &&& ~~~63
      let target := base + (f.off.signExtend 64 <<< 6)
      c.w.stack.length < 64 → (c.guard f.g = 0 ∨ target.toNat < c.p.csize) →
        exec (.brc f) s = c.done ((s.modWarp c.core c.slot (fun w => w.split c.issuer (c.guard f.g) target c.vc)).syncStack
          c.core c.slot c.w.stack)) ∧
    (∀ f : FmtI,
      let entry := c.p.entry.bind (fun i => c.w.stack.find? (fun e => e.id == i))
      (entry = none → exec (.rejoin f) s = c.done (s.advance c)) ∧
      (∀ e, entry = some e → e.token = f.imm.toNat →
        let w := c.w.modPath c.p.id (fun _ => { c.issuer with wait := .rejoin e.token })
        exec (.rejoin f) s = c.done (((s.setWarp c.core c.slot { w with stack := w.stack.map (fun x =>
          if x.id = e.id then { x with arrived := x.arrived ||| c.p.mask } else x) }).syncStack c.core c.slot c.w.stack).settle
            c.core c.slot))) ∧
    (∀ f : FmtA,
      let slots := ((c.lastOf s (c.guard f.g)).map (·.slots)).getD []
      (∀ p ∈ s.ports, ∀ t ∈ p.2.txns, t.write = true → t.core = c.core → t.slot ∉ slots) →
      (∀ sl ∈ slots, s.linkError c.core sl = false) →
        exec (.exit f) s = c.done ((s.advance c).exitLanes c.core c.slot c.p.id (c.guard f.g)))

/-- R25, R76, R77, R331: `loop` and `trap` complete. The own effect of `trap` is the entry of software-trap. -/
def Obligations.LoopAndTrapResults : Prop :=
  ∀ (s : State) (c : Ctx), Issuing s c →
    (∀ f : FmtJ, let base := c.p.pc &&& ~~~63
      let target := base + (f.off.signExtend 64 <<< 6)
      let rrb := (c.p.rrb + 63) % 64
      let left := c.w.lc ≠ 0
      let counted := if left then s.land c 1 (.lc (c.w.lc - 1)) else if c.w.ec ≠ 0 then s.land c 1 (.ec (c.w.ec - 1)) else s
      let t := (counted.land c 1 (.rrb c.p.id rrb)).land c 1 (.p (physP rrb 8) c.p.mask (if left then BitVec.allOnes 64 else 0))
      let more := if left then 2 ≤ c.w.lc ∨ c.w.ec ≠ 0 else 2 ≤ c.w.ec
      let moved := fun (p : Path) => { p with pc := target, ready := c.vc + 3, buf := p.buf.map (fun b => match b with
        | (o, .pending l d _) => (o, .pending l d (o != target.toNat))
        | b => b) }
      (c.on f.g = false → exec (.loop f) s = c.done (s.advance c)) ∧
      (c.on f.g = true → ¬ more → exec (.loop f) s = c.done (t.advance c)) ∧
      (c.on f.g = true → more → target.toNat < c.p.csize → exec (.loop f) s = c.done (t.modCur c moved))) ∧
    (∀ f : FmtI,
      (c.on f.g = true → exec (.trap f) s = .next (s.takeTrap c 0x10 (f.imm.setWidth 64) none [])) ∧
      (c.on f.g = false → exec (.trap f) s = c.done (s.advance c)))

/-- R75, R80, R81, R83 to R85, R264, R274: the points of a team and of a group, `sleep` and `ident` complete. A path at a point
waits there; `State.settle` fuses the warp once every path has come and sets its arrival in motion. -/
def Obligations.TeamAndGroupResults : Prop :=
  ∀ (s u : State) (c : Ctx),
    let waits := fun (w : State) =>
      c.done ((w.modCur c (fun _ => { c.issuer with wait := .point (c.word.toNat % 2 ^ 48) })).settle c.core c.slot)
    (∀ f : FmtA, Issuing s c →
      (c.on f.g = true → exec (.bar f) s = waits s) ∧
      (c.on f.g = false → exec (.bar f) s = c.done (s.advance c)) ∧
      ((c.on f.g = false ∨ sigOf f.s3 = 15 ∨ c.w.fr (sigOf f.s3) < 63) → exec (.phase f) s = waits s)) ∧
    (∀ f : FmtI, Issuing s c →
      (c.on f.g = true → ∀ t l, s.teamOf c.w = some t → s.launch c.w.handle = some l → f.imm.toNat ≤ 256 →
        l.member f.imm.toNat t.idx = true → exec (.gbar f) s = waits s ∧ exec (.sstep f) s = waits s) ∧
      (c.on f.g = false → exec (.gbar f) s = c.done (s.advance c) ∧ exec (.sstep f) s = c.done (s.advance c)) ∧
      (c.on f.g = true →
        exec (.sleep f) s = c.done ((s.advance c).park c (.sleep (c.vc + 64 * f.imm.toNat + 1)))) ∧
      (c.on f.g = false → exec (.sleep f) s = c.done (s.advance c))) ∧
    (∀ f : FmtA, Ready s c none [.xs f.s1 24 1, .xs f.s2 16 1, .xd f.d] u →
      (c.on f.g = true → ∀ t l, u.teamOf c.w = some t → u.launch c.w.handle = some l → (c.xv f.s2).toNat ≤ 256 →
        l.member (c.xv f.s2).toNat t.idx = true → exec (.gred f) s = waits u) ∧
      (c.on f.g = false → exec (.gred f) s = c.done (u.advance c))) ∧
    (∀ f : FmtA, f.md ≠ 6 → Ready s c none [.xd f.d] u →
      exec (.ident f) s = c.done (c.scalar u f.g 2 f.d (BitVec.ofNat 64 (c.identValue u f.md.toNat)))) ∧
    (∀ f : FmtA, f.md = 6 → Ready s c none [.vd f.d 1] u →
      (c.on f.g = true → exec (.ident f) s = c.done (c.lanes u c.p.mask 2 f.d (fun l => BitVec.ofNat 32 l))) ∧
      (c.on f.g = false → exec (.ident f) s = c.done (u.advance c)))

/-- R288, R304, R305: `lease`, `lease.meas`, `tleft`, `clkreq` and `clkreq.arm` complete. -/
def Obligations.LeaseAndClockResults : Prop :=
  ∀ (s u : State) (c : Ctx),
    (∀ f : FmtI, Ready s c none [] u →
      (c.on f.g = true →
        exec (.lease f) s = c.done ((u.modWarp c.core c.slot (fun w =>
          { w with units := f.imm.toNat % 256, decl := true, fix := f.imm.getLsbD 8, measSkip := false })).advance c) ∧
        exec (.leaseMeas f) s = c.done ((u.modWarp c.core c.slot (fun w =>
          { w with decl := false, fix := false, measSkip := true })).advance c)) ∧
      (c.on f.g = false → exec (.lease f) s = c.done (u.advance c) ∧ exec (.leaseMeas f) s = c.done (u.advance c))) ∧
    (∀ f : FmtA, Ready s c none [.xs f.s1 24 1] u →
      (c.on f.g = true → exec (.tleft f) s = c.done ((u.land c 2 (.csr 0x00A (32 * c.core + c.slot)
        (BitVec.ofNat 64 (min (c.xv f.s1).toNat (2 ^ 32 - 1))))).advance c)) ∧
      (c.on f.g = false → exec (.tleft f) s = c.done (u.advance c))) ∧
    (∀ f : FmtA, Ready s c none [.xs f.s1 24 1, .xs f.s2 16 1] u →
      (c.on f.g = true → exec (.clkreq f) s = c.done ((((u.clearEvt c).modLaunch c.w.handle (fun l =>
        { l with ocstep := bits (c.xv f.s1) 15 0, ocwt := bits (c.xv f.s2) 15 0 })).soon
          [{ step := .arbiterRun, a := 0 }, { step := .arbiterRun, a := 1 }]).advance c)) ∧
      (c.on f.g = false → exec (.clkreq f) s = c.done (u.advance c))) ∧
    (∀ f : FmtA, Ready s c none [] u →
      (c.on f.g = true → ∀ l, u.launch c.w.handle = some l →
        (l.rsig = 15 → exec (.clkreqArm f) s = c.done (((u.modWarp c.core c.slot id).clearEvt c).advance c)) ∧
        (∀ n, l.rsig ≠ 15 → (u.warp c.core c.slot).fr l.rsig = n → n < 63 →
          exec (.clkreqArm f) s = c.done ((((u.modWarp c.core c.slot (fun w => w.fw l.rsig (n + 1))).modWarp c.core c.slot
            (fun w => { w with arms := w.arms + 1 })).clearEvt c).advance c))) ∧
      (c.on f.g = false → exec (.clkreqArm f) s = c.done (u.advance c)))

/-- R232, R233, R234, R265, R267: the loads complete. The effective address of lane l is B + sext(OFF) × w, plus l × w (unit stride) or plus
l times the register after B (strided), or the lane's own 64-bit base (gather). A load issued again after a lane fault
(`replay`, R338) takes only its failed lanes and does not ask its own destination to be full. The coalescer's requests go out two a vc (log 60). -/
def Obligations.LoadResults : Prop :=
  ∀ (s u v : State) (c : Ctx) (f : FmtM) (r : Located),
    let again := match c.p.replay with
      | some (pc, m, d) => if pc = c.p.pc then some (m, d) else none
      | none => none
    let k : Ctx := match again with | some (_, d) => { c with w := c.w.full d } | none => c
    let w := widBytes f.wid.toNat
    let disp := f.off.signExtend 64 * BitVec.ofNat 64 w
    let acq := decide (f.ord.toNat = 1 ∧ 3 ≤ f.scope.toNat)
    let loads := fun (i : Instr) (vec : Option Mask) (own : List Nat) (ea : Nat → Word) (ops : List Opnd) (dop : Opnd)
        (dest : Dest) =>
      let lanes := match again with | some (m, _) => lanesOf m | none => own
      let es := lanes.map (fun l => (l, ea l))
      Issuing s c → k.begin s vec (ops ++ (if again.isSome then [] else [dop])) = .ok u →
      (lanes = [] → exec i s = c.done (u.advance k)) ∧
      (lanes ≠ [] → (∀ q ∈ es, q.2.toNat % w = 0) → (u.core c.core).bstage = .idle →
        u.locateLanes c.core 0 (k.acc u f.dom.toNat) 0 es = (r, v) → r.miss = false → r.bad = [] →
        v.flefinRoom (r.ok.map (fun q => (q.pa, w))) = true → (v.core c.core).coal < 2 * c.vc + 2 →
        let last := max (v.core c.core).coal (2 * c.vc) + requests r.ok
        let v0 := v.modCore c.core (fun k => { k with coal := last })
        let ll := r.ok.map ((v0.core c.core).laneLoad w acq)
        let held := (ll.filter (fun q => !isWindow q.pa)).flatMap
          (fun q => ((List.range w).filter (fun i => (q.got.getD i none).isSome)).map (fun i => q.pa + i))
        let lines := dedup ((ll.filter (fun q => !isWindow q.pa)).map (fun q => lineOf q.pa))
        let v1 := if acq then v0 else v0.l1Access c.core c.slot (lines.map (fun n =>
          (n, ll.any (fun q => lineOf q.pa == n && q.got.any (fun b => b.isNone)))))
        let t := (((((v1.modCore c.core (fun k => k.l1Seen held)).startLong k dest (maskOf (r.ok.map (fun q => q.lane)))
          (.load f.wid.toNat ll acq) (c.w.dr f.dom.toNat).toNat ((last - 1) / 2 - c.vc)).sendReads c.core c.slot (v1.core c.core).nextId w ll).modCur k
            (fun p => { p with replay := none })).advance k)
        exec i s = c.done (if acq then t.park k (.op (v.core c.core).nextId .mem) else t))
    let pair := decide (f.wid = 5)
    let vdst : Opnd := .vd f.t (if f.wid = 5 then 2 else 1)
    loads (.ld f) none (if c.on f.g then [lowestLane c.p.mask] else []) (fun _ => c.xv f.b + disp) [.xs f.b 24 1] (.xd f.t)
      (if opIdx f.t = 0 then .none else .x (opIdx f.t)) ∧
    loads (.vld f) (some (c.guard f.g)) (lanesOf (c.guard f.g)) (fun l => c.xv f.b + disp + BitVec.ofNat 64 (l * w))
      [.xs f.b 24 1] vdst (.v (c.dregs f.t pair)) ∧
    loads (.vldg f) (some (c.guard f.g)) (lanesOf (c.guard f.g)) (fun l => c.vv2 f.b l + disp) [.vs f.b 24 2 3] vdst
      (.v (c.dregs f.t pair)) ∧
    loads (.vlds f) (some (c.guard f.g)) (lanesOf (c.guard f.g))
      (fun l => c.xv f.b + disp + BitVec.ofNat 64 l * c.w.xr (opIdx f.b + 1)) [.xs f.b 24 2] vdst (.v (c.dregs f.t pair))

/-- R232 to R235, R266: the stores complete. Lane addresses are those of the loads. The data of a lane is its register, for the vector
forms with WID 5 its register pair; the low w bytes are stored, a higher lane prevailing where lanes overlap. -/
def Obligations.StoreResults : Prop :=
  ∀ (s u u1 v : State) (c : Ctx) (f : FmtM) (r : Located),
    let w := widBytes f.wid.toNat
    let disp := f.off.signExtend 64 * BitVec.ofNat 64 w
    let rel := decide (f.ord.toNat = 2 ∧ 3 ≤ f.scope.toNat)
    let stores := fun (i : Instr) (vec : Option Mask) (lanes : List Nat) (ea : Nat → Word) (ops : List Opnd) (data : Nat → Word) =>
      let es := lanes.map (fun l => (l, ea l))
      Issuing s c → c.begin s vec ops = .ok u →
      (lanes = [] → exec i s = c.done (u.advance c)) ∧
      (lanes ≠ [] → (∀ q ∈ es, q.2.toNat % w = 0) → (u.core c.core).bstage = .idle →
        (if rel then c.releaseReady u (decide (f.scope = 5)) else .ok u) = .ok u1 →
        u1.locateLanes c.core 0 (c.acc u1 f.dom.toNat) 1 es = (r, v) → r.miss = false → r.bad = [] →
        v.flefinRoom (r.ok.map (fun q => (q.pa, w))) = true → (v.core c.core).coal < 2 * c.vc + 2 →
        let v0 := v.modCore c.core (fun k => { k with coal := max k.coal (2 * c.vc) + requests r.ok })
        let l := r.ok.map (fun q => (q, data q.lane))
        (∃ t, v.issueStore c w rel l = .ok t ∧ exec i s = c.done t) ∧
        (rel = false → (∀ q ∈ r.ok, isWindow q.pa = false) →
          exec i s = c.done ((((v0.l1Store c.core c.slot (storeBytes w (l.filter (fun q => !q.1.cmp))) false).l1Store c.core c.slot
            (storeBytes w (l.filter (fun q => q.1.cmp))) true)).advance c)))
    let vdata := fun (l : Nat) => if f.wid = 5 then c.vv2 f.t l else (c.vv f.t l).setWidth 64
    let vsrc : Opnd := .vs f.t 32 (if f.wid = 5 then 2 else 1) (if f.wid.toNat ≤ 3 then 1 else 3)
    stores (.st f) none (if c.on f.g then [lowestLane c.p.mask] else []) (fun _ => c.xv f.b + disp) [.xs f.b 24 1, .xs f.t 32 1]
      (fun _ => c.xv f.t) ∧
    stores (.vst f) (some (c.guard f.g)) (lanesOf (c.guard f.g)) (fun l => c.xv f.b + disp + BitVec.ofNat 64 (l * w))
      [.xs f.b 24 1, vsrc] vdata ∧
    stores (.vstg f) (some (c.guard f.g)) (lanesOf (c.guard f.g)) (fun l => c.vv2 f.b l + disp) [.vs f.b 24 2 3, vsrc] vdata ∧
    stores (.vsts f) (some (c.guard f.g)) (lanesOf (c.guard f.g))
      (fun l => c.xv f.b + disp + BitVec.ofNat 64 l * c.w.xr (opIdx f.b + 1)) [.xs f.b 24 2, vsrc] vdata

/-- R237, R268, R275 to R277: prefetches, fences and waits on memory complete. `u` is the state once the operands are taken. That a wait at
a link is read again every 256 nc is the model's choice (log 61). -/
def Obligations.OrderingResults : Prop :=
  ∀ (s u : State) (c : Ctx),
    (∀ f : FmtM, Ready s c none [.xs f.b 24 1] u →
      let at_ := u.prefetchAt (c.acc u f.dom.toNat) (c.xv f.b + f.off.signExtend 64)
      (c.on f.g = false ∨ at_ = none → exec (.dprf f) s = c.done (u.advance c)) ∧
      (∀ pa cmp, c.on f.g = true → at_ = some (pa, cmp) →
        let vf := (c.acc u f.dom.toNat).vf
        let t := u.scRead (lineOf pa) (if c.svc then 0 else teamClass vf) (if c.svc then none else some vf) cmp
        let t1 := if ((t.core c.core).l1Line (lineOf pa)).isNone then t.l1Miss c.core c.slot (lineOf pa) else t
        exec (.dprf f) s = c.done ((if f.wid = 0 then t1.modCore c.core (fun k =>
          { k with reqs := k.reqs ++ [{ line := lineOf pa, slot := c.slot, cmp := cmp }] }) else t).advance c))) ∧
    (∀ f : FmtM, Issuing s c →
      (c.on f.g = false ∨ f.scope.toNat < 3 → exec (.fence f) s = c.done (s.advance c)) ∧
      (c.on f.g = true → 3 ≤ f.scope.toNat → (s.core c.core).bstage = .idle →
        (f.ord = 1 → exec (.fence f) s = c.done ((s.modCore c.core (fun k => k.dropClean (fun _ => true))).advance c)) ∧
        (f.ord ≠ 1 → c.releaseReady s (decide (f.scope = 5)) = .ok u →
          let t := (u.writeBack c.core (fun _ => true)).2
          let ids := (t.core c.core).wbIds
          exec (.fence f) s = c.done (if ids.isEmpty then
              (if f.ord = 2 then t else t.modCore c.core (fun k => k.dropClean (fun _ => true))).advance c
            else (t.advance c).park c (.order ids (decide (f.ord ≠ 2)) false))))) ∧
    (∀ f : FmtM, Ready s c none [.xs f.b 24 1, .xs f.t 32 2] u →
      let w := widBytes f.wid.toNat
      let off := c.xv f.b + f.off.signExtend 64 * BitVec.ofNat 64 w
      let code := (c.w.xr (opIdx f.t + 1)).toNat
      let home := decide (3 ≤ f.scope.toNat)
      let acq := decide (f.ord = 1)
      (c.on f.g = false → exec (.mwait f) s = c.done (u.advance c)) ∧
      (∀ (r : Located) (v : State) (q : LaneAt) (l : List LaneAt), c.on f.g = true → off.toNat % w = 0 → code < 8 → (u.core c.core).bstage = .idle →
        u.locateLanes c.core 0 (c.acc u f.dom.toNat) 0 [(lowestLane c.p.mask, off)] = (r, v) → r.miss = false → r.ok = q :: l →
        let m : MWait := { pa := q.pa, cmp := q.cmp, w := w, cond := code, val := c.xv f.t, acq := acq, home := home }
        (isWindow q.pa = false → (v.core c.core).atomicOn (lineOf q.pa) (v.core c.core).nextId = false → v.mwaitBad c.core m = false →
          let o := v.mwaitRead c.core c.slot m
          (m.met o.1 = true → exec (.mwait f) s = c.done (o.2.mwaitEnd c.core c.slot c.p.id m)) ∧
          let poll := if home && decide (4096 ≤ o.2.monitorsHeld (o.2.homeDie q.pa)) then some (o.2.pollAt c.core o.2.pkg.now) else none
          (m.met o.1 = false → exec (.mwait f) s = c.done (o.2.park c (.mwait { m with poll := poll })))) ∧
        (isFlefin q.pa = true → isWindow q.pa = true → v.flefinRoom [(q.pa, w)] = true →
          let lane := lowestLane c.p.mask
          let id := (v.core c.core).nextId
          let x : LaneLoad := { lane := lane, off := off, pa := q.pa, got := List.replicate w none }
          exec (.mwait f) s = c.done (((v.startLong c .none (laneBit lane) (.load f.wid.toNat [x] false)).sendReads c.core c.slot id w
            [x]).park c (.mwait { m with op := some id }))) ∧
        (isFlefin q.pa = false → isWindow q.pa = true →
          let o := v.pcieRead w
          exec (.mwait f) s = c.done (if m.met (BitVec.ofNat 64 (ofBytes o.1)) then o.2.mwaitEnd c.core c.slot c.p.id m
            else o.2.park c (.mwait { m with poll := some (o.2.pollAt c.core o.2.pkg.now) })))))

/-- R177, R179, R182, R188, R189, R191, R193, R194: the local stores' instructions complete. `t` is the issuing warp's team. -/
def Obligations.LocalStoreResults : Prop :=
  ∀ (s u : State) (c : Ctx) (t : Team), u.teamOf c.w = some t →
    (∀ f : FmtM,
      let m := c.guard f.g
      let w := widBytes f.wid.toNat
      let a := c.xv f.b + f.off.signExtend 64 * BitVec.ofNat 64 w
      let at_ := fun (l : Nat) => t.spPhys c.p.level (a.toNat + w * l) w
      let lanes := (lanesOf m).map (fun l => (l, (at_ l).getD 0))
      let addrs := lanes.map (fun q => q.2)
      let pair := decide (f.wid = 5)
      let dst : Dest := .v (c.dregs f.t pair)
      let data := fun (l : Nat) => if f.wid = 5 then c.vv2 f.t l else (c.vv f.t l).setWidth 64
      (Ready s c (some m) [.xs f.b 24 1, .vd f.t (if f.wid = 5 then 2 else 1)] u →
        (m = 0 → exec (.spld f) s = c.done (u.advance c) ∧ exec (.ldl f) s = c.done (u.advance c)) ∧
        (m ≠ 0 → a.toNat % w = 0 → (∀ l ∈ lanesOf m, (at_ l).isSome = true) →
          let v := (u.modCore c.core (fun k => k.spSeen addrs w)).laneAccess c (spBanks addrs w) 1
          exec (.spld f) s = c.done ((v.startLong c dst m
            (spPending f.wid.toNat t.base dst lanes ((u.core c.core).spRead f.wid.toNat lanes)) (delay := v.bankDelay c)).advance c)) ∧
        (m ≠ 0 → a.toNat % w = 0 → loamIn a.toNat (w * (lanesOf m).foldl max 0 + w) = true →
          (∀ l ∈ lanesOf m, u.loamReadable t (a.toNat + w * l) = true) →
          let l := (lanesOf m).map (fun i => (i, a.toNat + w * i))
          let wait := l.foldl (fun n q => max n (u.refreshWait q.2)) 0
          let v := if wait = 0 then u else u.modCore c.core (fun k => k.loamStall wait)
          exec (.ldl f) s = c.done ((v.startLong c dst m (.loam f.wid.toNat l (v.pkg.now + wait * refUnit))).advance c))) ∧
      (Ready s c (some m) [.xs f.b 24 1, .vs f.t 32 (if f.wid = 5 then 2 else 1) (if f.wid.toNat ≤ 3 then 1 else 3)] u →
        (m = 0 → exec (.spst f) s = c.done (u.advance c)) ∧
        (m ≠ 0 → a.toNat % w = 0 → (∀ l ∈ lanesOf m, (at_ l).isSome = true) →
          exec (.spst f) s = c.done (((u.modCore c.core (fun k => k.putSp (lanes.flatMap (fun q =>
            (leBytes (data q.1).toNat w).zipIdx.map (fun b => (q.2 + b.2, b.1)))))).laneAccess c (spBanks addrs w) 1).advance c)))) ∧
    (∀ f : FmtA, Ready s c none [.xs f.s1 24 1, .xs f.s2 16 1] u →
      let a := c.xv f.s1
      let n := c.xv f.s2
      (c.on f.g = false ∨ n = 0 → exec (.spzero f) s = c.done (u.advance c)) ∧
      (c.on f.g = true → n ≠ 0 → a.toNat % 32 = 0 → n.toNat % 32 = 0 → a.toNat + n.toNat ≤ t.spb →
        exec (.spzero f) s = c.done (((u.modCore c.core (fun k =>
          { k with spad := sfilter (fun b => decide (b < t.base + a.toNat ∨ t.base + a.toNat + n.toNat ≤ b)) k.spad,
                   spoison := clearWords k.spoison (t.base + a.toNat) n.toNat,
                   ssingle := clearWords k.ssingle (t.base + a.toNat) n.toNat })).laneAccess c (2 ^ 64 - 1) (cdiv n.toNat 2048)).advance c)))

/-- R232, R238 to R240, R266, R267: the atomics complete. A 4-byte atomic takes the low 32 bits of its operands, zero-extended; `a` is the
operand (for a compare-and-swap the compare value), `b` the new value of a compare-and-swap. -/
def Obligations.AtomicResults : Prop :=
  ∀ (s u u1 v : State) (c : Ctx) (f : FmtN) (r : Located),
    let wide := decide (8 ≤ f.aop.toNat)
    let w := if 8 ≤ f.aop.toNat then 8 else 4
    let near := decide (f.scope.toNat < 3)
    let atomics := fun (i : Instr) (vec : Option Mask) (own : List Nat) (cas : Bool) (ea a b : Nat → Word) (ops : List Opnd)
        (dest : Dest) =>
      let es := own.map (fun l => (l, ea l))
      let cut := fun (x : Word) => if w = 8 then x else (x.setWidth 32).setWidth 64
      Issuing s c → c.begin s vec ops = .ok u →
      (own = [] → exec i s = c.done (u.advance c)) ∧
      (own ≠ [] → (∀ q ∈ es, q.2.toNat % w = 0) → (u.core c.core).bstage = .idle →
        (if 2 ≤ f.ord.toNat ∧ 3 ≤ f.scope.toNat then c.releaseReady u (decide (f.scope = 5)) else .ok u) = .ok u1 →
        u1.locateLanes c.core 0 (c.acc u1 f.dom.toNat) 2 es = (r, v) → r.miss = false → r.bad = [] →
        (∀ q ∈ r.ok, (!isWindow q.pa && (if near && ((v.core c.core).l1Byte q.pa).isSome then (v.core c.core).l1Bad q.pa
          else v.homeBad q.pa q.cmp)) = false) →
        v.flefinRoom (r.ok.map (fun q => (q.pa, 64))) = true → (v.core c.core).coal < 2 * c.vc + 2 →
        (near = true → ∀ q ∈ r.ok, (v.core c.core).atomicOn (lineOf q.pa) (v.core c.core).nextId = false) →
        let last := max (v.core c.core).coal (2 * c.vc) + requests (r.ok.map (fun q => { q with off := 0 }))
        let v0 := v.modCore c.core (fun k => { k with coal := last })
        let l : List AtomLane := r.ok.map (fun q => { lane := q.lane, pa := q.pa, cmp := q.cmp, a := cut (a q.lane), b := cut (b q.lane) })
        (∃ t, v.issueAtomic c f dest cas l = .ok t ∧ exec i s = c.done t) ∧
        (near = true → (∀ q ∈ r.ok, isWindow q.pa = false) →
          let o := v0.atomLanes c.core c.slot true (f.aop.toNat % 8) wide cas l
          exec i s = c.done ((o.2.startLong c dest (maskOf (l.map (fun q => q.lane))) (.done (destWrites dest o.1) 0)
            (delay := (last - 1) / 2 - c.vc)).advance c)))
    let g := c.guardN f.g
    let one := if c.onN f.g then [lowestLane c.p.mask] else []
    let n := if wide then 2 else 1
    let xdst : Dest := if opIdx f.d = 0 then .none else .x (opIdx f.d)
    let vdst : Dest := .v (c.dregs f.d wide)
    let val := fun (k : Nat) (l : Nat) =>
      if wide then c.vv2 (f.s + BitVec.ofNat 8 (2 * k)) l else (c.vv (f.s + BitVec.ofNat 8 k) l).setWidth 64
    atomics (.atom f) none one false (fun _ => c.xv f.b) (fun _ => c.xv f.s) (fun _ => 0) [.xs f.b 24 1, .xs f.s 16 1, .xd f.d] xdst ∧
    atomics (.vatom f) (some g) (lanesOf g) false (c.vv2 f.b) (val 0) (fun _ => 0) [.vs f.b 24 2 3, .vs f.s 16 n 3, .vd f.d n] vdst ∧
    atomics (.cas f) none one true (fun _ => c.xv f.b) (fun _ => c.xv f.s) (fun _ => c.w.xr (opIdx f.s + 1))
      [.xs f.b 24 1, .xs f.s 16 2, .xd f.d] xdst ∧
    atomics (.vcas f) (some g) (lanesOf g) true (c.vv2 f.b) (val 0) (val 1)
      [.vs f.b 24 2 3, .vs f.s 16 (if wide then 4 else 2) 3, .vd f.d n] vdst

/-- R44 to R46, R69, R97 to R100, R247, R248, R255, R271, R272: the queue instructions complete. -/
def Obligations.QueueResults : Prop :=
  ∀ (s u : State) (c : Ctx) (f : FmtA),
    let k := u.core c.core
    let part := k.cmds.find? (fun x => x.eng == 1 && x.slot == c.slot && x.stage == .partly)
    let q := opIdx f.s1
    (Ready s c none [.xs f.s1 24 1] u →
      (c.on f.g = false → exec (.qpush f) s = c.done (u.advance c) ∧ exec (.cpy f) s = c.done (u.advance c) ∧
        exec (.cpyz f) s = c.done (u.advance c) ∧ exec (.wdq f) s = c.done (u.advance c)) ∧
      (c.on f.g = true → k.queued 2 < 64 →
        let w := c.xv f.s1
        (part = none → badHeader w = false → k.cmds.length < 512 → c.flagRoom u (ewSig w) = true →
          let cmd := c.newCmd 1 (ewSig w) (.copy [w] ((List.range 8).map (fun i => (c.w.dr i).toNat)))
          exec (.qpush f) s = c.done (((c.flagged u (ewSig w)).addCmd c.core
            { cmd with stage := .partly, wait := ewWait w, once := ewOnce w }).advance c)) ∧
        (∀ x h l, part = some x → x.words = h :: l → (l = [] → bit w 6 = true → k.popUsed 3 < 64) →
          let whole := decide ((l ++ [w]).length = ewNarg h)
          let t := u.modCmd c.core x.seq (fun y => { y with
            pay := (match y.pay with | .copy _ d => .copy (x.words ++ [w]) d | p => p),
            rec_ := if l = [] then bit w 6 else y.rec_, comm := if l = [] then bit w 7 else y.comm,
            stage := if whole then .queued else .partly })
          exec (.qpush f) s = c.done ((if whole then t.modCore c.core (fun k => k.cmdLast x.seq) else t).advance c))) ∧
      (∀ (i : Instr) (ops : List Nat), (i, ops) ∈ [(Instr.cpy f, [0x01, 0x02, 0x03]), (.cpyz f, [0x10, 0x11])] →
        c.on f.g = true → badHeader (c.xv f.s1) = false → ewOp (c.xv f.s1) ∈ ops → opIdx f.s1 + ewNarg (c.xv f.s1) ≤ 63 →
        ∀ v t, c.begin u none [.xs f.s1 24 (ewNarg (c.xv f.s1) + 1)] = .ok v →
        c.pushWords none v ((List.range (ewNarg (c.xv f.s1) + 1)).map (fun j => c.w.xr (opIdx f.s1 + j))) = .ok t →
        exec i s = c.done (t.advance c)) ∧
      (∀ t : Team, c.on f.g = true → u.teamOf c.w = some t → (c.xv f.s1).toNat % 8 = 0 → (c.xv f.s1).toNat + 8 ≤ t.spb →
        k.queued 6 < 16 → k.cmds.length < 512 → c.flagRoom u (sigOf f.s3) = true →
        exec (.wdq f) s = c.done (((c.flagged u (sigOf f.s3)).addCmd c.core
          (c.newCmd 3 (sigOf f.s3) (.query (c.xv f.s1).toNat))).advance c))) ∧
    (Ready s c (some (c.guard f.g)) [.vs f.s1 24 2 3] u → ∀ t,
      c.pushWords (some (c.guard f.g)) u ((lanesOf (c.guard f.g)).map (fun l => c.vv2 f.s1 l)) = .ok t →
      exec (.qpushv f) s = c.done (t.advance c)) ∧
    (Ready s c none [.xd f.d] u →
      (c.on f.g = false → exec (.qpop f) s = c.done (u.advance c) ∧ exec (.qpeek f) s = c.done (u.advance c)) ∧
      (c.on f.g = true →
        (∀ r l, k.popsOf q c.slot = r :: l →
          let t := u.modCore c.core (fun k => k.pop q c.slot 1)
          exec (.qpop f) s = c.done ((if opIdx f.d = 0 then t else t.startLong c (.x (opIdx f.d)) (laneBit (lowestLane c.p.mask))
            (.done [.x (opIdx f.d) r.word] 0)).advance c)) ∧
        exec (.qpeek f) s = c.done ((u.landX c 4 (opIdx f.d)
          (BitVec.ofNat 64 (if q = 2 then 64 - k.queued 2 else (k.popsOf q c.slot).length))).advance c))) ∧
    (Ready s c (some (c.guard f.g)) [.vd f.d 2] u →
      let n := (lanesOf (c.guard f.g)).length
      (n = 0 → exec (.qpopv f) s = c.done (u.advance c)) ∧
      (n ≠ 0 → n ≤ (k.popsOf q c.slot).length →
        let regs := c.dregs f.d true
        exec (.qpopv f) s = c.done (((u.modCore c.core (fun k => k.pop q c.slot n)).startLong c (.v regs) (c.guard f.g)
          (.done (laneWrites regs ((lanesOf (c.guard f.g)).zip (((k.popsOf q c.slot).take n).map (fun r => r.word.toNat)))) 0)).advance c))) ∧
    (∀ fi : FmtI, Ready s c none [] u →
      let qs := idxs 4 (fun i => fi.imm.getLsbD i)
      (c.on fi.g = false → exec (.mfence fi) s = c.done (u.advance c)) ∧
      (c.on fi.g = true → (∀ b ∈ qs, k.queued (2 * b) < queueCap (2 * b)) →
        exec (.mfence fi) s = c.done ((u.modCore c.core (fun k => qs.foldl (fun k b => k.pushMarker c.slot b) k)).advance c))) ∧
    (Ready s c none [] u →
      let mine := k.markers.filter (fun m => m.slot == c.slot)
      (c.on f.g = false → exec (.mjoin f) s = c.done (u.advance c)) ∧
      (c.on f.g = true → (∀ m ∈ mine, m.arrived = true) →
        exec (.mjoin f) s = c.done ((((mine.flatMap (fun m => m.covers)).foldl
          (fun s q => s.modCmd c.core q (fun x => { x with mark := true })) u).modCore c.core
            (fun k => { k with markers := k.markers.filter (fun m => m.slot != c.slot) })).advance c)))

/-- R203 to R205, R207, R212 to R219: the matrix instructions complete. -/
def Obligations.MatrixResults : Prop :=
  ∀ (s u : State) (c : Ctx) (t : Team),
    let pr := c.core / 2
    (∀ f : FmtI, Ready s c none [.xs f.s1 24 1] u →
      (c.on f.g = false → exec (.mcfg f) s = c.done (u.advance c)) ∧
      (c.on f.g = true → c.MayUseTile u t true false 0 →
        exec (.mcfg f) s = c.done ((u.land c 2 (.mp (f.d.toNat % 8) (c.xv f.s1 + f.imm.signExtend 64))).advance c))) ∧
    (∀ f : FmtA,
      let n := opIdx f.s1 % 8
      let nd := opIdx f.d % 8
      (Ready s c none [.xs f.s2 16 1] u →
        (c.on f.g = false → exec (.tgive f) s = c.done (u.advance c)) ∧
        (c.on f.g = true → c.MayUseTile u t false true n →
          (c.xv f.s2 = BitVec.allOnes 64 → exec (.tgive f) s = c.done ((u.setToken pr n .free).advance c)) ∧
          (∀ t2 : Team, c.xv f.s2 &&& ~~~0x10F = 0 → bits (c.xv f.s2) 3 0 < t.wpt →
            let h := if bit (c.xv f.s2) 8 then 1 - c.half else c.half
            (if h = c.half then some t else u.team t.handle (if c.half = 0 then t.idx + 1 else t.idx - 1)) = some t2 →
            t2.ended.contains (bits (c.xv f.s2) 3 0) = false →
            exec (.tgive f) s = c.done (((u.modPair pr (fun p => { p with
              waiters := p.waiters.filter (fun q => !(q.1 == n && q.2.1 == h && q.2.2.1 == bits (c.xv f.s2) 3 0)) })).setToken pr n
                (.held h (bits (c.xv f.s2) 3 0))).advance c)))) ∧
      (Ready s c none [] u →
        (c.on f.g = false → exec (.ttake f) s = c.done (u.advance c)) ∧
        (c.on f.g = true → c.MayUseTile u t false false nd →
          let me := fun (q : Nat × Nat × Nat × Nat) => q.1 == nd && q.2.1 == c.half && q.2.2.1 == c.w.widx
          (c.holds u nd = true → exec (.ttake f) s = c.done (u.advance c)) ∧
          (c.holds u nd = false → sget .free (u.pair pr).tokens nd = .free →
            ((u.pair pr).waiters.filter (fun q => q.1 == nd)).head?.all me = true →
            exec (.ttake f) s = c.done (((u.modPair pr (fun p => { p with waiters := p.waiters.filter (fun q => !me q) })).setToken
              pr nd (.held c.half c.w.widx)).advance c)))) ∧
      (let m := c.guard f.g
       let lanes := if m = 0 then none else some m
       (Ready s c lanes [.xs f.s2 16 1, .vd f.d 2] u → c.MayUseTile u t false true n → (c.xv f.s2).toNat ≤ 63 →
          exec (.trow f) s = c.done (((u.startLong c (.v (c.dregs f.d true)) m (.tile (pr * 512 + n * 64 + (c.xv f.s2).toNat))).enterTile
            pr n (.trow c.core (u.core c.core).nextId (c.xv f.s2).toNat)).advance c)) ∧
       (Ready s c lanes [.xs f.s1 24 1, .vs f.s2 16 2 3] u → c.MayUseTile u t false true nd → (c.xv f.s1).toNat ≤ 63 →
          exec (.twrow f) s = c.done ((u.enterTile pr nd (.twrow c.half (c.xv f.s1).toNat
            ((lanesOf m).map (fun i => (i, c.vv f.s2 i, c.w.vr (c.phys (opIdx f.s2 + 1)) i))))).advance c))) ∧
      (let md := f.md.toNat
       let sig := f.s3.toNat % 16
       let s1 := c.regs3 f.s1 3
       let s2 := c.regs3 f.s2 3
       let rows := if bits (c.w.mpr 6) 2 0 = 3 then 3 else 2
       let zero := c.capture 0 nd 0 [] []
       let push := fun (i : Instr) (ops : List Opnd) (token : Bool) (m : MatCmd) (check : Try Unit) =>
         Ready s c none ops u →
         (c.on f.g = false → exec i s = c.done (u.advance c)) ∧
         (c.on f.g = true → c.MayUseTile u t true token (if token then nd else 0) → check = .ok () → c.matrixRoom u m sig = true →
           exec i s = c.done ((c.matrixPushed u m sig).advance c))
       push (.mzero f) [] true zero (mp0Check zero) ∧
       push (.mmul f) [.xs f.s1 24 3, .xs f.s2 16 3] true (c.capture 1 nd md s1 s2) ((c.capture 1 nd md s1 s2).productCheck t) ∧
       push (.mmull f) [.xs f.s1 24 3] true (c.capture 2 nd md s1 []) ((c.capture 2 nd md s1 []).productCheck t) ∧
       push (.mmulm f) [.xs f.s2 16 3] true (c.capture 3 nd md [] s2) ((c.capture 3 nd md [] s2).productCheck t) ∧
       push (.mplane f) [.xs f.s1 24 3, .xs f.s2 16 2] false (c.capture 4 0 md s1 (c.regs3 f.s2 2))
         ((c.capture 4 0 md s1 (c.regs3 f.s2 2)).planeCheck t) ∧
       (opIdx f.s1 + rows ≤ 64 → push (.mout f) [.xs f.s1 24 rows] true (c.capture 5 nd 0 (c.regs3 f.s1 rows) [])
         ((c.capture 5 nd 0 (c.regs3 f.s1 rows) []).outCheck t))))

/-- R316, R321 to R323, R327, R328, R389: the maintenance instructions of row 0xE complete. -/
def Obligations.TranslationResults : Prop :=
  ∀ (s u u1 : State) (c : Ctx) (f : FmtA),
    let inval := fun (i : Instr) (lv : Level) (ops : List Opnd) (of_ : Option Nat) (what : Nat → Inv) =>
      ReadyAt s c lv ops u →
      (c.on f.g = false ∨ of_ = none → exec i s = c.done (u.advance c)) ∧
      (∀ n, c.on f.g = true → of_ = some n → c.releaseReady u false = .ok u1 → (∀ p ∈ u1.ports, p.2.txns = []) →
        let t := ((u1.writeBack c.core (fun _ => true)).2.settleAll).dropTranslations (what n).tlb (what n).wc (what n).walk (what n).restart
        let t1 := t.rewait (fun core w _ => match t.accOwner core w with | some (v, p) => (what n).acc v p | none => false)
        exec i s = c.done ({ t1 with cores := smapv {} (fun k => { k with wfaults := [] }) t1.cores }.advance c))
    let sp := (c.w.dr (f.s2.toNat % 8)).toNat
    let a := c.xv f.s1
    let loam := decide (f.md = 1)
    let cur := u.frameEntry loam a.toNat
    inval (.tlbinvAll f) .supervisor [] (c.vfOf u) invVf ∧
    inval (.tlbinvSpace f) .supervisor [] (c.vfOf u) (fun v => invSpace v sp) ∧
    inval (.tlbinvPage f) .supervisor [.xs f.s1 24 1] (c.vfOf u) (fun v => invPage v sp a) ∧
    inval (.tlbinvS2all f) .hypervisor [] (c.part u) invPart ∧
    inval (.tlbinvS2page f) .hypervisor [.xs f.s1 24 1] (c.part u) (fun p => let g := a.toNat % 2 ^ 50; invGpa p g (u.gpaLog p g)) ∧
    (ReadyAt s c .supervisor [.xs f.s1 24 1, .xd f.d] u →
      (c.on f.g = false → exec (.mapfp f) s = c.done (u.advance c)) ∧
      (c.on f.g = true → (c.part u = none ∨ c.vfOf u = none) →
        exec (.mapfp f) s = c.done ((u.landX c 1 (opIdx f.d) 2).advance c)) ∧
      (∀ p v t, c.on f.g = true → c.part u = some p → c.vfOf u = some v →
        (∀ d, u.mapFirstTouch p v sp a = .ok d t → exec (.mapfp f) s = c.done ((t.landX c 1 (opIdx f.d) d).advance c)) ∧
        (∀ g, u.mapFirstTouch p v sp a = .bad g t →
          exec (.mapfp f) s = c.done (t.takeTrap c 0x12 (BitVec.ofNat 64 g) none [])))) ∧
    (ReadyAt s c .hypervisor [.xs f.s1 24 1, .xs f.s2 16 1] u →
      let k := (c.xv f.s2).toNat
      let new : BitVec 32 := (c.xv f.s2).setWidth 32
      let changed := bits new 11 0 ≠ bits cur 11 0
      let v := (cur &&& ~~~0x1FFF) ||| (new &&& 0x1FFF)
      let set := u.setFrameEntry loam a.toNat (if changed then v &&& ~~~0x4000 else v)
      (c.on f.g = false → exec (.frscrub f) s = c.done (u.advance c) ∧ exec (.fotset f) s = c.done (u.advance c) ∧
        exec (.wmset f) s = c.done (u.advance c)) ∧
      (c.on f.g = true → frameOk loam a = true →
        ((c.p.level = .root ∨ ∃ p, c.part u = some p ∧ (bits cur 11 0 = 0 ∨ u.ownerPart (bits cur 11 0) = some p) ∧ k = p) →
          (k ≤ 19 ∨ k = 31) → bit cur 13 = false → (loam && u.regionLocked a.toNat) = false → u.scrubbing loam a.toNat = false →
          u.cores.any (fun q => q.2.longs.any (fun o => o.readsLoam a.toNat)) = false →
          let t := u.scrubBegin loam a.toNat k
          exec (.frscrub f) s = c.done ((((t.newId c.core).2.modCore c.core (fun q =>
            { q with ops := q.ops ++ [((t.newId c.core).1, if loam then 2 else 1, a.toNat)] })).advance c).park c
              (.op (t.newId c.core).1 .mem))) ∧
        ((c.p.level = .root ∨ ∃ p, c.part u = some p ∧ bits cur 20 16 = p ∧ u.ownerPart (bits new 11 0) = some p) →
          u.fotBad loam cur new (c.p.level == .root) = false →
          exec (.fotset f) s = c.done ((if loam then { set with pairs := smapv {} (fun p =>
            { p with permCache := p.permCache.filter (fun f => f != loamKey a.toNat / 65536) }) set.pairs } else set).advance c))) ∧
      (c.on f.g = true → a.toNat ≤ 511 → (∀ p, c.part u = some p → (u.part p).hasVf a.toNat = true) → bits (c.xv f.s2) 63 24 = 0 →
        (∀ i < 24, (c.xv f.s2).getLsbD i = true →
          Nat.testBit (match u.partOfVf a.toNat with | some p => (u.part p).ways | none => 0) i = true) →
        exec (.wmset f) s = c.done ((u.modVf a.toNat (fun x => { x with ways := bits (c.xv f.s2) 23 0 })).advance c)))

/-- R30, R350, R351: the instructions of row 0xE over modules and instruction caches complete. -/
def Obligations.ModuleResults : Prop :=
  ∀ (s u : State) (c : Ctx) (f : FmtA) (p : Nat),
    let x := c.xv f.s1
    let refuse := fun (i : Instr) (v : Nat) => exec i s = c.done ((u.landX c 1 (opIdx f.d) (BitVec.ofNat 64 v)).advance c)
    (c.on f.g = false →
      (ReadyAt s c .hypervisor [.xs f.s1 24 1, .xd f.d] u → ∀ i ∈ [Instr.modreg f, .modrel f, .modrelNb f], exec i s = c.done (u.advance c)) ∧
      (ReadyAt s c .hypervisor [.xs f.s1 24 1] u → exec (.icinvMod f) s = c.done (u.advance c)) ∧
      (ReadyAt s c .hypervisor [.xs f.s1 24 1, .xs f.s2 16 1, .xs f.s3 8 1] u → exec (.icinvRange f) s = c.done (u.advance c))) ∧
    (c.on f.g = true → c.part u = some p → ReadyAt s c .hypervisor [.xs f.s1 24 1, .xd f.d] u →
      (let a := c.acc u (opIdx f.s2 % 8)
       (x.toNat % 65536 ≠ 0 ∨ u.readHeader a x = none → refuse (.modreg f) 2) ∧
       (∀ h, x.toNat % 65536 = 0 → u.readHeader a x = some h →
         ((u.modEntry p h.id).state ≠ 0 → refuse (.modreg f) 1) ∧
         ((u.modEntry p h.id).state = 0 → u.segment a (x + 65536) h.csize true = none ∨
           u.segment a (x + BitVec.ofNat 64 (65536 + up64k h.csize)) h.dsize false = none → refuse (.modreg f) 4) ∧
         (∀ code data, (u.modEntry p h.id).state = 0 → u.segment a (x + 65536) h.csize true = some code →
           u.segment a (x + BitVec.ofNat 64 (65536 + up64k h.csize)) h.dsize false = some data →
           (code.any (fun pa => bit (u.fotOf pa) 13) = true → refuse (.modreg f) 5) ∧
           (code.any (fun pa => bit (u.fotOf pa) 13) = false →
             let t := (u.putModule p h.id 1 a.space 0 (x + 65536) h.csize (x + BitVec.ofNat 64 h.etoff)).setCode code true
             let w := c.await t f.d 6
             let v := w.2.modPart p (fun q => { q with
               modVf := sput 0 q.modVf h.id (a.vf + 1), modFrames := sput [] q.modFrames h.id code, modOps := q.modOps ++ [(h.id, c.core, w.1)] })
             exec (.modreg f) s = c.done
               (v.soon [{ step := .moduleVerificationComplete, a := p, b := h.id, c := if (code ++ data).any v.pageBad then 1 else 0 }]))))) ∧
      (let m := bits x 11 0
       let h := (u.part p).hmod
       ((u.modEntry p m).state ≠ 2 → refuse (.modrel f) 1 ∧ refuse (.modrelNb f) 1) ∧
       ((u.modEntry p m).state = 2 → bit h 12 = true ∧ bits h 11 0 = m → refuse (.modrel f) 2 ∧ refuse (.modrelNb f) 2) ∧
       ((u.modEntry p m).state = 2 → ¬ (bit h 12 = true ∧ bits h 11 0 = m) →
         let t := u.setModState p m 3
         exec (.modrelNb f) s = c.done ((c.answer t f.d 0).releaseTags p m) ∧
         exec (.modrel f) s = c.done (((c.await t f.d 6).2.modPart p (fun q =>
           { q with modOps := q.modOps ++ [(m, c.core, (c.await t f.d 6).1)] })).releaseTags p m)))) ∧
    (c.on f.g = true → c.part u = some p →
      let drop := fun (i : Instr) (pick : Nat → Bool) =>
        let t := (u.dropTags p (bits x 11 0) pick).dropBuffers p (bits x 11 0)
        exec i s = c.done ((((t.newId c.core).2.modCore c.core (fun k =>
          { k with ops := k.ops ++ [((t.newId c.core).1, 3, bits x 11 0)] })).advance c).park c (.op (t.newId c.core).1 .mem))
      let first := ((u.modEntry p (bits x 11 0)).cbase + blockBase (c.xv f.s2)).toNat
      (ReadyAt s c .hypervisor [.xs f.s1 24 1] u → drop (.icinvMod f) (fun _ => true)) ∧
      (ReadyAt s c .hypervisor [.xs f.s1 24 1, .xs f.s2 16 1, .xs f.s3 8 1] u →
        drop (.icinvRange f) (fun va => decide (first ≤ va ∧ va < first + 64 * (c.xv f.s3).toNat))))

/-- R346, R348, R349: the instructions of row 0xE over teams and VFs complete. -/
def Obligations.ContextResults : Prop :=
  ∀ (s u : State) (c : Ctx) (f : FmtA) (p : Nat),
    let x := c.xv f.s1
    let refuse := fun (i : Instr) (v : Nat) => exec i s = c.done ((u.landX c 1 (opIdx f.d) (BitVec.ofNat 64 v)).advance c)
    (c.on f.g = false →
      (ReadyAt s c .hypervisor [.xs f.s1 24 1, .xd f.d] u → ∀ i ∈ [Instr.ctxsave f, .ctxsaveKill f, .ctxrest f], exec i s = c.done (u.advance c)) ∧
      (ReadyAt s c .hypervisor [.xs f.s1 24 1, .xs f.s2 16 1, .xd f.d] u → ∀ i ∈ [Instr.vfsave f, .vfrest f], exec i s = c.done (u.advance c))) ∧
    (c.on f.g = true → ReadyAt s c .hypervisor [.xs f.s1 24 1, .xd f.d] u →
      (c.teamNamed u x = none → refuse (.ctxsave f) 1 ∧ refuse (.ctxsaveKill f) 1 ∧ refuse (.ctxrest f) 1) ∧
      (∀ t, c.teamNamed u x = some t →
        let busy := t.out || t.state == .retiring || (u.haltSet t).any (fun v => v.saveFor.isSome)
        let handling := (u.haltSet t).any (fun v => v.state == .inHandler)
        let saves := fun (i : Instr) (kill : Bool) =>
          exec i s = c.done ((c.await u f.d 4).2.beginSave t { kill := kill, op := some (c.core, (c.await u f.d 4).1) })
        (busy = true → refuse (.ctxsave f) 2 ∧ refuse (.ctxsaveKill f) 2) ∧
        (busy = false → (handling = true → refuse (.ctxsave f) 3) ∧ (handling = false → saves (.ctxsave f) false) ∧
          saves (.ctxsaveKill f) true) ∧
        (t.state = .checkpointed → exec (.ctxrest f) s = c.done (c.answer (u.makePlaceable t) f.d 0)) ∧
        (t.state ≠ .checkpointed → refuse (.ctxrest f) 2))) ∧
    (c.on f.g = true → ReadyAt s c .hypervisor [.xs f.s1 24 1, .xs f.s2 16 1, .xd f.d] u →
      let a := c.xv f.s2
      (c.vfNamed u x = none → refuse (.vfsave f) 1 ∧ refuse (.vfrest f) 1) ∧
      (∀ v, c.vfNamed u x = some (p, v) →
        (u.areaOk p a = false → refuse (.vfsave f) 2 ∧ refuse (.vfrest f) 2) ∧
        (u.areaOk p a = true → ((u.vf v).saveOp.isSome = true → refuse (.vfsave f) 2) ∧
          ((u.vf v).saveOp = none →
            let w := c.await u f.d 5
            let t := w.2.modVf v (fun q => { q with saving := true, saveOp := some (c.core, w.1, a.toNat) })
            exec (.vfsave f) s = c.done (((t.teams.filter (fun t => t.vf == v && !t.slots.isEmpty && !t.out && t.state != .retiring &&
              t.saveFor.isNone && t.half != some 1)).foldl (fun s t => s.beginSave t {}) t).vfDone v)) ∧
          (u.num a.toNat 8 ≠ v → refuse (.vfrest f) 2) ∧
          (u.num a.toNat 8 = v → ((u.vf v).saving = false ∨ (u.vf v).saveOp.isSome = true → refuse (.vfrest f) 3) ∧
            ((u.vf v).saving = true → (u.vf v).saveOp = none →
              exec (.vfrest f) s = c.done (c.answer ((u.vfRead v a.toNat).teamsRead v p a.toNat) f.d 0))))))

/-- R43, R64, R336, R396 to R401: launches, calls and returns complete. `submits` is the effect of R64: the CSIG byte is read at its home
after the core's stores are there, its flag counts the launch, and the launch enters the queue with a new handle. The order in which
a call's lanes enter the ring is free (log entry 5). -/
def Obligations.CallAndReturnResults : Prop :=
  ∀ (s u u1 v : State) (c : Ctx) (f : FmtA) (r : Located) (q : LaneAt) (ql : List LaneAt),
    let x := c.xv f.s1
    let answers := fun (i : Instr) (t : State) (n : Nat) =>
      exec i s = c.done ((t.landX c 1 (opIdx f.d) (BitVec.ofNat 64 n)).advance c)
    let submits := fun (i : Instr) (a : Acc) =>
      x.toNat % 64 = 0 → u.launchFull (dieOf c.core) a.part = false →
      u.locateLanes c.core 0 a 0 [(lowestLane c.p.mask, x + 0x58)] = (r, v) → r.miss = false → r.ok = q :: ql →
      (isWindow q.pa = true ∨ (v.flushNow c.core).homeBad q.pa q.cmp = false) →
      let w := v.flushNow c.core
      let b := if isWindow q.pa then w.pcieRead 1 else (w.homeBytes q.pa 1 q.cmp, w)
      let n := ofBytes b.1
      let sig := if 16 ≤ n ∨ 12 ≤ n % 16 ∧ n % 16 ≤ 14 then 16 else n
      let flag := if sig ≤ 11 then sig else 15
      c.flagRoom b.2 flag = true →
      let l : Launch := { handle := 0, die := dieOf c.core, vf := a.vf, part := a.part, level := a.level, space := BitVec.ofNat 16 a.space, addr := x, doms := (List.range 8).map (fun i => c.w.dr i), csig := sig, launcher := some (if c.svc then (0, c.core, 0) else (c.w.handle, c.w.team, c.w.widx)) }
      let o := (c.flagged b.2 flag).submit l
      exec i s = c.done ((o.2.landX c 8 (opIdx f.d) (BitVec.ofNat 64 o.1)).advance c)
    (Ready s c none [.xs f.s1 24 1, .xd f.d] u →
      (c.on f.g = false → exec (.launch f) s = c.done (u.advance c)) ∧
      (c.on f.g = true → submits (.launch f) (c.acc u f.md.toNat))) ∧
    (ReadyAt s c .hypervisor [.xs f.s1 24 1, .xs f.s3 8 1, .xd f.d] u →
      (c.on f.g = false → exec (.scallLaunch f) s = c.done (u.advance c)) ∧
      (∀ p, c.on f.g = true → c.part u = some p → (c.xv f.s3).toNat < 512 → (u.part p).hasVf (c.xv f.s3).toNat = true →
        submits (.scallLaunch f) { c.acc u (opIdx f.s2 % 8) with vf := (c.xv f.s3).toNat })) ∧
    (Ready s c (some (c.guard f.g)) [.vs f.s1 24 8 3, .vs f.s2 16 2 3] u → ∀ t : Team, u.teamOf c.w = some t →
      let p := u.part t.part
      let n := (lanesOf (c.guard f.g)).length
      n ≤ 2 ^ bits p.callq 7 0 → (u.callBatches.filter (fun b => b.handle == t.handle && b.team == t.idx)).length < 16 →
      (u.core c.core).popUsed 7 + (u.callBatches.filter (fun b => match u.team b.handle b.team with
        | some w => w.core == c.core && !w.out | none => false)).length < 16 →
      u.ringFree p.callq p.callTail n = true → c.releaseReady u true = .ok u1 → c.flagRoom u1 (f.s3.toNat % 16) = true →
      let w := ((c.flagged u1 (f.s3.toNat % 16)).flushNow c.core).modTeam t.handle t.idx (fun x => { x with batchCtr := (t.batchCtr + 1) % 2 ^ 32 })
      let o := (pickOrder n w.free (lanesOf (c.guard f.g))).zipIdx.foldl
        (fun s x => s.putCall p.callq (p.callTail + x.2) (c.callRecord t f t.batchCtr x.1)) { w with free := w.free + n }
      let b : CallBatch := { handle := t.handle, team := t.idx, batch := t.batchCtr, widx := c.w.widx, sig := f.s3.toNat % 16, epoch := c.w.epoch, left := n }
      let e := (o.modPart t.part (fun p2 => { p2 with callTail := p.callTail + n })).addBatch c.core b
      exec (.scall f) s = c.done ((if n = 0 then e.soon [{ step := .scallBatchComplete, a := t.handle, b := t.idx, c := t.batchCtr }]
        else e).advance c)) ∧
    (Ready s c none [] u →
      exec (.fcall f) s = c.done ((if c.on f.g then u.nextEpoch c else u).advance c)) ∧
    (Issuing s c →
      let l := (s.callBatches.filter (fun b => b.handle == c.w.handle && b.team == c.w.team && b.widx == c.w.widx)).map (fun b => b.batch)
      (c.on f.g = false → exec (.fcallDone f) s = c.done (s.advance c)) ∧
      (c.on f.g = true → exec (.fcallDone f) s = c.done (if l.isEmpty then (s.nextEpoch c).advance c
        else ((s.nextEpoch c).advance c).park c (.calls l))) ∧
      (Level.supervisor.rank ≤ c.p.level.rank →
        (c.on f.g = false → exec (.eret f) s = c.done (s.advance c) ∧ exec (.eretSkip f) s = c.done (s.advance c)) ∧
        (c.on f.g = true → c.svc = false → c.p.handler = true →
          exec (.eret f) s = c.done (c.eret s false) ∧ exec (.eretSkip f) s = c.done (c.eret s true)) ∧
        (c.on f.g = true → c.svc = true ∨ c.p.handler = false →
          exec (.eret f) s = .next (s.takeTrap c 0x01 (illegalInfo 0x07 40) none []) ∧
          exec (.eretSkip f) s = .next (s.takeTrap c 0x01 (illegalInfo 0x07 40) none [])))) ∧
    (ReadyAt s c .hypervisor [.xs f.s1 24 4] u → c.p.level ≠ .root →
      (c.on f.g = false → exec (.scallUp f) s = c.done (u.advance c)) ∧
      (c.on f.g = true → u.ringFree u.pkg.rcallq u.pkg.rcallTail 1 = true → c.releaseReady u true = .ok u1 →
        c.flagRoom u1 (f.s3.toNat % 16) = true →
        let w := (c.flagged u1 (f.s3.toNat % 16)).flushNow c.core
        let n := sget 0 w.pkg.upBatch c.core
        let o := (w.putCall u.pkg.rcallq u.pkg.rcallTail ([(c.part w).getD 0, n + f.d.toNat * 2 ^ 32, 0, 2 ^ 63] ++
          (List.range 4).map (fun i => (c.w.xr (opIdx f.s1 + i)).toNat))).modPkg
            (fun k => { k with rcallTail := u.pkg.rcallTail + 1, upBatch := sput 0 k.upBatch c.core ((n + 1) % 2 ^ 32) })
        let b : CallBatch := { handle := 0, team := c.core, batch := n, widx := 0, sig := f.s3.toNat % 16, epoch := 0, left := 1, svc := some c.core }
        exec (.scallUp f) s = c.done ((o.addBatch c.core b).advance c))) ∧
    (ReadyAt s c .hypervisor [.xs f.s1 24 1, .xs f.s2 16 1, .xd f.d] u →
      let ring := match c.part u with | some p => (u.part p).callq | none => u.pkg.rcallq
      let a := ringSlot ring 64 x.toNat
      (c.on f.g = false → exec (.scallReply f) s = c.done (u.advance c)) ∧
      (c.on f.g = true →
        (2 ^ bits ring 7 0 ≤ x.toNat → answers (.scallReply f) u 3) ∧
        (x.toNat < 2 ^ bits ring 7 0 → u.ringValid a 64 = false → answers (.scallReply f) u 1) ∧
        (x.toNat < 2 ^ bits ring 7 0 → u.ringValid a 64 = true → c.releaseReady u true = .ok u1 →
          let w := u1.flushNow c.core
          let w0 := w.num a 8
          let n := w.num (a + 8) 4
          let who := match c.part u with | some _ => (w0 % 2 ^ 32, w0 / 2 ^ 32 % 2 ^ 20) | none => (0, (w.part (w0 % 32)).svc)
          let o := w.setNum (a + 24) 8 (w.num (a + 24) 8 % 2 ^ 63)
          (o.callBatch who.1 who.2 n = none → answers (.scallReply f) o 2) ∧
          (∀ b, o.callBatch who.1 who.2 n = some b →
            let b2 := b.reply (w0 / 2 ^ 56 % 64) (bits (c.xv f.s2) 7 0)
            let e := o.modBatchOf who.1 who.2 n (fun _ => b2)
            answers (.scallReply f) (if b2.left = 0 then e.soon [{ step := .scallBatchComplete, a := who.1, b := who.2, c := n }] else e) 0))))

/-- R152, R360, R362 to R365, R368, R373, R374, R393: the graphics instructions complete. A sample issued again after a lane fault takes only its
failed lanes. -/
def Obligations.GraphicsResults : Prop :=
  ∀ (s u v : State) (c : Ctx) (f : FmtA),
    let m := c.guard f.g
    let sig := f.s3.toNat % 16
    (Ready s c none [.xs f.s1 24 1] u →
      (c.on f.g = false → exec (.rdraw f) s = c.done (u.advance c)) ∧
      (c.on f.g = true → (c.xv f.s1).toNat % 64 = 0 → (u.die (dieOf c.core)).drawQueue.length < 64 → c.flagRoom u sig = true →
        let t := ((c.flagged u sig).writeBack c.core (fun _ => true)).2
        let q := c.acc t f.md.toNat
        let b : Batch := { home := dieOf c.core, num := (t.die (dieOf c.core)).nextBatch, core := c.core, handle := c.w.handle, team := c.w.team, widx := c.w.widx, sig := sig, vf := q.vf, part := q.part, space := q.space, level := q.level, off := c.xv f.s1, wbs := (t.core c.core).wbIds }
        exec (.rdraw f) s = c.done ((t.modDie (dieOf c.core) (fun k =>
          { k with batches := k.batches ++ [b], nextBatch := (k.nextBatch + 1) % 2 ^ 32 })).advance c))) ∧
    (Ready s c (some m) [.vd f.d 1] u →
      let k := f.s3.toNat % 16
      (m = 0 → exec (.attr f) s = c.done (u.advance c)) ∧
      (∀ t, m ≠ 0 → c.foot u = some t → k < (t.attrs.headD []).length →
        let regs := c.dregs f.d false
        exec (.attr f) s = c.done (({ u with free := u.free + 64 }.startLong c (.v regs) m (.done (laneWrites regs
          ((lanesOf m).map (fun l => (l, (t.attr f.md.toNat k l (u.free + l)).toNat)))) 0)).advance c))) ∧
    (let z := f.md.getLsbD 0
     Ready s c (some m) ([.vs f.s1 24 4 3] ++ (if z then [.vs f.s2 16 1 3] else [])) u →
      (m = 0 → exec (.pxout f) s = c.done (u.advance c)) ∧
      (∀ t, m ≠ 0 → c.foot u = some t → lanesOf (t.sent &&& m) = [] → u.mergerFull t.handle t.team (lanesOf m).length = false →
        let w := { u with foots := modWhere (fun x => x.handle == t.handle && x.team == t.team) (fun x => { x with sent := x.sent ||| m }) u.foots }
        exec (.pxout f) s = c.done ((w.sendFrags t.handle t.team (fun l =>
          if m.getLsbD l then some ((List.range 4).map (fun i => c.vv (f.s1 + BitVec.ofNat 8 i) l), if z then some (c.vv f.s2 l) else none)
          else none)).advance c))) ∧
    (let slots := ((c.lastOf s m).map (·.slots)).getD [];
      Issuing s c → (∀ p ∈ s.ports, ∀ t ∈ p.2.txns, t.write = true → t.core = c.core → t.slot ∉ slots) →
      (∀ sl ∈ slots, s.linkError c.core sl = false) →
      exec (.disc f) s = c.done ((s.advance c).exitLanes c.core c.slot c.p.id m)) ∧
    (∀ (r : Located) (t : Tex),
      let again := match c.p.replay with
        | some (pc, m, d) => if pc = c.p.pc then some (m, d) else none
        | none => none
      let k : Ctx := match again with | some (_, d) => { c with w := c.w.full d } | none => c
      let lanes := match again with | some (m, _) => m | none => m
      let samples := fun (i : Instr) (fetch : Bool) =>
        let lane := fun (l : Nat) => t.taps fetch (k.vv f.s1 l) (k.vv (f.s1 + 1) l)
        let es := (lanesOf lanes).flatMap (fun l => (lane l).1.map (fun a => (l, a)))
        Issuing s c → k.begin s (some m) ([.vs f.s1 24 2 3, .xs f.s2 16 1] ++ (if again.isSome then [] else [.vd f.d 4])) = .ok u →
        (lanes = 0 → exec i s = c.done (u.advance k)) ∧
        (lanes ≠ 0 → k.descriptor u m (k.xv f.s2) = .ok t → (u.core c.core).bstage = .idle →
          u.locateLanes c.core 0 (k.acc u t.dom) 0 es = (r, v) → r.miss = false → r.bad = [] →
          v.flefinRoom ((r.ok.filter (fun q => lanes.getLsbD q.lane)).map (fun q => (q.pa, t.size))) = true →
          ∃ w, v.issueTex k t (.v ((List.range 4).map (fun i => c.phys (opIdx f.d + i)))) lanes (r.ok.filter (fun q => lanes.getLsbD q.lane))
              ((lanesOf lanes).map (fun l => (l, (lane l).2))) = .ok w ∧
            exec i s = c.done ((w.modCur k (fun p => { p with replay := none })).advance k))
      samples (.tsample f) false ∧ samples (.tfetch f) true) ∧
    (Ready s c (some m) [.vs f.s1 24 8 3, .xs f.s2 16 2] u →
      let fl := c.w.xr (opIdx f.s2 + 1)
      let k := u.core c.core
      (c.xv f.s2).toNat % 128 = 0 → fl.toNat < 8 → k.queued 4 < 8 → k.hits.length + k.popUsed 5 < 8 → k.cmds.length < 512 →
      c.flagRoom u sig = true →
      let lanes := (lanesOf m).map (fun l => (l, (List.range 8).map (fun i => c.vv (f.s1 + BitVec.ofNat 8 i) l)))
      let cmd := c.newCmd 2 sig (.ray { lanes := lanes, root := c.xv f.s2, flags := fl.toNat, space := (c.w.dr f.md.toNat).toNat })
      exec (.rtrace f) s = c.done (((c.flagged u sig).addCmd c.core { cmd with rec_ := true }).advance c)) ∧
    (Ready s c (some m) [.vd f.d 4] u → (m = 0 → exec (.rhit f) s = c.done (u.advance c)) ∧ ∀ b, m ≠ 0 → (u.core c.core).hits.find? (fun h => h.slot == c.slot) = some b →
      let w := u.modCore c.core (fun k => { k with hits := k.hits.erase b })
      let l := b.hits.filter (fun q => m.getLsbD q.1)
      let regs := (List.range 4).map (fun i => c.phys (opIdx f.d + i))
      exec (.rhit f) s = c.done ((if l.isEmpty then w else w.startLong c (.v regs) (maskOf (l.map (fun q => q.1)))
        (.done (regs.zipIdx.map (fun r => Write.v r.1 (l.map (fun q => (q.1, q.2.getD r.2 0))))) 0)).advance c))

/-- The events of the engines have their effects. `s.ev` holds which core, command, team or marker an event is about. -/
def Obligations.EngineEventResults : Prop :=
  ∀ (s : State) (c : Cmd) (t : Team), let core := s.ev.a
    let k := s.core core
    (k.cmd s.ev.b = some c →
      (c.forkOver k = true → exec .engineWordStart s = .next (s.modCmd core c.seq (fun x => { x with stage := .running }))) ∧
      (c.forkOver k = false → (k.nextQueued c.eng).map (fun x => x.seq) = some c.seq → s.waitOver core c = true → k.inFlight c.eng < 512 →
        (c.eng ≠ 1 → exec .engineWordStart s = .next (s.modCmd core c.seq (fun x => { x with stage := .running, started := true }))) ∧
        (c.eng = 1 → s.team c.handle c.team = some t →
          (c.loamDests.any (fun a => s.loamLocked t.part a) = true → exec .engineWordStart s = .next (s.modCmd core c.seq
            (fun x => { x with stage := .finished, started := true, status := 3, readDone := true }))) ∧
          (c.loamDests.any (fun a => s.loamLocked t.part a) = false →
            (c.src.kind = 0 ∨ c.dst.kind = 0 → let r := s.forkBack core (s.readExtents t c ++ s.writeExtents t c c.most)
              exec .engineWordStart s = .next (r.2.modCmd core c.seq (fun x => { x with stage := .fork r.1, started := true }))) ∧
            (c.src.kind ≠ 0 → c.dst.kind ≠ 0 → exec .engineWordStart s = .next (s.modCmd core c.seq
              (fun x => { x with stage := .running, started := true })))))) ∧
      (c.stage = .finished → c.eng = 1 →
        let w := s.copyJoin core c
        let v := if c.rec_ then w.post core 3 c.slot c.record
          else if c.status ≠ 0 then w.holdAsync c.handle c.team { seq := c.seq, widx := c.widx, cause := 0x15, info := c.record } else w
        exec .copyCommandComplete s = .next (((v.flagDec core c.slot c.handle c.team c.sig).freeCmd core c).groupArrive c.handle c.team)) ∧
      (∀ a, c.fault = some a → c.abnd = false →
        exec .engineCommandFault s = .next ((s.modCmd core c.seq (fun c => { c with abnd := true })).holdAsync c.handle c.team
          { a with seq := c.seq, widx := c.widx, cause := if c.eng = 0 then 0x17 else a.cause, info := BitVec.ofNat 64 (c.seq + (if c.eng = 0 then a.cause * 2 ^ 32 else 0)), off := if c.eng ≠ 0 ∧ (a.cause = 0x11 ∨ a.cause = 0x12) then a.off else c.pc })) ∧
      (∀ l, s.serves core c = true → s.launch c.handle = some l →
        exec .wdqService s = .next ((s.modLaunch l.handle (fun x => { x with tileCtr := x.tileCtr + 1, tileAt := s.pkg.now + 4 * ncPeriod (s.die l.die).an })).modCmd core c.seq (fun x =>
          { x with stage := .finished, started := true, out := tileRecord l.gridX l.gridY l.tileCtr, readDone := true, due := s.pkg.now + 40 * ncPeriod (s.die l.die).an }))) ∧
      (c.eng = 3 → c.stage = .finished → exec .wdqAnswer s = .next (s.wdqAnswer core c)) ∧
      (∀ r l v, c.pay = .ray r → s.team c.handle c.team = some t → c.stage = .running → c.abnd = false → c.fault = none →
        (k.cmds.find? (fun x => x.eng == 2 && x.slot == c.slot && x.handle == c.handle && x.team == c.team && !x.abnd)).map (fun x => x.seq) = some c.seq →
        s.traceRays core (engAcc t c r.space) r.root.toNat r.flags r.lanes = .ok (l, v) →
        exec .rayBatchComplete s = .next (((v.modCore core (fun k => { k with hits := k.hits ++ [{ seq := c.seq, slot := c.slot, hits := l }] })).flagDec
          core c.slot c.handle c.team c.sig).freeCmd core c))) ∧
    (s.runningCopy core s.ev.b 0x01 = some (c, t) → exec .line s = .next (s.runCopy core c (fun u k => u.lineRep core t c k))) ∧
    (s.runningCopy core s.ev.b 0x02 = some (c, t) → exec .box s = .next (s.runCopy core c (fun u k => u.boxRep core t c k))) ∧
    (s.runningCopy core s.ev.b 0x03 = some (c, t) → exec .fill s = .next (s.runCopy core c (fun u k => u.fillRep core t c k))) ∧
    (s.runningCopy core s.ev.b 0x10 = some (c, t) → exec .zpack s = .next (s.runPacked core c (fun u c => u.zpackRep core t c) (fun u c =>
      if c.arg 3 = 0 then .ok u else u.sideWrite core t c c.dst (c.arg 3) ((leBytes c.dstPos 8).map (fun b => (b, false)))))) ∧
    (s.runningCopy core s.ev.b 0x11 = some (c, t) →
      exec .zunpack s = .next (s.runPacked core c (fun u c => u.zunpackRep core t c) (fun u _ => .ok u))) ∧
    (∀ a r, s.team core s.ev.b = some t → t.heldAsync = a :: r → t.state = .running →
      exec .asyncFaultDelivery s = .next ((s.modTeam t.handle t.idx (fun t => { t with heldAsync := r })).takeAsync t a)) ∧
    exec .markerArrival s = .next (s.modCore core (fun k =>
      let due := fun (m : Marker) => m.slot == s.ev.b && m.queue == s.ev.c && k.reached m
      { k with markers := modWhere due (fun m => { m with arrived := true }) k.markers }))

/-- R199, R203, R212, R214, R215, R220 to R223: the events of a pair's array have their effects. `s.ev.a` is the pair. -/
def Obligations.MatrixEventResults : Prop :=
  ∀ (s : State), let pr := s.ev.a
    (∀ n cmd m, s.nextChunk pr = some n → s.matCmd pr n.seq = some (cmd, m) →
      let start := fun (t : State) => match (t.pair pr).buffered n with
        | none => t
        | some (r, at_) =>
          let p := t.pair pr
          let first := max n.first at_
          if p.mc < first then t
          else
            let run := { r with endsAt := first + r.len }
            let fin := match p.run with
              | some q => if q.seq ≠ n.seq ∧ (t.matCmd pr q.seq).isSome then p.fin ++ [{ q with endsAt := q.endsAt + 5 }] else p.fin
              | none => p.fin
            let v := t.modPair pr (fun p => { p with run := some run, fin := fin, q0 := p.q0.filter (fun q => q.1 != n.seq), buffer := none, sup := if m.kind = 2 then p.sup else satInc p.sup (2 ^ 32 - 1) (first - n.first), loamStl := if m.kind = 2 then satInc p.loamStl (2 ^ 32 - 1) (first - n.first) else p.loamStl })
            (v.arrayDebit pr run.eu (run.computes first p.mc)).modCmd (2 * pr) n.seq (fun c =>
              { c with stage := .running, started := true, readDone := c.readDone || decide (m.kind = 0) })
      (((s.pair pr).buffered n).isSome = true → exec .matrixChunkStart s = .next (start s)) ∧
      ((s.pair pr).buffered n = none →
        let product := decide (1 ≤ m.kind ∧ m.kind ≤ 3)
        let acc : Mat (SMap Lane) := if product && decide (n.chunk = 0) then s.startAcc pr n.seq m else .ok n.run.acc
        let r : Mat (MatRun × State) := match acc with
          | .error e => .error e
          | .ok acc =>
            let r := { n.run with chunk := n.chunk, acc := acc, len := m.chunkLen, eu := 75 * cdiv m.vrow 32 }
            if product then s.productChunk pr cmd m r n.chunk else .ok (r, s)
        (∀ cause off fl, r = .error (.fault cause off fl) → exec .matrixChunkStart s = .next (start (s.matFault pr n.seq cause off fl))) ∧
        (∀ off v, r = .error (.walk off v) → exec .matrixChunkStart s = .next (start (v.freezePair pr n.seq false off))) ∧
        (∀ a, r = .error (.perm a) → exec .matrixChunkStart s = .next (start (s.freezePair pr n.seq true (BitVec.ofNat 64 a)))) ∧
        (∀ w, r = .error (.late w) → exec .matrixChunkStart s = .next (start (s.supplyLate pr w))) ∧
        (∀ run v, r = .ok (run, v) → exec .matrixChunkStart s = .next (start ((v.modPair pr (fun x =>
          { x with buffer := some (run, if (s.pair pr).late then (s.pair pr).mc else 0), late := false, loamAt := none })).modCmd (2 * pr) n.seq
            (fun c => { c with started := c.started || product, readDone := c.readDone || (product && decide (n.chunk + 1 = m.chunks)) })))))) ∧
    (∀ r c m, s.dueRun pr = some r → s.matCmd pr r.seq = some (c, m) →
      let res : Mat (SpWrites × SpWrites × Nat) := if m.kind ≤ 3 then .ok ([], [], r.flags) else s.spadResult pr m
      (∀ cause off fl, res = .error (.fault cause off fl) → exec .matrixCommandComplete s = .next (s.matFault pr r.seq cause off fl)) ∧
      (∀ x y flags, res = .ok (x, y, flags) →
        let a := ((s.putHalf pr 0 x).putHalf pr 1 y).modPair pr (fun p =>
          { p.writeTile m r.acc with run := (match p.run with | some q => if q.seq = r.seq then none else some q | none => none), fin := p.fin.filter (fun q => q.seq != r.seq), order := p.order.filter (fun e => e.2 != .cmd r.seq) })
        let w := a.warp (2 * pr) c.slot
        let mine := w.live && decide (w.handle = c.handle ∧ w.team = c.team)
        let b := if mine then a.modWarp (2 * pr) c.slot (fun w => { w with mflags := w.mflags ||| flags ||| (if r.meta_ then 32 else 0) }) else a
        let d := if c.rec_ then b.post (2 * pr) 1 c.slot (statusRecord c m flags r.meta_) else b
        let e := (d.flagDec (2 * pr) c.slot c.handle c.team c.sig).freeCmd (2 * pr) c
        exec .matrixCommandComplete s = .next (e.tileTurn pr (e.pair pr).order.length))) ∧
    (∀ z, (s.pair pr).freeze = some z →
      (∀ t c m v, z.failed = none → z.loam = false → s.twinOf pr 0 = some t → s.matCmd pr z.seq = some (c, m) →
        let a := t.acc m.space c.level
        (∀ pa cmp, s.locate t.core 4 a z.off 4 = (.ok pa cmp, v) → exec .freezeResume s = .next (v.thaw pr false)) ∧
        (s.locate t.core 4 a z.off 4 = (.miss, v) → exec .freezeResume s = .next v) ∧
        (∀ kind lv, kind ≠ 1 → s.locate t.core 4 a z.off 4 = (.fault kind lv, v) → exec .freezeResume s = .next (v.modPair pr (fun p =>
          { p with freeze := some { z with failed := some (if kind = 6 then 0x12 else 0x11, flinfoOf kind lv 4 (decide (a.level = .user)) a.space) } })))) ∧
      (z.failed = none → z.loam = true → exec .freezeResume s = .next
        ((s.modPair pr (fun p => { p with permCache := (loamKey z.off.toNat / 65536 :: p.permCache).take 64 })).thaw pr false)) ∧
      (∀ cause fl, z.failed = some (cause, fl) → exec .freezeConversion s = .next ((s.thaw pr true).matFault pr z.seq cause z.off fl)) ∧
      (z.failed = none → 65536 * ncPeriod (s.die (pr / 64)).an < s.pkg.now - z.since ∨ s.freezeHeld pr z = true →
        exec .freezeConversion s = .next ((s.thaw pr true).matFault pr z.seq 0x11 z.off (s.freezeRecord pr z))))

/-- R25, R91, R193, R240, R258, R259, R275, R312, R315, R427: the events of the memory system have their effects. `s.ev` holds the core (or
die) and the line, write-back, operation, walk or path. -/
def Obligations.MemoryEventResults : Prop :=
  ∀ (s : State), let core := s.ev.a
    let k := s.core core
    exec .lineEviction s = .next (s.evict core s.ev.b false) ∧
    (∀ w, k.wbs.find? (fun w => w.id == s.ev.b && !w.arrived) = some w → w.after.any (fun i => k.wbs.any (fun x => x.id == i)) = false →
      k.wbPending w.line w.id = false →
      exec .writebackArrival s = .next ((s.performWb core w).modCore core (fun k =>
        { k with wbs := modWhere (fun x => x.id == w.id) (fun x => { x with arrived := true }) k.wbs }))) ∧
    (k.wbs.any (fun w => w.id == s.ev.b && w.arrived) = true →
      exec .writebackAck s = .next ((s.modCore core (fun k => { k with wbs := k.wbs.filter (fun w => w.id != s.ev.b) })).orders core)) ∧
    (let first := ((k.wbs.filter (fun w => w.line == s.ev.b && !w.arrived)).map (fun w => w.id) ++
       (k.atomics.filter (fun a => a.lanes.any (fun q => lineOf q.pa == s.ev.b))).map (fun a => a.id)).foldl min k.nextId
     let t := s.arriveLine core s.ev.b first
     (k.reqs.find? (fun r => r.line == s.ev.b) = none ∨ first < k.nextId → exec .loadRequestArrival s = .next t) ∧
     (∀ r, k.reqs.find? (fun r => r.line == s.ev.b) = some r → k.nextId ≤ first → (r.cmp && k.atomicOn (s.ev.b ^^^ 1) k.nextId) = false →
       exec .loadRequestArrival s = .next ((t.l1Fill core r.slot s.ev.b r.cmp true 0).modCore core (fun k =>
         { k with reqs := k.reqs.filter (fun x => x.line != s.ev.b) })))) ∧
    (∀ a, k.atomics.find? (fun a => a.id == s.ev.b) = some a → a.wbs.any (fun i => k.wbs.any (fun w => w.id == i)) = false →
      a.lanes.any (fun q => k.atomicOn (lineOf q.pa) a.id) = false → exec .atomicAtHome s = .next (s.atomHome core a)) ∧
    (∀ o, k.longs.find? (fun o => o.id == s.ev.b) = some o → s.arrived core o = none → o.kind.loads.any (fun x => x.todo) = true →
      exec .longLatencyWriteComplete s = .next (s.retranslate core o.id)) ∧
    (∀ o a, k.longs.find? (fun o => o.id == s.ev.b) = some o → s.arrived core o = some a →
      ((k.warp o.slot).live = false → exec .longLatencyWriteComplete s =
        .next (s.modCore core (fun k => { k with longs := k.longs.filter (fun x => x.id != o.id) }))) ∧
      ((k.warp o.slot).live = true → (k.warp o.slot).heldBy o = false →
        (a.bad = 0 ∨ (k.warp o.slot).pathOf o a.bad = none → exec .longLatencyWriteComplete s = .next (s.finishLong core o a)) ∧
        (∀ p, a.bad ≠ 0 → (k.warp o.slot).pathOf o a.bad = some p →
          (s.lateNow core o p = true → exec .longLatencyWriteComplete s = .next (s.takeLate (s.teamOf (k.warp o.slot)) core o a p)) ∧
          (s.lateNow core o p = false → a.rec_ ≠ [] → exec .longLatencyWriteComplete s = .next s) ∧
          (s.lateNow core o p = false → a.rec_ = [] → exec .longLatencyWriteComplete s = .next (s.modCore core (fun k =>
            let fix := fun (x : LongOp) => { x with kind := .bad a.ws a.bad a.info a.again }
            { k with longs := modWhere (fun x => x.id == o.id) fix k.longs })))))) ∧
    exec .fetchBlockArrival s = .next (s.arriveBlock core s.ev.b s.ev.c s.ev.w.toNat) ∧
    exec .pageWalkStart s = .next (s.startWalk core) ∧
    exec .pageWalkComplete s = .next (s.endWalk core s.ev.b) ∧
    exec .mwaitWake s = .next (s.mwaitAgain core s.ev.b s.ev.c) ∧
    (∀ p m t, (s.warp core s.ev.b).path s.ev.c = some p → p.wait = .mwait m → m.poll = some t → t ≤ s.pkg.now →
      exec .mwaitPoll s = .next ((s.modPath core s.ev.b s.ev.c (fun p =>
        { p with wait := .mwait { m with poll := some (t + 256 * ncPeriod (s.die (dieOf core)).an) } })).mwaitAgain core s.ev.b s.ev.c)) ∧
    (s.refreshing core = s.ev.b → exec .loamRefreshWindowStart s = .next (s.modDie core (fun d =>
      if d.refresh.contains s.ev.b then d else { d with refresh := d.refresh ++ [s.ev.b] }))) ∧
    (s.refreshing core ≠ s.ev.b → exec .loamRefreshWindowEnd s = .next (s.modDie core (fun d =>
      { d with refresh := d.refresh.filter (fun g => g != s.ev.b) })))

/-- R29, R30, R65, R66, R68, R76, R178, R322, R351, R399: the events of launches and of waiting operations have their effects. -/
def Obligations.LaunchEventResults : Prop :=
  ∀ (s : State), let e := s.ev
    (∀ l, s.launch e.a = some l →
      (l.state = .queued → (s.vf l.vf).saving = false →
        (l.batch.isSome = true → exec .launchValidation s = .next (s.checkLaunch l)) ∧
        (l.batch = none → (∀ b t, s.unitRead l.unit (17 + 2 * l.vf) (l.acc l.space.toNat) l.addr 256 = .ok b t →
          exec .launchValidation s = .next (t.checkLaunch { l with lpb := b })) ∧
          (∀ q, s.unitRead l.unit (17 + 2 * l.vf) (l.acc l.space.toNat) l.addr 256 = .bad q → exec .launchValidation s = .next (s.refuse l 2)))) ∧
      (let cl := clusterOf e.b
       (e.c = 1 → (s.nextLaunch l.die).map (fun x => x.handle) = some l.handle → s.withQueued.canTake l e.b = true →
         (s.pushCore l l.next).map dieOf = some (dieOf e.b) → (sget [] (s.die (cl / 16)).clusterQ (cl % 16)).length < 64 →
         exec .teamPlacement s = .next ((s.modQueue cl (fun q => q ++ [(l.handle, l.next)])).modLaunch l.handle (fun x =>
           { x with next := x.next + (if x.twin then 2 else 1) }))) ∧
       (∀ q, e.c = 2 → (List.range 32).find? (fun q => s.stuckEntry q == some (l.handle, e.b)) = some q → exec .teamPlacement s =
         .next ((s.modQueue q (fun x => x.filter (fun x => x != (l.handle, l.started)))).modQueue cl (fun x => x ++ [(l.handle, l.started)]))) ∧
       (∀ core t, e.c ≠ 1 → e.c ≠ 2 → s.nextEntry cl = some (e.a, core) → s.canTake l e.b = true → clusterOf core = cl → s.placeOn l e.b = some t →
         let u := t.modQueue cl (fun q => q.filter (fun x => x != (l.handle, l.started)))
         exec .teamPlacement s = .next { u with launches := u.launches.map (fun x => { x with drained := x.drained.filter (fun q => q.2 != l.handle) }) })) ∧
      (∀ st, l.due = some st →
        (l.crec = 0 ∨ l.crec % 16 ≠ 0 → exec .launchCompletion s = .next (s.endLaunch l st)) ∧
        (l.crec ≠ 0 → l.crec % 16 = 0 →
          (∀ q t, s.unitWrite l.unit (l.acc l.space.toNat) (BitVec.ofNat 64 l.crec) (s.recordOf l st) = .ok q t →
            exec .launchCompletion s = .next (t.endLaunch l st)) ∧
          (∀ q, s.unitWrite l.unit (l.acc l.space.toNat) (BitVec.ofNat 64 l.crec) (s.recordOf l st) = .bad q →
            exec .launchCompletion s = .next ((s.recordFault l q).endLaunch l st))))) ∧
    (∀ t, s.team e.a e.b = some t →
      (t.state = .placed → t.startAt ≤ (s.core t.core).vc → exec .teamStart s = .next (s.modTeam t.handle t.idx (fun t => { t with state := .running }))) ∧
      ((s.haltSet t).all s.spent = true → exec .teamRetirement s = .next (s.startRetire t))) ∧
    (let k := s.die e.a
     k.balAt ≤ s.pkg.now →
      let moves := if k.wdthr = 0 then [] else (List.range 16).filterMap (fun c => (s.surplus e.a c).map (fun m => (c, m.1, m.2)))
      let q0 := fun (i : Nat) => sget [] k.clusterQ i
      let out := fun (q : SMap (List (Nat × Nat))) (m : Nat × Nat × Nat) => smod [] q m.1 (fun l => l.take (l.length - m.2.2))
      let in_ := fun (q : SMap (List (Nat × Nat))) (m : Nat × Nat × Nat) => smod [] q m.2.1 (fun l => l ++ (q0 m.1).drop ((q0 m.1).length - m.2.2))
      exec .neighbourBalancing s = .next (s.modDie e.a (fun k =>
        { k with clusterQ := moves.foldl in_ (moves.foldl out k.clusterQ), balAt := s.pkg.now + 4096 * ncPeriod k.an }))) ∧
    (let p := e.a
     let m := e.b
     let drop := fun (n : Nat) => let t := s.setCode (sget [] (s.part p).modFrames m) false
       (((t.setModState p m 0).modPart p (fun x => { x with modFrames := sput [] x.modFrames m [] })).modAnswer p m n)
     ((s.modEntry p m).state = 1 →
       (e.c = 0 → exec .moduleVerificationComplete s = .next ((s.setModState p m 2).modAnswer p m 0)) ∧
       (e.c ≠ 0 → exec .moduleVerificationComplete s = .next (drop 3))) ∧
     ((s.modEntry p m).state = 3 → (s.modEntry p m).res = 0 → exec .moduleReleaseComplete s = .next (drop 0))) ∧
    (∀ o, (s.core e.a).ops.find? (fun o => o.2.1 == 3) = some o →
      exec .icinvComplete s = .next ((s.modCore e.a (fun k => { k with ops := k.ops.filter (fun x => x.1 != o.1) })).opDone e.a 0 o.1)) ∧
    (∀ id kind a, (s.core e.a).ops.find? (fun o => decide (o.2.1 = 1 ∨ o.2.1 = 2) &&
        ((s.core e.a).warp e.b).paths.any (fun p => match p.wait with | .op i _ => i == o.1 | _ => false)) = some (id, kind, a) →
      exec .frscrubComplete s = .next (((s.scrubEnd (kind == 2) a).modCore e.a (fun k => { k with ops := k.ops.filter (fun o => o.1 != id) })).opDone
        e.a e.b id)) ∧
    (∀ b, s.callBatch e.a e.b e.c = some b → b.left = 0 →
      let w := s.dropBatch e.a e.b e.c
      (e.a = 0 → exec .scallBatchComplete s = .next (w.flagDec e.b 0 0 0 b.sig)) ∧
      (∀ t, e.a ≠ 0 → w.team e.a e.b = some t →
        let sl := t.slots.getD b.widx 32
        let v := if t.state = .checkpointed then
            w.setBytes (w.slotAt t.part t.cslot + 0x100 + 64 * t.replies.length) (wordsBytes [b.note, b.sig + b.widx * 2 ^ 8 + 2 ^ 63]) else w
        exec .scallBatchComplete s = .next (if t.out then v.modTeam t.handle t.idx (fun x =>
            { x with replies := x.replies ++ [{ widx := b.widx, sig := b.sig, note := b.note }] })
          else ((((w.modCore t.core (fun k => k.dropClean (fun _ => true))).post t.core 7 sl (BitVec.ofNat 64 b.note)).flagDec
            t.core sl t.handle t.idx b.sig).callsOver t.handle t.idx))))

/-- R75, R80, R82, R85, R260, R262, R263: the events of boundaries and groups have their effects. -/
def Obligations.BoundaryEventResults : Prop :=
  ∀ (s : State), let e := s.ev
    (let k := s.core e.a
     (k.bstage = .idle → k.bnext ≠ [] → exec .phaseBoundaryStart s =
       .next (s.setCore e.a { k with bserve := k.bnext, bnext := [], bat := k.vc, bstage := .drain })) ∧
     (k.bstage = .drain → k.accessing = false →
       exec .phaseBoundaryStart s = .next ((s.writeBack e.a (fun _ => true)).2.modCore e.a (fun k => { k with bstage := .writeback k.wbIds }))) ∧
     (∀ l, k.bstage = .writeback l → k.writtenBack = true →
       (k.bserve.any Boundary.isGroup = true → exec .phaseBoundaryComplete s = .next (s.modCore e.a (fun k => { k with bstage := .refresh }))) ∧
       (k.bserve.any Boundary.isGroup = false → exec .phaseBoundaryComplete s = .next (s.serve e.a)))) ∧
    (let go := fun (k : Core) => k.bstage == .refresh && k.bserve.contains (.group e.a e.b) && (k.bserve.filter Boundary.isGroup).all s.groupWritten
     exec .barrierRefresh s = .next (((s.cores.filter (fun q => go q.2)).map (fun q => q.1)).foldl (fun s c => s.serve c) s)) ∧
    (∀ t, s.team e.a e.b = some t → s.barFull t = true →
      exec .barrierRelease s = .next ((s.modTeam t.handle t.idx (fun t => { t with barMask := 0, barGen := (t.barGen + 1) % 2 ^ 32 })).modCore t.core
        (fun k => k.request (.bar t.handle t.idx)))) ∧
    (∀ c home, (s.die e.a).group e.b e.c = some c → s.groupHome e.b e.c = some home → c.home = false → c.complete = true → c.forwarded = false →
      let t := s.modGroup e.a e.b e.c (fun c => { c with forwarded := true })
      (c.op = 0 → exec .pisteArrivalForward s = .next t) ∧
      (c.op ≠ 0 → exec .pisteArrivalForward s = .next ((t.modGroup home e.b e.c (fun k =>
        { k with op := c.op, acc := if k.op = 0 then c.acc else gredOp (c.op - 1) k.acc c.acc })).syncGroup home e.b e.c))) ∧
    (s.groupReady e.a e.b = true →
      let acc := match (s.groupHome e.a e.b).bind (fun d => (s.die d).group e.a e.b) with | some c => c.acc | none => 0
      exec .groupRelease s = .next (s.soon (([0, 1].filter (fun d => ((s.die d).group e.a e.b).isSome)).map
        (fun d => { step := .groupReleaseMessage, a := d, b := e.a, c := e.b, w := acc })))) ∧
    (∀ c, (s.die e.a).group e.b e.c = some c →
      let ts := s.teams.filter (fun t => t.handle == e.b && dieOf t.core == e.a && t.arrived.contains e.c)
      let t := (s.modGroup e.a e.b e.c (fun c =>
        { c with arr := 0, acc := 0, op := 0, forwarded := false, gen := (c.gen + 1) % 2 ^ 32 })).syncGroup e.a e.b e.c
      let u := ts.foldl (fun s t => s.modTeam t.handle t.idx (fun t =>
        { t with arrived := t.arrived.filter (fun g => g != e.c), gredPending := if c.op = 0 then none else some e.w, freed := if t.out then e.c :: t.freed else t.freed })) t
      exec .groupReleaseMessage s = .next ((ts.filter (fun t => !t.out)).foldl (fun s t => s.modCore t.core (fun k =>
        if k.bnext.contains (.group e.b e.c) || k.bserve.contains (.group e.b e.c) then k else k.request (.group e.b e.c))) u)) ∧
    exec .sleepEnd s = .next (s.modPath e.a e.b e.c (fun p => match p.wait with
      | .sleep t => if t ≤ (s.core e.a).vc then { p with wait := .none } else p
      | _ => p)) ∧
    (∀ q l, (s.warp e.a e.b).active = q :: l → (s.warp e.a e.b).mismatched = true →
      let p := l.foldl lowerPath q
      let t := s.modPath e.a e.b p.id (fun p => { p with wait := .none })
      let c : Ctx := { core := e.a, slot := e.b, k := t.core e.a, w := (t.core e.a).warp e.b, p := { p with wait := .none }, word := 0, size := 1 }
      exec .refusionMismatch s = .next { t.takeTrap c 0x0F 0 (some p.mask) [] with cur := t.cur })

/-- R86, R331, R333, R337, R342, R344, R346, R348: the events of halts, handlers and contexts have their effects. -/
def Obligations.HandlerAndSaveEventResults : Prop :=
  ∀ (s : State), let e := s.ev
    (∀ t, s.team e.a e.b = some t →
      (∀ v, t.broadcastAt = some v → v ≤ (s.core t.core).vc →
        let go := fun (w : Warp) => if w.live && !w.stopped then
          { w with skidUntil := some ((s.core t.core).vc + 12), paths := w.paths.map (fun p => { p with skid := 0 }) } else w
        exec .haltBroadcast s = .next (t.slots.foldl (fun s sl => s.modWarp t.core sl go)
          (s.modTeam t.handle t.idx (fun t => { t with broadcastAt := none })))) ∧
      (s.entering t = true → exec .handlerEntry s = .next (s.enterHandler t)) ∧
      (t.out = false →
        let set := fun (f : Team → Team) => s.modTeam t.handle t.idx f
        (s.teamBlocked t = false → exec .blockedTeamEligible s = .next (set (fun x => { x with blockedSince := none, eligible := false }))) ∧
        (s.teamBlocked t = true →
          (t.blockedSince = none → exec .blockedTeamEligible s = .next (set (fun x => { x with blockedSince := some (s.core t.core).vc }))) ∧
          (∀ v, t.blockedSince = some v → exec .blockedTeamEligible s = .next (set (fun x =>
            { x with eligible := decide (v + 2 ^ 16 ≤ (s.core t.core).vc) && s.launches.any (fun l => l.part == t.part && s.waitsPlace l) }))))) ∧
      (∀ q, t.saveFor = some q → t.state ≠ .saving → t.state ≠ .checkpointed → t.state ≠ .retiring → s.teamStopped t = true →
        s.haltWaits t = false →
        (q.kill = true → exec .drainWindowEnd s = .next ((s.killTeam t).vfDone t.vf)) ∧
        (q.kill = false →
          (t.drainUntil = none → exec .drainWindowEnd s = .next ((s.haltSet t).foldl (fun w u => w.modTeam u.handle u.idx (fun x =>
            { x with drainUntil := some (s.pkg.now + 2 ^ 14 * ncPeriod (s.die (dieOf t.core)).an) })) s)) ∧
          (∀ d, t.drainUntil = some d → d ≤ s.pkg.now → (s.haltSet t).all s.drainable = true →
            exec .drainWindowEnd s = .next ((s.haltSet t).foldl (fun s u => s.closeOne u) s)))) ∧
      (∀ l v, s.launch e.a = some l → t.state = .checkpointed → t.placeable = true → t.half ≠ some 1 → s.canTake l e.c = true → t.saved = some v →
        (l.twin = false → ∀ r, s.restoreOne l t v e.c = some r → exec .restore s = .next (r.afterRestore v.grant t.handle t.idx)) ∧
        (l.twin = true → ∀ u v' r r', s.team e.a (e.b + 1) = some u → u.saved = some v' → (s.restorePair t v e.c).restoreOne l t v e.c = some r →
          r.restoreOne l u v' (e.c + 1) = some r' →
          exec .restore s = .next ((r'.afterRestore v.grant t.handle t.idx).afterRestore v'.grant u.handle u.idx)))) ∧
    (∀ t, s.teamOf (s.warp e.a e.b) = some t → s.watchdogDue e.a e.b = true →
      exec .handlerWatchdogExpiry s = .next (s.escalate t e.a e.b 0x21 0)) ∧
    (∀ l, s.launch e.a = some l →
      (s.wantsRoom l = false → exec .preemptionDecision s = .next (s.modLaunch l.handle (fun x => { x with waitSince := none }))) ∧
      (s.wantsRoom l = true →
        (l.waitSince = none → exec .preemptionDecision s = .next (s.modLaunch l.handle (fun x => { x with waitSince := some s.pkg.now }))) ∧
        (∀ t0, l.waitSince = some t0 →
          let starved := s.teams.any (fun t => t.part == l.part && t.eligible && !t.slots.isEmpty)
          let lower := s.teams.any (fun t => t.part == l.part && !t.slots.isEmpty && decide (s.prioOf t.handle < l.prio))
          let due := decide (t0 + micros (bits (s.part l.part).pmctl 63 48) ≤ s.pkg.now)
          let act := fun (s : State) (st : Bool) => match s.victims l st with
            | some (_, v) => v.foldl (fun s t => s.preempt l st t) s
            | none => s
          let w := if due && lower then (act s false).modLaunch l.handle (fun x => { x with waitSince := some s.pkg.now }) else s
          exec .preemptionDecision s = .next (if starved then act w true else w))))

/-- R280, R284, R290, R293, R294: the events of issue and power have their effects. That a droop's rise is D now above the last by more
than half of SLEW is the model's reading (log entry 36). -/
def Obligations.PowerEventResults : Prop :=
  ∀ (s : State), let e := s.ev
    exec .measuringIntervalEnd s = .next (s.modCore e.a (fun k => if k.vc < k.measAt then k
      else { k with measAt := (k.vc / 8192 + 1) * 8192, warps := smapv {} (fun w => if w.live then w.measured else w) k.warps })) ∧
    (65536 ≤ (s.warp e.a e.b).parked → exec .warpRotation s = .next (s.modWarp e.a e.b (fun w =>
      { w with rank := s.lowestRank e.a (s.prioOf w.handle) - 1, rot := satInc w.rot 65535 1, parked := 0 }))) ∧
    exec .pathBoost s = .next (s.modPath e.a e.b e.c (fun p => if 256 ≤ p.cand then { p with boosted := true } else p)) ∧
    exec .greedyLimit s = .next (s.modCore e.a (fun k => { k with greedy := smod (0, 0, 0) k.greedy e.b (fun g => (g.1, min g.2.1 64, g.2.2)) })) ∧
    exec .powerForcedIssue s = .next (s.modPath e.a e.b e.c (fun p => if 4096 ≤ p.powerHeld then { p with forced := true } else p)) ∧
    (let win := 32 * refUnit
     exec .slewWindowEnd s = .next (s.modPart e.a (fun p => if s.pkg.now < p.slewAt then p
       else { p with d0 := if s.pkg.now < p.slewAt + win then p.d1 else 0, d1 := 0, withheld := false, drooped := s.droopOn e.a, swith := if p.withheld || p.drooped then satInc p.swith (2 ^ 32 - 1) 1 else p.swith, slewAt := (s.pkg.now / win + 1) * win }))) ∧
    (let rose := fun (p : Nat) => decide ((s.part p).d0 + (s.part p).slew / 2 < (s.part p).d1)
     let hit := (railClusters e.a).filter (fun cl => (s.partsOfCluster cl).any rose)
     (hit = [] →
       let halve := fun (k : Cluster) => if k.lost ≠ 0 then k else { k with quant := k.quant - k.quant / 2, lost := k.quant / 2 }
       exec .droopTrip s = .next (((railClusters e.a).foldl (fun s cl => (s.gainPower cl).modCluster cl halve)
         (s.modRail e.a (fun k => { k with halfUntil := some (s.pkg.now + micros 1) }))).logEvent 1 e.a)) ∧
     (hit ≠ [] → exec .droopTrip s = .next ((dedup (hit.flatMap (fun cl => (s.partsOfCluster cl).filter rose))).foldl
       (fun s p => s.modPart p (fun q => { q with drooped := true, trips := satInc q.trips 65535 1 }))
       (s.modRail e.a (fun k =>
         { k with withheld := hit.map (fun cl => (cl, s.pkg.now + 64 * refUnit)) ++ k.withheld.filter (fun q => !hit.contains q.1) }))))) ∧
    exec .droopWithholdEnd s = .next (s.modRail e.a (fun r => { r with withheld := r.withheld.filter (fun q => decide (s.pkg.now < q.2)) })) ∧
    (∀ t, (s.rail e.a).halfUntil = some t → t ≤ s.pkg.now →
      exec .quantRestore s = .next ((railClusters e.a).foldl (fun s cl => (s.gainPower cl).modCluster cl (fun k => { k with quant := k.quant + k.lost, lost := 0 }))
        (s.modRail e.a (fun k => { k with halfUntil := none }))))

/-- R295, R296, R299 to R301: the events of clocks and rails have their effects. -/
def Obligations.GrantEventResults : Prop :=
  ∀ (s : State), let e := s.ev
    let k := s.cluster e.a
    let check := fun (s : State) (r : Nat) => s.modRail r (fun k =>
      let l := k.falls.filter (fun q => decide (s.railVote r ≤ q.2))
      { k with falls := if s.railVote r < k.volt && !l.any (fun q => q.2 == s.railVote r) then l ++ [(s.pkg.now + micros 50, s.railVote r)] else l })
    (let t := (s.rejoin e.a).formPools e.a
     let l := ((t.die e.a).pools.map (fun q => (q, t.poolLaunches q e.a))).filter (fun x => !x.2.isEmpty || x.1.clusters.any (fun c => (t.cluster c).veryHot))
     exec .arbiterRun s = .next (((l.foldl (fun t x => t.grant e.a x.1 x.2) t).modDie e.a
       (fun k => { k.settleSteps with arbAt := s.pkg.now + micros 100 })).ratioEvents s)) ∧
    (s.idleDue e.a = true →
      exec .clusterIdleRelease s = .next ((check ((s.modDie (e.a / 16) (fun d => (d.leavePool e.a).settleSteps)).modCluster e.a (fun k =>
        { k with pending := if k.gm = 0 ∧ k.gv = 0 then none else some (0, 0, s.pkg.now) })) (e.a / 2)).ratioEvents s)) ∧
    (∀ m v t, k.pending = some (m, v, t) →
      (s.quiet e.a = true → k.relockUntil = none →
        ((s.rail (e.a / 2)).volt < max m v → exec .grantApply s = .next (s.modRail (e.a / 2) (fun r =>
          if r.rises.any (fun q => decide (max m v ≤ q.2)) then r else { r with rises := r.rises ++ [(s.pkg.now + micros 20, max m v)] }))) ∧
        (max m v ≤ (s.rail (e.a / 2)).volt → exec .grantApply s = .next ((s.gainPower e.a).modCluster e.a (fun k =>
          { k with relockUntil := some (s.pkg.now + micros 2) })))) ∧
      (t + micros 50 ≤ s.pkg.now → s.quiet e.a = false →
        exec .quiescenceTimeout s = .next (check (s.modCluster e.a (fun k => { k with pending := none })) (e.a / 2)))) ∧
    exec .railSettled s = .next (check (s.modRail e.a (fun k =>
      { k with volt := (k.rises.filter (fun q => decide (q.1 ≤ s.pkg.now))).foldl (fun n q => max n q.2) k.volt, rises := k.rises.filter (fun q => decide (s.pkg.now < q.1)) })) e.a) ∧
    (∀ t, k.relockUntil = some t → t ≤ s.pkg.now →
      let u := s.modCluster e.a (fun k => match k.pending with
        | some (m, v, _) => if max m v ≤ (s.rail (e.a / 2)).volt then { k with relockUntil := none, gm := m, gv := v, pending := none } else { k with relockUntil := none }
        | none => { k with relockUntil := none })
      let u1 := u.modCluster e.a (fun k => { k with at_ := k.at_ + micros 2 })
      let v := (List.range 4).foldl (fun s i => s.modPair (4 * e.a + i) (fun p => { p with mcAt := p.mcAt + micros 2 })) u1
      exec .relockComplete s = .next (check v (e.a / 2))) ∧
    exec .railLower s = .next (s.modRail e.a (fun k =>
      { k with volt := (k.falls.filter (fun q => decide (q.1 ≤ s.pkg.now))).foldl (fun n q => min n (max q.2 (s.railVote e.a))) k.volt, falls := k.falls.filter (fun q => decide (s.pkg.now < q.1)) }))

/-- R352, R364 to R366, R376, R377: the events of the graphics engines have their effects. That a failed merger access gives status 4 is
the model's choice (log entry 21). -/
def Obligations.DisplayEventResults : Prop :=
  ∀ (s : State), let e := s.ev
    (∀ b, s.drawReady e.a = some b → s.launchFull e.a b.part = false →
      (∀ q, s.unitRead b.core 1 b.acc b.off 128 = .bad q → exec .rasterBatchAccept s = .next (s.failBatch e.a b 1)) ∧
      (∀ r t, s.unitRead b.core 1 b.acc b.off 128 = .ok r t →
        exec .rasterBatchAccept s = .next (if ({ b with record := r } : Batch).badRecord then t.failBatch e.a { b with record := r } 1
          else t.acceptBatch e.a { b with record := r }))) ∧
    (∀ b, s.toForward e.a = some b →
      exec .splitFrameForward s = .next ((s.modBatch e.a e.a b.num (fun b => { b with forwarded := true })).modDie (1 - e.a) (fun k =>
        { k with batches := k.batches ++ [{ b with accepted := false, launch := none, ended := false, status := 0, wbs := [] }] }))) ∧
    (∀ f, (s.die e.a).frags.find? (fun f => f.id == e.b) = some f →
      (s.dead f = true → exec .mergerPerform s = .next (s.dropFrag e.a f.id)) ∧
      (∀ src zf b, s.dead f = false → f.out = some (src, zf) → (s.die e.a).batchOf f = some b → (s.die e.a).first f = true →
        (∀ bad t, s.output b f src zf = .ok bad t → exec .mergerPerform s = .next ((if bad then t.modBatch e.a b.home b.num (fun b =>
          { b with status := if b.status % 256 = 0 then 4 else b.status }) else t).dropFrag e.a f.id)) ∧
        (∀ t, s.output b f src zf = .wait t → exec .mergerPerform s = .next t))) ∧
    (∀ b q t, (s.die e.a).batches.find? (fun b => b.home == e.a && b.num == e.b) = some b → s.batchDone b = true →
      let other := (s.die (1 - e.a)).batches.find? (fun x => x.home == e.a && x.num == b.num)
      let st := lowerStatus b.status (match other with | some o => o.status | none => 0)
      s.unitWrite b.core b.acc (b.off + 0x50) (leBytes st 8) = .ok q t →
      let u := t.join (b.handle, b.team, b.widx) b.sig
      exec .drawBatchComplete s = .next { u with dies := smapv {} (fun k =>
        { k with batches := k.batches.filter (fun x => !(x.home == e.a && x.num == b.num)) }) u.dies }) ∧
    exec .regulatorTick s = .next (s.modHead e.a (fun h => if h.enabled && decide (h.tickAt ≤ s.pkg.now) then h.tick s.pkg.now else h)) ∧
    exec .verticalBlank s = .next (s.modHead e.a (fun h =>
      { h with dhbase := h.dhbaseNext.getD h.dhbase, dhbaseNext := none, fifo := [], fetchAt := 0, line := 0, dhctl := if h.enabled then setBits h.dhctl 48 16 (bits h.dhctl 63 48 + 1) else h.dhctl })) ∧
    (let t := if (s.head e.a).enabled then s.fetchPixels e.a e.b else s
     exec .scanOutLine s = .next (t.modHead e.a (fun h =>
       let n := h.width * h.pixel
       let got := h.fifo.take n
       if !h.enabled || decide (h.height ≤ h.line) then h
       else { h with fifo := h.fifo.drop n, line := h.line + 1, scanned := got ++ List.replicate (n - got.length) 0, cnt1 := if got.length < n then bump16 h.cnt1 16 else h.cnt1 })))

/-- R103, R140, R175, R182, R231, R243, R334, R376, R381, R384, R385, R408: the events of register writes have their effects. -/
def Obligations.RegisterEventResults : Prop :=
  ∀ (s : State), let e := s.ev
    exec .registerWrite s = .next (s.csrStore e.a e.b e.w) ∧
    exec .srseedWrite s = .next (s.modWarp e.a e.b (fun w => { w with srseed := bits e.w 31 0, sr := srSeeded (bits e.w 31 0) })) ∧
    exec .rferrClear s = .next (s.modCore e.a (fun k => { k with rferr := clearErr k.rferr 24 })) ∧
    exec .sperrClear s = .next (s.modCore e.a (fun k => { k with sperr := clearErr k.sperr 24 })) ∧
    exec .l1errClear s = .next (s.modCore e.a (fun k => { k with l1err := clearErr k.l1err 46 })) ∧
    exec .scselClr s = .next (s.modDie e.a (fun d => { d with capev := sput 0 d.capev d.scsel 0, xev := sput 0 d.xev d.scsel 0 })) ∧
    (let h := bits (s.part e.a).dhsel 1 0
     exec .dhselClr s = .next (if Nat.testBit (s.part e.a).headMask h then
       s.modHead h (fun h => { h with cnt0 := 0, cnt1 := keepBits h.cnt1 34 32 }) else s)) ∧
    exec .dhbaseWrite s = .next (s.modHead e.a (fun h => { h with dhbaseNext := some (keepBits e.w 49 8) })) ∧
    (let good := bits e.w 63 14 = 0 ∧ (bit e.w 12 = true → (s.modEntry e.a (bits e.w 11 0)).state = 2)
     exec .hmodWrite s = .next (s.modPart e.a (fun q => { q with hmod := if good then keepBits e.w 12 0 else q.hmod ||| 0x2000 }))) ∧
    (let g := bits e.w 9 0
     exec .gkindWrite s = .next (s.modPkg (fun k => if g < 720 ∧ s.granuleFree g = true
       then { k with gran := g, gkErr := false, kinds := sput 0 k.kinds g (bits e.w 11 10) } else { k with gran := g, gkErr := true }))) ∧
    (∀ p, s.partOfVf e.a = some p → exec .vfqEnable s = .next (s.modVf e.a (fun v => { v with ways := (s.part p).ways }))) ∧
    ((s.taskRecords e.a).isEmpty = false →
      exec .vfqRunSet s = .next ((s.ringLoad e.a).soon [{ step := .arbiterRun, a := 0 }, { step := .arbiterRun, a := 1 }])) ∧
    (let t := ((s.taskRecords e.a).take 256).zipIdx.foldl (fun s q => s.setBytes (s.ringBase e.a + 256 * q.2) (q.1.record 0)) s
     let mine := fun (e' : Nat × Nat) => match t.launch e'.1 with | some l => l.vf == e.a | none => false
     exec .vfqRunClear s = .next
       { t with dies := smapv {} (fun d => { d with clusterQ := smapv [] (fun q => q.filter (fun e' => !mine e')) d.clusterQ }) t.dies
                launches := modWhere (fun l => l.vf == e.a) (fun l => { l with next := l.started }) t.launches }) ∧
    exec .skclkWrite s = .next ((s.modPkg (fun k => { k with skclk := sput 0 k.skclk e.a (bits e.w 3 0) })).modCore (256 + e.a) (fun k =>
      { k with svcBusy := some (s.pkg.now + 10000 * refUnit) }))

/-- R390, R392, R393, R395: the events of the links have their effects. `s.ev` holds the port or VF, the number and the request, which come
from outside (log entry 3). A doorbell with a full queue or a misaligned address giving HANDLE 0, and a UCIe failure naming its block,
are the model's choices (log entries 23 and 24). -/
def Obligations.LinkEventResults : Prop :=
  ∀ (s : State), let e := s.ev
    (∀ p, s.partOfVf e.a = some p → (s.vf e.a).enabled = true → (s.vf e.a).bind = 1 → (s.vf e.a).saving = false →
      (e.c = 1 → exec .doorbell s = .next (s.modVf e.a (fun v => { v with dbSpace := BitVec.ofNat 16 e.w.toNat }))) ∧
      (e.c ≠ 1 →
        (s.launchFull (e.a / 256) p = true ∨ e.w.toNat % 64 ≠ 0 → exec .doorbell s = .next (s.modVf e.a (fun v => { v with dbHandle := 0 }))) ∧
        (s.launchFull (e.a / 256) p = false → e.w.toNat % 64 = 0 →
          let l : Launch := { handle := 0, die := e.a / 256, vf := e.a, part := p, level := .supervisor, space := (s.vf e.a).dbSpace, addr := e.w, doms := [(s.vf e.a).dbSpace], csig := 15 }
          exec .doorbell s = .next ((s.submit l).2.modVf e.a (fun v => { v with dbHandle := (s.submit l).1 }))))) ∧
    (∀ r, e.req = some r → (s.vf r.vf).enabled = true →
      ((s.vf r.vf).bind = 1 →
        exec .pcieInboundRequest s = .next (s.inbound 8 e.b r (128 * (r.vf / 256)) 4 (s.vf r.vf).dbSpace).2) ∧
      (∀ q, (s.vf r.vf).bind = e.a + 2 → s.partOfVf r.vf = some q →
        Nat.testBit (s.part q).portMask e.a = true → (s.port e.a).down = false →
        let o := s.inbound e.a e.b r (128 * portDie e.a) 3 r.space
        (o.1 = none → exec .flefinInboundRequest s = .next o.2) ∧
        (∀ b, o.1 = some b → exec .flefinInboundRequest s = .next (o.2.modPort e.a (fun k => { k with answers := k.answers ++ [(e.b, b)] }))))) ∧
    (∀ t, (s.port e.a).txns.find? (fun t => t.id == e.b) = some t →
      exec .flefinResponse s = .next (s.endTxn e.a t e.data false) ∧
      (t.sentAt + micros 100 ≤ s.pkg.now → exec .flefinTimeout s = .next (s.failTxn e.a t))) ∧
    exec .flefinPortFailure s = .next (((s.port e.a).txns.foldl (fun s t => s.failTxn e.a t) s).modPort e.a (fun k => { k with down := true })) ∧
    exec .flefinPortTraining s = .next (s.modPort e.a (fun k => { k with down := false })) ∧
    (let t := s.logEvent 2 e.a
     (e.b = 0 → exec .ucieRetryFailure s = .next { t with memPoison := sput false t.memPoison e.a true }) ∧
     (e.b ≠ 0 → exec .ucieRetryFailure s = .next (t.modCore e.c (fun k => k.modL1 (e.a / 2) (fun l =>
       { l with bad := l.bad ||| BitVec.ofNat 2 (2 ^ (e.a % 2)) })))))

/-- R382, R402, R404, R406, R409: the events of boot, power and partitions have their effects. Readings and trips come from outside (log
entry 3). Which state a standby loses, and the codes of a malformed descriptor, are the model's reading (log entries 25 and 26). -/
def Obligations.BootEventResults : Prop :=
  ∀ (s : State), let e := s.ev
    (s.pkg.powered = false → exec .powerOnReset s = .next s.cold.boot) ∧
    (s.pkg.powered = true → s.pkg.bootStage = 0 → exec .powerOnReset s = .next s.boot) ∧
    (s.pkg.standby = false → s.launches = [] → s.teams = [] →
      let t := s.settleAll
      exec .standbyEntry s = .next { t with cores := t.cores.filter (fun q => q.1 == 256), pairs := [], opened := none, turns := [], chosen := [], taken := [], pkg := { t.pkg with standby := true } }) ∧
    exec .standbyWake s = .next (s.modPkg (fun k => { k with standby := false })) ∧
    exec .thermalTrip s = .next { s.modPkg (fun k => { k with powered := false, tripCause := some { kind := 3 + e.a, unit := e.b } }) with agenda := [], opened := none, turns := [], chosen := [] } ∧
    (let t := e.w.toNat
     let u := if e.a = 0 then s.modCluster e.b (fun k =>
         { k with hot := decide (100 ≤ t) || (k.hot && decide (97 ≤ t)), veryHot := decide (108 ≤ t) })
       else s.modPkg (fun k =>
         { k with lpddrHot := sput 0 k.lpddrHot e.b (if 95 ≤ t then 2 else if 85 ≤ t then 1 else 0) })
     exec .temperatureReading s = .next (if 115 ≤ t then u.soon [{ step := .thermalTrip, a := e.a, b := e.b }] else u)) ∧
    (let b := s.bytes (s.descAt e.a) 256
     let n : Part := { valid := true, desc := leBytes (fieldAt b 0 8 / 2 * 2 + 1) 8 ++ b.drop 8, keyed := true }
     let img := s.kernelImage b
     let inUse := s.teams.any (fun t => !t.slots.isEmpty && Nat.testBit (n.pairs (dieOf t.core)) (t.core % 128 / 2))
     ((s.part e.a).valid = true → exec .partitionCreate s = .next (s.pctlEnd 1)) ∧
     ((s.part e.a).valid = false →
       ((badDesc b || s.descTaken e.a n) = true → exec .partitionCreate s = .next (s.pctlEnd 2)) ∧
       ((badDesc b || s.descTaken e.a n) = false →
         (inUse = true → exec .partitionCreate s = .next (s.pctlEnd 3)) ∧
         (inUse = false →
           (s.fwCode img 2 ≠ 0 → exec .partitionCreate s = .next (s.pctlEnd 4)) ∧
           (s.fwCode img 2 = 0 →
             let t := ((s.measure 2 (fwSvn img) (Config.sha384 (img.take 0x1000 ++ fwBody img))).modPart e.a (fun _ => n)).startSvc n.svc (fieldAt b 0x50 8 + 0x1000) .hypervisor
             exec .partitionCreate s = .next (((t.setBytes (t.descAt e.a) (n.desc.take 8)).modPkg (fun k =>
               { k with bootStage := max k.bootStage 5 })).pctlEnd 0)))))) ∧
    (let q := s.part e.a
     (q.valid = false → exec .partitionDestroy s = .next (s.pctlEnd 1)) ∧
     (q.valid = true →
       let busy := s.launches.any (fun l => l.part == e.a) || (List.range q.vfCount).any (fun i => bit (s.vf (q.vfBase + i)).vfq 0)
       (busy = true → exec .partitionDestroy s = .next (s.pctlEnd 5)) ∧
       (busy = false →
         let t := s.modCore q.svc (fun k => { vc := k.vc, at_ := k.at_, measAt := k.measAt, wbs := k.wbs, nextId := k.nextId })
         let u := t.setBytes (t.descAt e.a) (leBytes (t.num (t.descAt e.a) 8 / 2 * 2) 8)
         exec .partitionDestroy s = .next (({ u with dies := smapv {} (fun d =>
           { d with pools := d.pools.filter (fun x => x.part != e.a) }) u.dies }.modPart e.a (fun _ => {})).pctlEnd 0))))

/-- R32, R36, R41, R47: decoding the words of a well-formed instruction gives it back, with its control field, in every slot where it may
stand (format L may not stand in slot 7). The forms that `scall`'s OP has on a service core decode there (R401). -/
def Obligations.DecodeOfEncode : Prop :=
  ∀ (c : Ctl) (i : Instr) (slot : Nat) (rest : List Byte), wf i = true → encode c i ≠ [] →
    ((encode c i).length = 2 → slot % 8 ≠ 7) →
    decode (isSvcForm i) slot (wordBytes (encode c i) ++ rest) = .ok (c, i, rest)

/-- R32, R36, R41, R47: decoding loses no bit and accepts no illegal word. A decoded instruction breaks no condition of R41, and encoding it
gives back the very bytes it was read from. -/
def Obligations.EncodeOfDecode : Prop :=
  ∀ (svc : Bool) (slot : Nat) (bytes rest : List Byte) (c : Ctl) (i : Instr), decode svc slot bytes = .ok (c, i, rest) →
    wf i = true ∧ bytes = wordBytes (encode c i) ++ rest

/-- R19, R25, R33, R34, R36: what one step does. The agenda, the turns and the chosen paths are the model's schedule of a vc (log entry 3).
The last clause spells out when the word at the program counter of a path runs. -/
def Obligations.StepRunsTheDecodedInstruction : Prop :=
  ∀ (s : State), s.pkg.powered = true →
    (∀ e r, s.agenda = e :: r → step s = exec e.step { s with agenda := r, ev := e }) ∧
    (s.agenda = [] → s.turns = [] → s.chosen = [] → step s = .next s.tick) ∧
    (∀ t r i u v, s.agenda = [] → s.turns = t :: r → ({ s with turns := r } : State).prepare t.core t.slot t.path = .go i u →
      exec i u = .next v → step s = .next (u.noteTrial t v)) ∧
    (∀ t r, s.agenda = [] → s.turns = [] → s.chosen = t :: r →
      let v : State := { s with chosen := r }
      (∀ i u, v.prepare t.core t.slot t.path = .go i u → step s = exec i u) ∧
      (∀ u c cause info fl, v.prepare t.core t.slot t.path = .trap u c cause info fl → step s = .next (u.takeTrap c cause info none fl)) ∧
      (∀ k u, v.prepare t.core t.slot t.path = .none k u → step s = .next (u.noteStall t k)) ∧
      (∀ p q bytes ctl i rest, let k := s.core t.core; let w := k.warp t.slot
        w.path t.path = some p → w.live = true → w.admitted = true → (w.stopped = false ∨ p.handler = true) → p.wait = .none →
        w.holdUntil ≤ k.vc → p.ready ≤ k.vc → p.pc.toNat < p.csize →
        let off := (blockBase p.pc).toNat
        let u := v.enterBlock t.core t.slot t.path off (decide (p.ready = 0))
        (u.warp t.core t.slot).path t.path = some q → q.buf.find? (fun b => b.1 == off) = some (off, .ready bytes) →
        let sl := p.pc.toNat % 64 / 8
        let bs := bytes.drop (8 * sl)
        let word := wordOfBytes bs
        gapMet k.vc p.lastIssue (ctlOf word).gap = true → waitMet w.fprev (ctlOf word).wait = true →
        decode (isSvc t.core) sl bs = .ok (ctl, i, rest) →
        step s = exec i { u with cur := { core := t.core, slot := t.slot, path := t.path, word := word, size := (bs.length - rest.length) / 8, res := none } }))

/-- R22, R33, R34, R41: what a chosen path meets before its instruction's own meaning. A word whose GAP or WAIT is not met is not decoded,
since the check is part of issue evaluation. That GAP is charged before WAIT is the model's reading of R292 (log entry 3). -/
def Obligations.WhatHoldsAPathBack : Prop :=
  ∀ (s : State) (t : Turn) (r : List Turn) (p : Path), s.pkg.powered = true → s.agenda = [] → s.turns = [] → s.chosen = t :: r →
    let v : State := { s with chosen := r }
    let k := s.core t.core; let w := k.warp t.slot
    w.path t.path = some p → w.live = true → w.admitted = true → (w.stopped = false ∨ p.handler = true) → p.wait = .none →
    w.holdUntil ≤ k.vc → p.ready ≤ k.vc →
    let c : Ctx := { core := t.core, slot := t.slot, k := k, w := w, p := p, word := 0, size := 1 }
    (p.csize ≤ p.pc.toNat → step s = .next (v.takeTrap c 0x04 p.pc none [])) ∧
    (∀ q bytes, p.pc.toNat < p.csize →
      let off := (blockBase p.pc).toNat
      let u := v.enterBlock t.core t.slot t.path off (decide (p.ready = 0))
      (u.warp t.core t.slot).path t.path = some q → q.buf.find? (fun b => b.1 == off) = some (off, .ready bytes) →
      let sl := p.pc.toNat % 64 / 8
      let bs := bytes.drop (8 * sl)
      let word := wordOfBytes bs
      (gapMet k.vc p.lastIssue (ctlOf word).gap = false → step s = .next (u.noteStall t .gap)) ∧
      (gapMet k.vc p.lastIssue (ctlOf word).gap = true → waitMet w.fprev (ctlOf word).wait = false → step s = .next (u.noteStall t .waitf)) ∧
      (∀ reason pos, gapMet k.vc p.lastIssue (ctlOf word).gap = true → waitMet w.fprev (ctlOf word).wait = true →
        decode (isSvc t.core) sl bs = .error (.illegal reason pos) →
        step s = .next (u.takeTrap { c with word := word } 0x01 (illegalInfo reason pos) none [])))

/-- R330, R41, R409: whatever a program does ends in its effect, a wait or a trap, so the machine goes on; only an unpowered package
executes nothing. -/
def Obligations.EveryInstructionAnswers : Prop :=
  (∀ (i : Instr) (s : State), ∃ t, exec i s = .next t) ∧
  (∀ (s : State), (s.pkg.powered = true ∨ (∃ r e, s.agenda = e :: r ∧ e.step = .powerOnReset)) → ∃ t, step s = .next t) ∧
  (∀ (s : State), s.pkg.powered = false → (∀ r e, s.agenda = e :: r → e.step ≠ .powerOnReset) → step s = .fault .noPower)

/-- R68, R119, R286, R294, R319, R342, R376, R384, R387, R405, R407, R408: the reset values that the spec's register tables give. -/
def Obligations.ResetValues : Prop :=
  let s := State.reset
  s.pkg.now = 0 ∧ s.pkg.bootStage = 0 ∧ s.pkg.bootCode = 0 ∧ s.pkg.bootSvn = 0 ∧ s.teams = [] ∧ s.launches = [] ∧
    (∀ a, s.fotOf a = 0x001F0000 ∧ s.loamFotOf a = 0x001F0000) ∧
    (∀ n, sget 0 s.pkg.skclk n = if n = 0 then 15 else 0) ∧
    (∀ n, let k := s.core n
      k.budget = 115 ∧ k.rferr = 0 ∧ k.rfcor = 0 ∧ k.sperr = 0 ∧ k.l1err = 0 ∧ k.stlHits = 0 ∧ k.stlWait = 0) ∧
    (∀ n, (s.die n).wdthr = 4 ∧ (s.die n).scsel = 0) ∧
    (∀ n, (s.cluster n).quant = 0 ∧ (s.cluster n).pamax = 4096 ∧ (s.cluster n).count = 0 ∧ (s.cluster n).pwith = 0 ∧ (s.cluster n).cap = 496) ∧
    (∀ n, let p := s.part n
      p.valid = false ∧ p.slew = 2048 ∧ p.trips = 0 ∧ p.swith = 0 ∧ p.pmctl = 0x0032FFFF00000064 ∧ p.s2base = 0 ∧ p.s2fq = 0 ∧
      p.modtab = 0 ∧ p.ctxpool = 0 ∧ p.tevq = 0 ∧ p.callq = 0 ∧ p.vfsel = 0 ∧ p.hmod = 0 ∧ p.pstov = 0 ∧ p.dhsel = 0) ∧
    (∀ n, (s.vf n).spbase = 0 ∧ (s.vf n).fpool = 0 ∧ (s.vf n).vfq = 0 ∧ (s.vf n).ways = 0xFFFFFF) ∧
    (∀ n, let h := s.head n
      h.dhctl = 0 ∧ h.dhbase = 0 ∧ h.dhgeom = 0 ∧ h.dhwm = 0x400100 ∧ h.cnt0 = 0 ∧ h.cnt1 = 0) ∧
    (∀ u, s.qcfgOf u = BitVec.ofNat 64 (64 * 2 ^ 16 + (if u % 2048 = 2 then 0 else 2) * 2 ^ 32) ∧ s.qwaysOf u = 0xFFFFFF)

/-- R225, R308: the memory that reset leaves. That an unlisted byte reads 0 is the model's choice (log entry 1). -/
def Obligations.ResetMemoryForm : Prop :=
  State.reset.Inv ∧ Memory.wf State.reset.mem ∧ ∀ a, State.reset.byte a = 0

/-- R12, R225: the bytes of memory at their home. The canonical form, addresses strictly rising and no listed byte equal to the value of an
unlisted one, is the model's. -/
def Obligations.MemoryReadsWhatWasWritten : Prop :=
  (∀ (s : State), Memory.wf s.mem →
    (∀ a l, Memory.wf (s.setBytes a l).mem ∧ (s.setBytes a l).bytes a l.length = l ∧
      ∀ b, (s.setBytes a l).byte b = if a ≤ b then l.getD (b - a) (s.byte b) else s.byte b) ∧
    (∀ a n v, (s.setNum a n v).num a n = v % 256 ^ n)) ∧
  (∀ (s t : State), Memory.wf s.mem → Memory.wf t.mem → (∀ a, s.byte a = t.byte a) → s.mem = t.mem)

/-- R49: the scalar profile of a service core, by constructor, and what the rest of the map is there: the decoder's answer, and the trap
that a chosen path of a service core takes on such a word at its program counter. -/
def Obligations.ServiceProfile : Prop :=
  ∀ (c : Ctl) (i : Instr) (w : Word) (r : List Word) (slot : Nat) (lit : Word), encode c i = w :: r → wf i = true →
    let profile : Bool := match i with
      | .nop _ | .br _ | .brany _ | .brall _ | .brx _ | .jmpx _ | .call _ | .ret _ | .exit _ | .trap _ | .ipref _ | .yield _ => true
      | .add _ | .sub _ | .mul _ | .mulh _ | .div _ | .rem _ | .and _ | .or _ | .xor _ | .shl _ | .shr _ | .sar _ | .min _ | .max _ | .bitc _ | .sel _ => true
      | .addi _ | .andi _ | .ori _ | .xori _ | .shi _ | .lim _ _ | .mov _ | .movDomain _ | .lea _ | .cmp _ | .cmpi _ | .csrr _ | .csrw _ | .csrs _ => true
      | .fmtset _ | .fmtsetM _ | .dset _ | .rdtime _ => true
      | .pand _ | .por _ | .pxor _ | .pnot _ | .pmov _ | .pcount _ | .pfirst _ | .pset _ | .pget _ => true
      | .ld _ | .st _ | .atom _ | .cas _ | .fence _ | .mwait _ | .scall _ | .scallUp _ | .scallReply _ | .scallLaunch _ => true
      | .eret _ | .eretSkip _ | .mapfp _ | .tlbinvAll _ | .tlbinvSpace _ | .tlbinvPage _ | .tlbinvS2all _ | .tlbinvS2page _ => true
      | .icinvMod _ | .icinvRange _ | .modreg _ | .modrel _ | .modrelNb _ | .frscrub _ | .fotset _ | .wmset _ | .vfsave _ | .vfrest _ => true
      | .ctxsave _ | .ctxsaveKill _ | .ctxrest _ => true
      | _ => false
    (profile = false → decodeWord true slot w lit = .error (.illegal 0x0B 40)) ∧
    (profile = true → ∀ p, decodeWord true slot w lit ≠ .error (.illegal 0x0B p)) ∧
    (profile = false → ∀ (s : State) (t : Turn) (l : List Turn) (p q : Path) (bytes : List Byte), s.pkg.powered = true → s.agenda = [] →
      s.turns = [] → s.chosen = t :: l → 256 ≤ t.core → let k := s.core t.core; let n := k.warp t.slot
      n.path t.path = some p → n.live = true → n.admitted = true → (n.stopped = false ∨ p.handler = true) → p.wait = .none →
      n.holdUntil ≤ k.vc → p.ready ≤ k.vc → p.pc.toNat < p.csize →
      let off := (blockBase p.pc).toNat
      let u := ({ s with chosen := l } : State).enterBlock t.core t.slot t.path off (decide (p.ready = 0))
      (u.warp t.core t.slot).path t.path = some q → q.buf.find? (fun b => b.1 == off) = some (off, .ready bytes) →
      let bs := bytes.drop (8 * (p.pc.toNat % 64 / 8))
      8 ≤ bs.length → wordOfBytes bs = w → gapMet k.vc p.lastIssue c.gap = true → waitMet n.fprev c.wait = true →
      step s = .next (u.takeTrap { core := t.core, slot := t.slot, k := k, w := n, p := p, word := w, size := 1 } 0x01 (illegalInfo 0x0B 40) none []))

/-- R48: the privilege trap of row 0xE. `c.p.level` is the level of the issuing path; the trap carries the word (R329) and comes before any
source is read and whatever the guard (R43). -/
def Obligations.PrivilegedRow : Prop :=
  ∀ (s : State) (c : Ctx), s.ctx = some c → c.blocked = false →
    let trap : Host.Outcome State Fault Refusal := .next (s.takeTrap c 0x02 c.word none [])
    (c.p.level = .user → ∀ f,
      exec (.eret f) s = trap ∧ exec (.eretSkip f) s = trap ∧ exec (.mapfp f) s = trap ∧ exec (.tlbinvAll f) s = trap ∧
      exec (.tlbinvSpace f) s = trap ∧ exec (.tlbinvPage f) s = trap) ∧
    (c.p.level = .user ∨ c.p.level = .supervisor → ∀ f,
      exec (.tlbinvS2all f) s = trap ∧ exec (.tlbinvS2page f) s = trap ∧ exec (.icinvMod f) s = trap ∧ exec (.icinvRange f) s = trap ∧
      exec (.modreg f) s = trap ∧ exec (.modrel f) s = trap ∧ exec (.modrelNb f) s = trap ∧ exec (.frscrub f) s = trap ∧
      exec (.fotset f) s = trap ∧ exec (.wmset f) s = trap ∧ exec (.vfsave f) s = trap ∧ exec (.vfrest f) s = trap ∧
      exec (.ctxsave f) s = trap ∧ exec (.ctxsaveKill f) s = trap ∧ exec (.ctxrest f) s = trap)

/-- R154: `vaddi`. The result is readable 3 vc after issue (R95, R150). -/
def Obligations.VectorAddImmediate : Prop :=
  (∀ (s u : State) (c : Ctx) (f : FmtI), Ready s c (some (c.guard f.g)) [.vs f.s1 24 1 3, .vd f.d 1] u →
    ∃ v : Nat → Lane, (∀ l, ((v l).toNat : Int) = (((c.vv f.s1 l).toNat : Int) + f.imm.toInt) % 2 ^ 32) ∧
      exec (.vaddi f) s = c.done (c.lanes u (c.guard f.g) 3 f.d v)) ∧
  (∀ imm : BitVec 19, -262144 ≤ imm.toInt ∧ imm.toInt ≤ 262143) ∧
  decodeTableWord 64 0x00004F0202FFFFE0 = some (.vaddi { d := 2, s1 := 2, imm := BitVec.ofInt 19 (-1), g := 0 }) ∧
  decodeTableWord 64 0x0000400304050020 = some (.vadd { d := 3, s1 := 4, s2 := 5, s3 := 0, md := 1, g := 0 })

/-- R78: `elect`. The predicate is sent to physical register `c.predPhys f.d` in the active lanes `c.p.mask`; lane l of the value sent is 1
exactly where the rule says. -/
def Obligations.ElectOneLane : Prop :=
  (∀ (s : State) (c : Ctx) (f : FmtA), Issuing s c →
    ∃ v : Mask, (∀ l, l < 64 → (v.getLsbD l = true ↔ (c.guard f.g).getLsbD l = true ∧ ∀ j, j < l → (c.guard f.g).getLsbD j = false)) ∧
      exec (.elect f) s = c.done ((s.land c 2 (.p (c.predPhys f.d) c.p.mask v)).advance c)) ∧
  (∀ f : FmtA, wf (.elect f) = true ↔
    f.s1 = 0 ∧ f.s2 = 0 ∧ f.s3 = 0 ∧ f.md = 0 ∧ f.g ≠ 16 ∧ 1 ≤ f.d.toNat ∧ f.d.toNat ≤ 15) ∧
  (∀ f : FmtA, 1 ≤ f.d.toNat → f.d.toNat ≤ 15 → (f.s3 ≠ 0 → f.s2 = 0 → f.s1 = 0 → f.md = 0 → legality (.elect f) = some (7, 8)) ∧
    (f.s2 ≠ 0 → f.s3 = 0 → f.s1 = 0 → f.md = 0 → legality (.elect f) = some (7, 16)) ∧
    (f.s1 ≠ 0 → f.s3 = 0 → f.s2 = 0 → f.md = 0 → legality (.elect f) = some (7, 24)) ∧
    (f.md ≠ 0 → legality (.elect f) = some (7, 5))) ∧
  (∀ f : FmtA, f.d = 0 → f.s1 = 0 → f.s2 = 0 → f.s3 = 0 → f.md = 0 → legality (.elect f) = some (7, 32))

/-- R330, R331, R333, R335: what taking a trap does, as `State.takeTrap`, which every meaning that traps ends in, does it. `fl` is the fault
record of the lanes (R325). -/
def Obligations.TrapEntry : Prop :=
  ∀ (s : State) (c : Ctx) (cause : Nat) (info : Word) (m : Option Mask) (fl : List (Nat × Word × Word)) (t : Team),
    s.ctx = some c → c.svc = false → s.teamOf c.w = some t → c.p.handler = false → c.w.skidUntil = none → (∀ v ∈ s.haltSet t, v.state ≠ .halted) →
    let u := s.takeTrap c cause info m fl
    let w := u.warp c.core c.slot
    w.stopped = true ∧
    w.halt = some { cause := cause, async := false, info := info, pc := (if cause = 0x10 then blockBase c.p.pc + 64 else c.p.pc), path := c.p.id, lanes := m.getD (laneBit (lowestLane c.p.mask)), insn := c.p.pc, size := c.size } ∧
    (∀ p ∈ w.paths, p.skid = 0) ∧
    (w.x = c.w.x ∧ w.v = c.w.v ∧ w.p = c.w.p ∧ w.d = c.w.d ∧ w.f = c.w.f ∧ w.fflags = c.w.fflags ∧ w.lc = c.w.lc ∧ w.ec = c.w.ec ∧
      w.mp = c.w.mp ∧ w.mflags = c.w.mflags ∧ w.xe = c.w.xe ∧ w.ve = c.w.ve ∧ w.land = c.w.land ∧ w.stack = c.w.stack ∧
      w.hcause = c.w.hcause ∧ w.hinfo = c.w.hinfo ∧ w.hpc = c.w.hpc ∧ w.hmask = c.w.hmask ∧ w.hseq = c.w.hseq) ∧
    (fl ≠ [] → w.flmask = maskOf (fl.map (fun q => q.1))) ∧
    (∃ t', u.team t.handle t.idx = some t' ∧ t'.state = .halted ∧ t'.haltWarp = some c.w.widx ∧ (s.pkg.now < (s.core t.core).at_ → t'.broadcastAt = some ((s.core t.core).vc + 1))) ∧
    (∀ b n, (b ≠ c.core ∨ n ≠ c.slot) → u.warp b n = s.warp b n) ∧
    u = { s with cores := u.cores, teams := u.teams, ports := u.ports, cur := u.cur }

/-- R177, R333 to R335: entry into a lane handler, as `State.enterHandler` (the event HANDLER_ENTRY) does it. `Warp.saveBytes` is the content
of the save area; the second clause gives its layout. -/
def Obligations.HandlerEntry : Prop :=
  (∀ (s : State) (t : Team) (wi : Nat) (h : Halt), t.haltWarp = some wi → let slot := t.slots.getD wi 32; let w := s.warp t.core slot
    w.halt = some h → w.paths ≠ [] →
    (s.handlerModule t.part = none → s.enterHandler t = s.escalate t t.core slot 0x23 0) ∧
    (∀ m off, s.handlerModule t.part = some (m, off) → (s.core t.core).savedFull slot w = true → w.land.any (fun e => e.w.inSaved) = false →
      let u := s.enterHandler t
      let w' := u.warp t.core slot
      (∃ p, w'.paths = w.paths ++ [p] ∧ p.mask = h.lanes ∧ p.module = m ∧ p.pc = off ∧ p.cbase = (s.modEntry t.part m).cbase ∧
        p.csize = (s.modEntry t.part m).csize ∧ p.level = .supervisor ∧ p.fmt = 0x00707000 ∧ p.rrb = 0 ∧ p.handler = true ∧
        p.lastIssue = none ∧ p.ready = (s.core t.core).vc + 24 ∧
        ∃ e, w'.stack = w.stack ++ [e] ∧ p.entry = none ∧ e.hnd = true ∧ e.tmask = h.lanes ∧ e.nmask = 0 ∧ e.token = 0 ∧ e.fmt = 0x00707000 ∧ e.rrb = 0) ∧
      (∀ q, w.path h.path = some q →
        w'.hcause = BitVec.ofNat 64 (h.cause + (if h.async then 256 else 0) + w.skids * 2 ^ 9 + q.module * 2 ^ 12) ∧ w'.hmask = q.mask) ∧
      w'.hinfo = h.info ∧ w'.hpc = h.pc ∧ w'.hseq = h.seq ∧ w'.fcause = h.cause ∧ w'.fasync = h.async ∧ w'.fcount = min (w.fcount + 1) (2 ^ 32 - 1) ∧
      w'.handler = some { halt := h, depth := w.stack.length, hpc := h.pc, due := (s.core t.core).vc + 2 ^ 20 } ∧ w'.halt = none ∧
      (w'.x = w.x ∧ w'.v = w.v ∧ w'.p = w.p ∧ w'.d = w.d ∧ w'.f = w.f ∧ w'.fflags = w.fflags ∧ w'.lc = w.lc ∧ w'.ec = w.ec ∧ w'.mp = w.mp) ∧
      (u.core t.core).spad = sputs 0 (s.core t.core).spad (0xFE000 + 256 * slot) w.saveBytes ∧
      (∀ b n, (b ≠ t.core ∨ n ≠ slot) → u.warp b n = s.warp b n) ∧
      u = { s with cores := u.cores, teams := u.teams })) ∧
  (∀ w : Warp, w.saveBytes.length = 0xC0 ∧
    (∀ i, i < 15 → fieldAt w.saveBytes (8 * i) 8 = (w.xr (i + 1)).toNat) ∧ fieldAt w.saveBytes 0x78 8 = w.fflags % 2 ^ 64 ∧
    (∀ i, i < 7 → fieldAt w.saveBytes (0x80 + 8 * i) 8 = (sget 0 w.p (i + 1)).toNat) ∧
    (∀ i, i < 4 → fieldAt w.saveBytes (0xB8 + 2 * i) 2 = (w.dr (i + 4)).toNat))

/-- R177, R333, R336: the return from a handler, as `State.returnFromHandler`, which `eret` and `eret.skip` go through, does it. That the
handler's own writes to the saved registers that have not landed are dropped, and the flags it has yet to raise are not, is the model's
reading (log entry 41). The canonical form of the
register tables in the last clause (`swf`) is the model's data form, which every write of a register keeps. -/
def Obligations.HandlerReturn : Prop :=
  (∀ (s : State) (c : Ctx) (skip : Bool) (h : Handler) (t : Team), c.w.handler = some h → s.teamOf c.w = some t → s.ctx = some c → c.w.live = true →
    (c.p.mask ≠ h.halt.lanes ∨ c.w.stack.drop (h.depth + 1) ≠ [] → s.returnFromHandler c skip = s.escalate t c.core c.slot 0x20 0) ∧
    (c.p.mask = h.halt.lanes → c.w.stack.drop (h.depth + 1) = [] → c.w.hpc.toNat % 64 ≠ 0 → c.w.hpc ≠ h.hpc →
      s.returnFromHandler c skip = s.escalate t c.core c.slot 0x20 c.w.hpc) ∧
    (c.p.mask = h.halt.lanes → c.w.stack.drop (h.depth + 1) = [] → (c.w.hpc.toNat % 64 = 0 ∨ c.w.hpc = h.hpc) →
      let target := if h.halt.producer = none ∧ skip = true ∧ h.halt.async = false then h.halt.insn + BitVec.ofNat 64 (8 * h.halt.size) else c.w.hpc
      let b := (s.core c.core).sp (saveArea c.slot) 256
      ∃ v : State, s.returnFromHandler c skip = v.resumeTeam t ∧ v = { s with cores := v.cores } ∧
        (∀ b n, (b ≠ c.core ∨ n ≠ c.slot) → v.warp b n = s.warp b n) ∧
        (let w := v.warp c.core c.slot; w.paths = modWhere (fun p => p.id == h.halt.path) (fun p => { p with pc := target }) (c.w.paths.filter (fun p => !p.handler)) ∧
          w.stack = c.w.stack.take h.depth ∧ w.handler = none ∧
          w.x = (c.w.restoreSet b).x ∧ w.p = (c.w.restoreSet b).p ∧ w.d = (c.w.restoreSet b).d ∧ w.fflags = fieldAt b 0x78 8 % 32 ∧
          w.v = c.w.v ∧ w.ve = c.w.ve ∧ w.f = c.w.f ∧ w.lc = c.w.lc ∧ w.ec = c.w.ec ∧ w.mp = c.w.mp ∧
          w.land = c.w.land.filter (fun e => !e.w.inSaved || e.w.isFlags)))) ∧
  (∀ (w w' : Warp) (r : List Byte), w.fflags < 32 → swf 0 w'.x = true → swf 0 w'.p = true → swf 0 w'.d = true →
    let q := w'.restoreSet (w.saveBytes ++ r)
    (∀ n, 1 ≤ n → n ≤ 15 → q.xr n = w.xr n) ∧ (∀ n, 16 ≤ n → q.xr n = w'.xr n) ∧ q.fflags = w.fflags ∧
    (∀ n, 1 ≤ n → n ≤ 7 → q.pr n = w.pr n) ∧ (∀ n, 8 ≤ n → q.pr n = w'.pr n) ∧
    (∀ n, 4 ≤ n → n ≤ 7 → q.dr n = w.dr n) ∧ (∀ n, n < 4 ∨ 8 ≤ n → q.dr n = w'.dr n) ∧ q.v = w'.v)

/-- R334, R337, R338: escalation, as `State.escalate` does it for a nested fault (0x20), the watchdog (0x21) and a missing handler module
(0x23). -/
def Obligations.Escalation : Prop :=
  ∀ (s : State) (t : Team) (c slot cause : Nat) (nested : Word), s.team t.handle t.idx = some t →
    let w := s.warp c slot
    let p := s.part t.part
    let at_ := ringSlot p.tevq 64 p.tevTail
    let u := s.escalate t c slot cause nested
    w.live = true →
    (∃ t', u.team t.handle t.idx = some t' ∧ t'.state = .suspended) ∧
    (∀ b n, (b ≠ c ∨ n ≠ slot) → u.warp b n = s.warp b n) ∧
    u = { s with cores := u.cores, teams := u.teams, parts := u.parts, mem := u.mem } ∧
    (∀ (h : Halt) (pc : Word), (∃ q, w.handler = some q ∧ q.halt = h ∧ q.hpc = pc) ∨ (w.handler = none ∧ w.halt = some h ∧ h.pc = pc) →
      let record := [t.handle + t.idx * 2 ^ 32, cause + h.cause * 256 + w.widx * 2 ^ 16, h.info.toNat, nested.toNat, pc.toNat, t.core, 0, 2 ^ 63]
      (s.ringValid at_ 64 = false → p.tevWait = [] →
        u.mem = (s.setBytes at_ (wordsBytes record)).mem ∧ (u.part t.part).tevTail = p.tevTail + 1 ∧ (u.part t.part).tevWait = []) ∧
      (s.ringValid at_ 64 = true ∨ p.tevWait ≠ [] →
        u.mem = s.mem ∧ (u.part t.part).tevTail = p.tevTail ∧ (u.part t.part).tevWait = p.tevWait ++ [record.map (BitVec.ofNat 64)])) ∧
    (∀ q, w.handler = some q → let b := (s.core c).sp (saveArea slot) 256; let w' := u.warp c slot
      w'.paths = w.paths.filter (fun x => !x.handler) ∧ w'.stack = w.stack.take q.depth ∧ w'.handler = none ∧ w'.halt = some q.halt ∧ w'.stopped = true ∧
      w'.x = (w.restoreSet b).x ∧ w'.p = (w.restoreSet b).p ∧ w'.d = (w.restoreSet b).d ∧ w'.fflags = fieldAt b 0x78 8 % 32 ∧
      w'.v = w.v ∧ w'.f = w.f ∧ w'.lc = w.lc ∧ w'.ec = w.ec ∧ w'.mp = w.mp) ∧
    (w.handler = none → u.warp c slot = { w with stopped := true, skidUntil := none })

/-- R89, R91 to R93: full/empty bits at issue, for the scalar instructions of two sources. `empty b` says that
scalar register b is empty, and `hold b` that it was so before this vc (a source is read as the vc found it, R72). That
an empty source with FE set traps although another empty operand without FE would stall is the model's reading (log entry 43). -/
def Obligations.OperandReadiness : Prop :=
  (∀ (s : State) (c : Ctx) (f : FmtA), s.ctx = some c → c.blocked = false →
    let empty := fun (b : BitVec 8) => opIdx b ≠ 0 ∧ c.w.xe.getLsbD (opIdx b) = true
    let hold := fun (b : BitVec 8) => empty b ∧ c.justEmptied (fun d => match d with | .x m => m == opIdx b | _ => false) = false
    ∀ mk ∈ [Instr.add, .sub, .mul, .mulh, .and, .or, .xor, .shl, .shr, .sar, .min, .max],
      (hold f.s1 ∨ hold f.s2 ∨ empty f.d → ¬(hold f.s1 ∧ opFe f.s1 = true) → ¬(hold f.s2 ∧ opFe f.s2 = true) →
        exec (mk f) s = .next (s.stalled c .fe)) ∧
      (hold f.s2 → opFe f.s2 = true →
        exec (mk f) s = .next (s.takeTrap c 0x08 (BitVec.ofNat 64 (f.s2.toNat + 256 * 16)) none [])) ∧
      (hold f.s1 → opFe f.s1 = true → ¬(hold f.s2 ∧ opFe f.s2 = true) →
        exec (mk f) s = .next (s.takeTrap c 0x08 (BitVec.ofNat 64 (f.s1.toNat + 256 * 24)) none [])) ∧
      (¬ hold f.s1 → ¬ hold f.s2 → ¬ empty f.d → c.w.sound = true → s.powerOk c = true →
        ∃ (lat : Nat) (v : Word), exec (mk f) s = c.done (c.scalar s f.g lat f.d v))) ∧
  (∀ (c : Ctx) (u : State) (g : BitVec 5) (lat : Nat) (d : BitVec 8) (v : Word), opIdx d = 0 →
    c.xv d = 0 ∧ c.scalar u g lat d v = u.advance c)

/-- The worked encodings of the spec, each read into its fields: `add x9, x4, x5`, `br` three blocks back, `?p3 brc` two blocks ahead, `rejoin` of block 49, `mulh.u x7, x8, x9`, `lea x3, x4, x5, 3, -16`, `cmpi.lt p3, x4, -5`, `fmtset.m x7, x6`, `vaddi v2, v2, -1`, `cvt.f16.f32 v5, v6, 0, 1`, `?p8 vld.w32 v64, d0:[x4]`, `st.w32.rel.dev d0:[x7+4], x8`, `spst.w64 [x7-8], v12`, `atom.add.w64.acq.die x5, d1:[x9], x6`, `fence.ar.dev`, `mmul.clr t2, x20, x24, sig:f3`, `mout t2, x40, sig:f5`, `qpop x9, q3`, `lease.fix 20`, `tlbinv.page d1, x2`, `rhit v48`. -/
def Obligations.DecodedWords : Prop :=
  decodeTableWord 64 0x0000100904050000 = some (.add { d := 9, s1 := 4, s2 := 5, s3 := 0, md := 0, g := 0 }) ∧
  decodeTableWord 64 0x000001FFFFFFFFA0 = some (.br { off := 0x7FFFFFFFD, g := 0 }) ∧
  decodeTableWord 64 0x0000020000000043 = some (.brc { off := 2, g := 3 }) ∧
  decodeTableWord 64 0x0000090000000620 = some (.rejoin { d := 0, s1 := 0, imm := 49, g := 0 }) ∧
  decodeTableWord 64 0x0000130708090020 = some (.mulh { d := 7, s1 := 8, s2 := 9, s3 := 0, md := 1, g := 0 }) ∧
  decodeTableWord 64 0x000027030405F060 = some (.lea { d := 3, s1 := 4, s2 := 5, s3 := 240, md := 3, g := 0 }) ∧
  decodeTableWord 64 0x00002903045FFF60 = some (.cmpi { d := 3, s1 := 4, imm := 0x2FFFB, g := 0 }) ∧
  decodeTableWord 64 0x00002D0007060020 = some (.fmtsetM { d := 0, s1 := 7, s2 := 6, s3 := 0, md := 1, g := 0 }) ∧
  decodeTableWord 64 0x00004F0202FFFFE0 = some (.vaddi { d := 2, s1 := 2, imm := 0x7FFFF, g := 0 }) ∧
  decodeTableWord 64 0x0000600506100400 = some (.cvt { d := 5, s1 := 6, s2 := 16, s3 := 4, md := 0, g := 0 }) ∧
  decodeTableWord 64 0x0000824004008008 = some (.vld { t := 64, b := 4, dom := 0, scope := 0, ord := 0, wid := 4, off := 0, g := 8 }) ∧
  decodeTableWord 64 0x0000810807128020 = some (.st { t := 8, b := 7, dom := 0, scope := 4, ord := 2, wid := 4, off := 1, g := 0 }) ∧
  decodeTableWord 64 0x0000890C0700BFE0 = some (.spst { t := 12, b := 7, dom := 0, scope := 0, ord := 0, wid := 5, off := 0xFF, g := 0 }) ∧
  decodeTableWord 64 0x0000900509062D90 = some (.atom { d := 5, b := 9, s := 6, dom := 1, scope := 3, ord := 1, aop := 9, g := 0 }) ∧
  decodeTableWord 64 0x0000940000130000 = some (.fence { t := 0, b := 0, dom := 0, scope := 4, ord := 3, wid := 0, off := 0, g := 0 }) ∧
  decodeTableWord 64 0x0000A10214180320 = some (.mmul { d := 2, s1 := 20, s2 := 24, s3 := 3, md := 1, g := 0 }) ∧
  decodeTableWord 64 0x0000A50228000500 = some (.mout { d := 2, s1 := 40, s2 := 0, s3 := 5, md := 0, g := 0 }) ∧
  decodeTableWord 64 0x0000C20903000000 = some (.qpop { d := 9, s1 := 3, s2 := 0, s3 := 0, md := 0, g := 0 }) ∧
  decodeTableWord 64 0x0000D40000002280 = some (.lease { d := 0, s1 := 0, imm := 0x114, g := 0 }) ∧
  decodeTableWord 64 0x0000E20002010040 = some (.tlbinvPage { d := 0, s1 := 2, s2 := 1, s3 := 0, md := 2, g := 0 }) ∧
  decodeTableWord 64 0x0000F53000000000 = some (.rhit { d := 48, s1 := 0, s2 := 0, s3 := 0, md := 0, g := 0 })
end

