-- ==== Sys2Proof/Laws/Encoding.lean ====
section
/-!
SUPPORT. The fields of an encoded word are the fields it was encoded from (R32, R36).
-/

namespace Sys2Proof.Laws

open Sys2Proof Sys2Proof.Machine

/-! ### Fields of a concatenation -/

theorem field_low {n m : Nat} (x : BitVec n) (y : BitVec m) : (x ++ y).extractLsb' 0 m = y := by
  apply BitVec.eq_of_getLsbD_eq
  intro i hi
  simp [BitVec.getLsbD_append, hi]

theorem field_up {n m j : Nat} (k : Nat) (x : BitVec n) (y : BitVec m) :
    (x ++ y).extractLsb' (m + k) j = x.extractLsb' k j := by
  apply BitVec.eq_of_getLsbD_eq
  intro i hi
  simp [BitVec.getElem_extractLsb', BitVec.getLsbD_append, hi, Nat.add_assoc]

theorem field_all {n : Nat} (x : BitVec n) : x.extractLsb' 0 n = x := by
  apply BitVec.eq_of_getLsbD_eq
  intro i hi
  simp [hi]

/-! ### Format A -/

@[simp] theorem op_wordA (c : Ctl) (op : BitVec 8) (f : FmtA) : opOf (wordA c op f) = op := by
  simp only [opOf, wordA]
  exact (field_up 35 _ _).trans <| (field_up 32 _ _).trans <| (field_up 24 _ _).trans <| (field_up 16 _ _).trans <| (field_up 8 _ _).trans <| (field_up 0 _ _).trans <| (field_low _ _)

@[simp] theorem ctl_wordA (c : Ctl) (op : BitVec 8) (f : FmtA) : ctlOf (wordA c op f) = c := by
  cases c
  simp only [ctlOf, wordA]
  congr 1
  · exact (field_up 55 _ _).trans <| (field_up 52 _ _).trans <| (field_up 44 _ _).trans <| (field_up 36 _ _).trans <| (field_up 28 _ _).trans <| (field_up 20 _ _).trans <| (field_up 12 _ _).trans <| (field_up 0 _ _).trans <| (field_all _)
  · exact (field_up 43 _ _).trans <| (field_up 40 _ _).trans <| (field_up 32 _ _).trans <| (field_up 24 _ _).trans <| (field_up 16 _ _).trans <| (field_up 8 _ _).trans <| (field_up 0 _ _).trans <| (field_low _ _)

@[simp] theorem fmtA_wordA (c : Ctl) (op : BitVec 8) (f : FmtA) : fmtA (wordA c op f) = f := by
  cases f
  simp only [fmtA, wordA]
  congr 1
  · exact (field_up 27 _ _).trans <| (field_up 24 _ _).trans <| (field_up 16 _ _).trans <| (field_up 8 _ _).trans <| (field_up 0 _ _).trans <| (field_low _ _)
  · exact (field_up 19 _ _).trans <| (field_up 16 _ _).trans <| (field_up 8 _ _).trans <| (field_up 0 _ _).trans <| (field_low _ _)
  · exact (field_up 11 _ _).trans <| (field_up 8 _ _).trans <| (field_up 0 _ _).trans <| (field_low _ _)
  · exact (field_up 3 _ _).trans <| (field_up 0 _ _).trans <| (field_low _ _)
  · exact (field_up 0 _ _).trans <| (field_low _ _)
  · exact (field_low _ _)

/-! ### Format I -/

@[simp] theorem op_wordI (c : Ctl) (op : BitVec 8) (f : FmtI) : opOf (wordI c op f) = op := by
  simp only [opOf, wordI]
  exact (field_up 35 _ _).trans <| (field_up 16 _ _).trans <| (field_up 8 _ _).trans <| (field_up 0 _ _).trans <| (field_low _ _)

@[simp] theorem ctl_wordI (c : Ctl) (op : BitVec 8) (f : FmtI) : ctlOf (wordI c op f) = c := by
  cases c
  simp only [ctlOf, wordI]
  congr 1
  · exact (field_up 55 _ _).trans <| (field_up 36 _ _).trans <| (field_up 28 _ _).trans <| (field_up 20 _ _).trans <| (field_up 12 _ _).trans <| (field_up 0 _ _).trans <| (field_all _)
  · exact (field_up 43 _ _).trans <| (field_up 24 _ _).trans <| (field_up 16 _ _).trans <| (field_up 8 _ _).trans <| (field_up 0 _ _).trans <| (field_low _ _)

@[simp] theorem fmtI_wordI (c : Ctl) (op : BitVec 8) (f : FmtI) : fmtI (wordI c op f) = f := by
  cases f
  simp only [fmtI, wordI]
  congr 1
  · exact (field_up 27 _ _).trans <| (field_up 8 _ _).trans <| (field_up 0 _ _).trans <| (field_low _ _)
  · exact (field_up 19 _ _).trans <| (field_up 0 _ _).trans <| (field_low _ _)
  · exact (field_up 0 _ _).trans <| (field_low _ _)
  · exact (field_low _ _)

/-! ### Format J -/

@[simp] theorem op_wordJ (c : Ctl) (op : BitVec 8) (f : FmtJ) : opOf (wordJ c op f) = op := by
  simp only [opOf, wordJ]
  exact (field_up 35 _ _).trans <| (field_up 0 _ _).trans <| (field_low _ _)

@[simp] theorem ctl_wordJ (c : Ctl) (op : BitVec 8) (f : FmtJ) : ctlOf (wordJ c op f) = c := by
  cases c
  simp only [ctlOf, wordJ]
  congr 1
  · exact (field_up 55 _ _).trans <| (field_up 20 _ _).trans <| (field_up 12 _ _).trans <| (field_up 0 _ _).trans <| (field_all _)
  · exact (field_up 43 _ _).trans <| (field_up 8 _ _).trans <| (field_up 0 _ _).trans <| (field_low _ _)

@[simp] theorem fmtJ_wordJ (c : Ctl) (op : BitVec 8) (f : FmtJ) : fmtJ (wordJ c op f) = f := by
  cases f
  simp only [fmtJ, wordJ]
  congr 1
  · exact (field_up 0 _ _).trans <| (field_low _ _)
  · exact (field_low _ _)

/-! ### Format M -/

@[simp] theorem op_wordM (c : Ctl) (op : BitVec 8) (f : FmtM) : opOf (wordM c op f) = op := by
  simp only [opOf, wordM]
  exact (field_up 35 _ _).trans <| (field_up 27 _ _).trans <| (field_up 24 _ _).trans <| (field_up 22 _ _).trans <| (field_up 19 _ _).trans <| (field_up 16 _ _).trans <| (field_up 8 _ _).trans <| (field_up 0 _ _).trans <| (field_low _ _)

@[simp] theorem ctl_wordM (c : Ctl) (op : BitVec 8) (f : FmtM) : ctlOf (wordM c op f) = c := by
  cases c
  simp only [ctlOf, wordM]
  congr 1
  · exact (field_up 55 _ _).trans <| (field_up 47 _ _).trans <| (field_up 44 _ _).trans <| (field_up 42 _ _).trans <| (field_up 39 _ _).trans <| (field_up 36 _ _).trans <| (field_up 28 _ _).trans <| (field_up 20 _ _).trans <| (field_up 12 _ _).trans <| (field_up 0 _ _).trans <| (field_all _)
  · exact (field_up 43 _ _).trans <| (field_up 35 _ _).trans <| (field_up 32 _ _).trans <| (field_up 30 _ _).trans <| (field_up 27 _ _).trans <| (field_up 24 _ _).trans <| (field_up 16 _ _).trans <| (field_up 8 _ _).trans <| (field_up 0 _ _).trans <| (field_low _ _)

@[simp] theorem fmtM_wordM (c : Ctl) (op : BitVec 8) (f : FmtM) : fmtM (wordM c op f) = f := by
  cases f
  simp only [fmtM, wordM]
  congr 1
  · exact (field_up 27 _ _).trans <| (field_up 19 _ _).trans <| (field_up 16 _ _).trans <| (field_up 14 _ _).trans <| (field_up 11 _ _).trans <| (field_up 8 _ _).trans <| (field_up 0 _ _).trans <| (field_low _ _)
  · exact (field_up 19 _ _).trans <| (field_up 11 _ _).trans <| (field_up 8 _ _).trans <| (field_up 6 _ _).trans <| (field_up 3 _ _).trans <| (field_up 0 _ _).trans <| (field_low _ _)
  · exact (field_up 16 _ _).trans <| (field_up 8 _ _).trans <| (field_up 5 _ _).trans <| (field_up 3 _ _).trans <| (field_up 0 _ _).trans <| (field_low _ _)
  · exact (field_up 13 _ _).trans <| (field_up 5 _ _).trans <| (field_up 2 _ _).trans <| (field_up 0 _ _).trans <| (field_low _ _)
  · exact (field_up 11 _ _).trans <| (field_up 3 _ _).trans <| (field_up 0 _ _).trans <| (field_low _ _)
  · exact (field_up 8 _ _).trans <| (field_up 0 _ _).trans <| (field_low _ _)
  · exact (field_up 0 _ _).trans <| (field_low _ _)
  · exact (field_low _ _)

/-! ### Format N -/

@[simp] theorem op_wordN (c : Ctl) (op : BitVec 8) (f : FmtN) : opOf (wordN c op f) = op := by
  simp only [opOf, wordN]
  exact (field_up 36 _ _).trans <| (field_up 32 _ _).trans <| (field_up 30 _ _).trans <| (field_up 27 _ _).trans <| (field_up 24 _ _).trans <| (field_up 16 _ _).trans <| (field_up 8 _ _).trans <| (field_up 0 _ _).trans <| (field_low _ _)

@[simp] theorem ctl_wordN (c : Ctl) (op : BitVec 8) (f : FmtN) : ctlOf (wordN c op f) = c := by
  cases c
  simp only [ctlOf, wordN]
  congr 1
  · exact (field_up 56 _ _).trans <| (field_up 52 _ _).trans <| (field_up 50 _ _).trans <| (field_up 47 _ _).trans <| (field_up 44 _ _).trans <| (field_up 36 _ _).trans <| (field_up 28 _ _).trans <| (field_up 20 _ _).trans <| (field_up 12 _ _).trans <| (field_up 0 _ _).trans <| (field_all _)
  · exact (field_up 44 _ _).trans <| (field_up 40 _ _).trans <| (field_up 38 _ _).trans <| (field_up 35 _ _).trans <| (field_up 32 _ _).trans <| (field_up 24 _ _).trans <| (field_up 16 _ _).trans <| (field_up 8 _ _).trans <| (field_up 0 _ _).trans <| (field_low _ _)

@[simp] theorem fmtN_wordN (c : Ctl) (op : BitVec 8) (f : FmtN) : fmtN (wordN c op f) = f := by
  cases f
  simp only [fmtN, wordN]
  congr 1
  · exact (field_up 28 _ _).trans <| (field_up 24 _ _).trans <| (field_up 22 _ _).trans <| (field_up 19 _ _).trans <| (field_up 16 _ _).trans <| (field_up 8 _ _).trans <| (field_up 0 _ _).trans <| (field_low _ _)
  · exact (field_up 20 _ _).trans <| (field_up 16 _ _).trans <| (field_up 14 _ _).trans <| (field_up 11 _ _).trans <| (field_up 8 _ _).trans <| (field_up 0 _ _).trans <| (field_low _ _)
  · exact (field_up 12 _ _).trans <| (field_up 8 _ _).trans <| (field_up 6 _ _).trans <| (field_up 3 _ _).trans <| (field_up 0 _ _).trans <| (field_low _ _)
  · exact (field_up 9 _ _).trans <| (field_up 5 _ _).trans <| (field_up 3 _ _).trans <| (field_up 0 _ _).trans <| (field_low _ _)
  · exact (field_up 6 _ _).trans <| (field_up 2 _ _).trans <| (field_up 0 _ _).trans <| (field_low _ _)
  · exact (field_up 4 _ _).trans <| (field_up 0 _ _).trans <| (field_low _ _)
  · exact (field_up 0 _ _).trans <| (field_low _ _)
  · exact (field_low _ _)

/-! ### Legality -/

/-- No condition is reported exactly where none is broken. -/
theorem reportOf_none (l : List Chk) : reportOf l = none ↔ ∀ k ∈ l, k.broken = false := by
  induction l with
  | nil => simp [reportOf]
  | cons a l ih =>
    simp only [reportOf, List.forall_mem_cons]
    cases h : a.broken with
    | false => simp [ih]
    | true =>
      cases h2 : reportOf l <;> simp

/-- A well-formed instruction breaks no condition. -/
theorem wf_checks {i : Instr} (h : wf i = true) : ∀ k ∈ checks i, k.broken = false :=
  (reportOf_none _).1 (of_decide_eq_true h)

/-- A well-formed format A instruction whose MOD field must be `k` has it so (R40, R41). -/
theorem wf_mod {i : Instr} {f : FmtA} {kd k1 k2 k3 : BitVec 8 → Nat → List Chk} {k : Nat} (h : wf i = true)
    (hc : checks i = chkA f kd k1 k2 k3 (mo [k] f.md)) : f.md = BitVec.ofNat 3 k := by
  have hm := wf_checks h (ck 2 5 (f.md.toNat ∉ [k])) (by rw [hc]; simp [chkA, mo])
  have hk : f.md.toNat = k := by simpa [ck] using hm
  exact BitVec.eq_of_toNat_eq (by simp [hk, Nat.mod_eq_of_lt (hk ▸ f.md.isLt)])

end Sys2Proof.Laws
end

