-- ==== Sys2Proof/Laws/Bytes.lean ====
section
/-!
SUPPORT. Little-endian bytes and the words they hold (R12).
-/

namespace Sys2Proof.Laws

open Sys2Proof Sys2Proof.Machine

@[simp] theorem leBytes_length (x n : Nat) : (leBytes x n).length = n := by
  induction n generalizing x with
  | zero => rfl
  | succ n ih => simp [leBytes, ih]

/-- The bytes of a number hold that number. -/
theorem ofBytes_leBytes (x n : Nat) : ofBytes (leBytes x n) = x % 256 ^ n := by
  induction n generalizing x with
  | zero => simp [leBytes, ofBytes, Nat.mod_one]
  | succ n ih =>
    simp only [leBytes, ofBytes, ih]
    rw [Nat.pow_succ', Nat.mod_mul]
    rfl

/-- A number that bytes hold has those bytes. -/
theorem leBytes_ofBytes (l : List Byte) : leBytes (ofBytes l) l.length = l := by
  induction l with
  | nil => rfl
  | cons b l ih =>
    have hb := b.isLt
    simp only [ofBytes, List.length_cons, leBytes]
    rw [show (b.toNat + 256 * ofBytes l) / 256 = ofBytes l by omega, ih]
    congr 1
    exact BitVec.eq_of_toNat_eq (by simp; omega)

theorem ofBytes_lt (l : List Byte) : ofBytes l < 256 ^ l.length := by
  induction l with
  | nil => simp [ofBytes]
  | cons b l ih =>
    have hb := b.isLt
    simp only [ofBytes, List.length_cons, Nat.pow_succ]
    omega

theorem wordBytes_cons (w : Word) (l : List Word) : wordBytes (w :: l) = leBytes w.toNat 8 ++ wordBytes l := by
  simp [wordBytes]

/-- The word at the head of a list of words. -/
theorem wordOfBytes_wordBytes (w : Word) (l : List Word) (r : List Byte) :
    wordOfBytes (wordBytes (w :: l) ++ r) = w := by
  rw [wordOfBytes, wordBytes_cons, List.append_assoc, List.take_left' (by simp), ofBytes_leBytes]
  exact BitVec.eq_of_toNat_eq (by have := w.isLt; simp; omega)

/-- Eight bytes are the bytes of the word that they hold. -/
theorem bytes_eq_word {b : List Byte} (h : 8 ≤ b.length) : b = wordBytes [wordOfBytes b] ++ b.drop 8 := by
  have hl : (b.take 8).length = 8 := by simp; omega
  have hlt := ofBytes_lt (b.take 8)
  have e : wordBytes [wordOfBytes b] = b.take 8 := by
    rw [wordBytes_cons, wordOfBytes, BitVec.toNat_ofNat, Nat.mod_eq_of_lt (by rw [hl] at hlt; simpa using hlt)]
    have := leBytes_ofBytes (b.take 8)
    rw [hl] at this
    simp [this, wordBytes]
  rw [e, List.take_append_drop]

end Sys2Proof.Laws
end

