-- ==== Sys2Proof/Laws/Decoding.lean ====
section
/-!
SUPPORT. A word that decodes is the word of the instruction it decodes to (R32, R36, R47).
-/

namespace Sys2Proof.Laws

open Sys2Proof Sys2Proof.Machine

/-! ### A word is its fields -/

/-- Two fields that lie side by side. -/
theorem fields_join {n : Nat} (w : BitVec n) (a b c : Nat) :
    w.extractLsb' (a + b) c ++ w.extractLsb' a b = (w.extractLsb' a (c + b)) := by
  apply BitVec.eq_of_getLsbD_eq
  intro i hi
  simp only [BitVec.getLsbD_append, BitVec.getLsbD_extractLsb']
  by_cases h : i < b
  · simp [h, hi]
  · simp [h, show i - b < c by omega, hi, show a + b + (i - b) = a + i by omega]

/-- A word of format A is made of its fields. -/
theorem wordA_fields (w : Word) : wordA (ctlOf w) (opOf w) (fmtA w) = w := by
  simp only [wordA, ctlOf, opOf, fmtA]
  rw [fields_join w 48 12 4]
  rw [fields_join w 40 8 16]
  rw [fields_join w 32 8 24]
  rw [fields_join w 24 8 32]
  rw [fields_join w 16 8 40]
  rw [fields_join w 8 8 48]
  rw [fields_join w 5 3 56]
  rw [fields_join w 0 5 59]
  exact field_all w

/-- A word of format I is made of its fields. -/
theorem wordI_fields (w : Word) : wordI (ctlOf w) (opOf w) (fmtI w) = w := by
  simp only [wordI, ctlOf, opOf, fmtI]
  rw [fields_join w 48 12 4]
  rw [fields_join w 40 8 16]
  rw [fields_join w 32 8 24]
  rw [fields_join w 24 8 32]
  rw [fields_join w 5 19 40]
  rw [fields_join w 0 5 59]
  exact field_all w

/-- A word of format J is made of its fields. -/
theorem wordJ_fields (w : Word) : wordJ (ctlOf w) (opOf w) (fmtJ w) = w := by
  simp only [wordJ, ctlOf, opOf, fmtJ]
  rw [fields_join w 48 12 4]
  rw [fields_join w 40 8 16]
  rw [fields_join w 5 35 24]
  rw [fields_join w 0 5 59]
  exact field_all w

/-- A word of format M is made of its fields. -/
theorem wordM_fields (w : Word) : wordM (ctlOf w) (opOf w) (fmtM w) = w := by
  simp only [wordM, ctlOf, opOf, fmtM]
  rw [fields_join w 48 12 4]
  rw [fields_join w 40 8 16]
  rw [fields_join w 32 8 24]
  rw [fields_join w 24 8 32]
  rw [fields_join w 21 3 40]
  rw [fields_join w 18 3 43]
  rw [fields_join w 16 2 46]
  rw [fields_join w 13 3 48]
  rw [fields_join w 5 8 51]
  rw [fields_join w 0 5 59]
  exact field_all w

/-- A word of format N is made of its fields. -/
theorem wordN_fields (w : Word) : wordN (ctlOf w) (opOf w) (fmtN w) = w := by
  simp only [wordN, ctlOf, opOf, fmtN]
  rw [fields_join w 48 12 4]
  rw [fields_join w 40 8 16]
  rw [fields_join w 32 8 24]
  rw [fields_join w 24 8 32]
  rw [fields_join w 16 8 40]
  rw [fields_join w 13 3 48]
  rw [fields_join w 10 3 51]
  rw [fields_join w 8 2 54]
  rw [fields_join w 4 4 56]
  rw [fields_join w 0 4 60]
  exact field_all w

/-! ### The rows of the opcode map -/

theorem row0A_encode {f : FmtA} {k : Nat} {i : Instr} (h : row0A f k = some i) (c : Ctl) :
    encode c i = [wordA c (BitVec.ofNat 8 (0x00 + k)) f] := by
  unfold row0A at h
  repeat' split at h
  all_goals cases h <;> rfl

theorem row1A_encode {f : FmtA} {k : Nat} {i : Instr} (h : row1A f k = some i) (c : Ctl) :
    encode c i = [wordA c (BitVec.ofNat 8 (0x10 + k)) f] := by
  unfold row1A at h
  repeat' split at h
  all_goals cases h <;> rfl

theorem row2A_encode {f : FmtA} {k : Nat} {i : Instr} (h : row2A f k = some i) (c : Ctl) :
    encode c i = [wordA c (BitVec.ofNat 8 (0x20 + k)) f] := by
  unfold row2A at h
  repeat' split at h
  all_goals cases h <;> rfl

theorem row3A_encode {f : FmtA} {k : Nat} {i : Instr} (h : row3A f k = some i) (c : Ctl) :
    encode c i = [wordA c (BitVec.ofNat 8 (0x30 + k)) f] := by
  unfold row3A at h
  repeat' split at h
  all_goals cases h <;> rfl

theorem row4A_encode {f : FmtA} {k : Nat} {i : Instr} (h : row4A f k = some i) (c : Ctl) :
    encode c i = [wordA c (BitVec.ofNat 8 (0x40 + k)) f] := by
  unfold row4A at h
  repeat' split at h
  all_goals cases h <;> rfl

theorem row5A_encode {f : FmtA} {k : Nat} {i : Instr} (h : row5A f k = some i) (c : Ctl) :
    encode c i = [wordA c (BitVec.ofNat 8 (0x50 + k)) f] := by
  unfold row5A at h
  repeat' split at h
  all_goals cases h <;> rfl

theorem row6A_encode {f : FmtA} {k : Nat} {i : Instr} (h : row6A f k = some i) (c : Ctl) :
    encode c i = [wordA c (BitVec.ofNat 8 (0x60 + k)) f] := by
  unfold row6A at h
  repeat' split at h
  all_goals cases h <;> rfl

theorem row7A_encode {f : FmtA} {k : Nat} {i : Instr} (h : row7A f k = some i) (c : Ctl) :
    encode c i = [wordA c (BitVec.ofNat 8 (0x70 + k)) f] := by
  unfold row7A at h
  repeat' split at h
  all_goals cases h <;> rfl

theorem row9A_encode {f : FmtA} {k : Nat} {i : Instr} (h : row9A f k = some i) (c : Ctl) :
    encode c i = [wordA c (BitVec.ofNat 8 (0x90 + k)) f] := by
  unfold row9A at h
  repeat' split at h
  all_goals cases h <;> rfl

theorem rowAA_encode {f : FmtA} {k : Nat} {i : Instr} (h : rowAA f k = some i) (c : Ctl) :
    encode c i = [wordA c (BitVec.ofNat 8 (0xA0 + k)) f] := by
  unfold rowAA at h
  repeat' split at h
  all_goals cases h <;> rfl

theorem rowBA_encode {f : FmtA} {k : Nat} {i : Instr} (h : rowBA f k = some i) (c : Ctl) :
    encode c i = [wordA c (BitVec.ofNat 8 (0xB0 + k)) f] := by
  unfold rowBA at h
  repeat' split at h
  all_goals cases h <;> rfl

theorem rowCA_encode (svc : Bool) {f : FmtA} {k : Nat} {i : Instr} (h : rowCA svc f k = some i) (c : Ctl) :
    encode c i = [wordA c (BitVec.ofNat 8 (0xC0 + k)) f] := by
  unfold rowCA at h
  repeat' split at h
  all_goals cases h <;> rfl

theorem rowDA_encode {f : FmtA} {k : Nat} {i : Instr} (h : rowDA f k = some i) (c : Ctl) :
    encode c i = [wordA c (BitVec.ofNat 8 (0xD0 + k)) f] := by
  unfold rowDA at h
  repeat' split at h
  all_goals cases h <;> rfl

theorem rowEA_encode {f : FmtA} {k : Nat} {i : Instr} (h : rowEA f k = some i) (c : Ctl) :
    encode c i = [wordA c (BitVec.ofNat 8 (0xE0 + k)) f] := by
  unfold rowEA at h
  repeat' split at h
  all_goals cases h <;> rfl

theorem rowFA_encode {f : FmtA} {k : Nat} {i : Instr} (h : rowFA f k = some i) (c : Ctl) :
    encode c i = [wordA c (BitVec.ofNat 8 (0xF0 + k)) f] := by
  unfold rowFA at h
  repeat' split at h
  all_goals cases h <;> rfl

theorem row0I_encode {f : FmtI} {k : Nat} {i : Instr} (h : row0I f k = some i) (c : Ctl) :
    encode c i = [wordI c (BitVec.ofNat 8 (0x00 + k)) f] := by
  unfold row0I at h
  repeat' split at h
  all_goals cases h <;> rfl

theorem row2I_encode (lit : Word) {f : FmtI} {k : Nat} {i : Instr} (h : row2I lit f k = some i) (c : Ctl) :
    encode c i = wordI c (BitVec.ofNat 8 (0x20 + k)) f :: (if k = 5 then [lit] else []) := by
  unfold row2I at h
  repeat' split at h
  all_goals cases h <;> rfl

theorem row4I_encode {f : FmtI} {k : Nat} {i : Instr} (h : row4I f k = some i) (c : Ctl) :
    encode c i = [wordI c (BitVec.ofNat 8 (0x40 + k)) f] := by
  unfold row4I at h
  repeat' split at h
  all_goals cases h <;> rfl

theorem row7I_encode {f : FmtI} {k : Nat} {i : Instr} (h : row7I f k = some i) (c : Ctl) :
    encode c i = [wordI c (BitVec.ofNat 8 (0x70 + k)) f] := by
  unfold row7I at h
  repeat' split at h
  all_goals cases h <;> rfl

theorem row9I_encode {f : FmtI} {k : Nat} {i : Instr} (h : row9I f k = some i) (c : Ctl) :
    encode c i = [wordI c (BitVec.ofNat 8 (0x90 + k)) f] := by
  unfold row9I at h
  repeat' split at h
  all_goals cases h <;> rfl

theorem rowAI_encode {f : FmtI} {k : Nat} {i : Instr} (h : rowAI f k = some i) (c : Ctl) :
    encode c i = [wordI c (BitVec.ofNat 8 (0xA0 + k)) f] := by
  unfold rowAI at h
  repeat' split at h
  all_goals cases h <;> rfl

theorem rowDI_encode {f : FmtI} {k : Nat} {i : Instr} (h : rowDI f k = some i) (c : Ctl) :
    encode c i = [wordI c (BitVec.ofNat 8 (0xD0 + k)) f] := by
  unfold rowDI at h
  repeat' split at h
  all_goals cases h <;> rfl

theorem row0J_encode {f : FmtJ} {k : Nat} {i : Instr} (h : row0J f k = some i) (c : Ctl) :
    encode c i = [wordJ c (BitVec.ofNat 8 (0x00 + k)) f] := by
  unfold row0J at h
  repeat' split at h
  all_goals cases h <;> rfl

theorem row8M_encode {f : FmtM} {k : Nat} {i : Instr} (h : row8M f k = some i) (c : Ctl) :
    encode c i = [wordM c (BitVec.ofNat 8 (0x80 + k)) f] := by
  unfold row8M at h
  repeat' split at h
  all_goals cases h <;> rfl

theorem row9M_encode {f : FmtM} {k : Nat} {i : Instr} (h : row9M f k = some i) (c : Ctl) :
    encode c i = [wordM c (BitVec.ofNat 8 (0x90 + k)) f] := by
  unfold row9M at h
  repeat' split at h
  all_goals cases h <;> rfl

theorem row9N_encode {f : FmtN} {k : Nat} {i : Instr} (h : row9N f k = some i) (c : Ctl) :
    encode c i = [wordN c (BitVec.ofNat 8 (0x90 + k)) f] := by
  unfold row9N at h
  repeat' split at h
  all_goals cases h <;> rfl

/-! ### The whole map -/

/-- The words of the instruction that a word names: that word, and the literal after it for format L. -/
theorem encode_of_instrOf {svc : Bool} {w lit : Word} {i : Instr} (h : instrOf svc w lit = some i) (c : Ctl) (hc : ctlOf w = c) :
    encode c i = w :: (if (opOf w).toNat = 0x25 then [lit] else []) := by
  subst hc
  have hlt := (opOf w).isLt
  have hop : ∀ r, (opOf w).toNat / 16 = r → BitVec.ofNat 8 (16 * r + (opOf w).toNat % 16) = opOf w := by
    intro r hr
    exact BitVec.eq_of_toNat_eq (by simp; omega)
  have one : ∀ {k : Word} {e : List Word}, (opOf w).toNat / 16 ≠ 2 → k = w → e = [k] → e = w :: (if (opOf w).toNat = 0x25 then [lit] else []) := by
    intro k e h1 h2 h3
    rw [h3, h2, if_neg (by omega)]
  have cA : ∀ r, (opOf w).toNat / 16 = r → wordA (ctlOf w) (BitVec.ofNat 8 (16 * r + (opOf w).toNat % 16)) (fmtA w) = w :=
    fun r hr => (hop r hr).symm ▸ wordA_fields w
  have cI : ∀ r, (opOf w).toNat / 16 = r → wordI (ctlOf w) (BitVec.ofNat 8 (16 * r + (opOf w).toNat % 16)) (fmtI w) = w :=
    fun r hr => (hop r hr).symm ▸ wordI_fields w
  have cJ : ∀ r, (opOf w).toNat / 16 = r → wordJ (ctlOf w) (BitVec.ofNat 8 (16 * r + (opOf w).toNat % 16)) (fmtJ w) = w :=
    fun r hr => (hop r hr).symm ▸ wordJ_fields w
  have cM : ∀ r, (opOf w).toNat / 16 = r → wordM (ctlOf w) (BitVec.ofNat 8 (16 * r + (opOf w).toNat % 16)) (fmtM w) = w :=
    fun r hr => (hop r hr).symm ▸ wordM_fields w
  have cN : ∀ r, (opOf w).toNat / 16 = r → wordN (ctlOf w) (BitVec.ofNat 8 (16 * r + (opOf w).toNat % 16)) (fmtN w) = w :=
    fun r hr => (hop r hr).symm ▸ wordN_fields w
  unfold instrOf at h
  dsimp only at h
  split at h <;> rename_i hr <;>
    try simp only [Option.orElse_eq_orElse, Option.orElse_eq_or, Option.or_eq_some_iff] at h
  · rcases h with h | ⟨-, h | ⟨-, h⟩⟩
    · exact one (by omega) (cA 0 hr) (row0A_encode h _)
    · exact one (by omega) (cI 0 hr) (row0I_encode h _)
    · exact one (by omega) (cJ 0 hr) (row0J_encode h _)
  · exact one (by omega) (cA 1 hr) (row1A_encode h _)
  · rcases h with h | ⟨-, h⟩
    · rw [row2A_encode h, cA 2 hr, if_neg]
      intro k
      rw [show (opOf w).toNat % 16 = 5 by omega] at h
      cases h
    · rw [row2I_encode lit h, cI 2 hr]
      by_cases hk : (opOf w).toNat = 0x25
      · rw [if_pos hk, if_pos (by omega)]
      · rw [if_neg hk, if_neg (by omega)]
  · exact one (by omega) (cA 3 hr) (row3A_encode h _)
  · rcases h with h | ⟨-, h⟩
    · exact one (by omega) (cA 4 hr) (row4A_encode h _)
    · exact one (by omega) (cI 4 hr) (row4I_encode h _)
  · exact one (by omega) (cA 5 hr) (row5A_encode h _)
  · exact one (by omega) (cA 6 hr) (row6A_encode h _)
  · rcases h with h | ⟨-, h⟩
    · exact one (by omega) (cA 7 hr) (row7A_encode h _)
    · exact one (by omega) (cI 7 hr) (row7I_encode h _)
  · exact one (by omega) (cM 8 hr) (row8M_encode h _)
  · rcases h with h | ⟨-, h | ⟨-, h | ⟨-, h⟩⟩⟩
    · exact one (by omega) (cA 9 hr) (row9A_encode h _)
    · exact one (by omega) (cI 9 hr) (row9I_encode h _)
    · exact one (by omega) (cM 9 hr) (row9M_encode h _)
    · exact one (by omega) (cN 9 hr) (row9N_encode h _)
  · rcases h with h | ⟨-, h⟩
    · exact one (by omega) (cA 10 hr) (rowAA_encode h _)
    · exact one (by omega) (cI 10 hr) (rowAI_encode h _)
  · exact one (by omega) (cA 11 hr) (rowBA_encode h _)
  · exact one (by omega) (cA 12 hr) (rowCA_encode svc h _)
  · rcases h with h | ⟨-, h⟩
    · exact one (by omega) (cA 13 hr) (rowDA_encode h _)
    · exact one (by omega) (cI 13 hr) (rowDI_encode h _)
  · exact one (by omega) (cA 14 hr) (rowEA_encode h _)
  · exact one (by omega) (cA 15 hr) (rowFA_encode h _)
  · cases h

/-- Only format L reads the literal. -/
theorem lit_irrel (svc : Bool) (w a : Word) (h : (opOf w).toNat ≠ 0x25) (b : Word) : instrOf svc w b = instrOf svc w a := by
  unfold instrOf
  dsimp only
  split <;> first | rfl | skip
  rename_i hr
  have hk : (opOf w).toNat % 16 ≠ 5 := by omega
  congr 1
  funext
  unfold row2I
  split <;> first | rfl | (exact absurd ‹_› hk)

end Sys2Proof.Laws
end

