-- ==== Sys2Proof/Laws/Dispatch.lean ====
section
/-!
SUPPORT. Which meaning each instruction has: one equation per constructor, so that no proof unfolds the dispatch.
-/

namespace Sys2Proof.Machine

open Sys2Proof

@[simp] theorem exec_nop (f : FmtA) (s : State) : exec (.nop f) s = execNop f s := rfl
@[simp] theorem exec_br (f : FmtJ) (s : State) : exec (.br f) s = execBr f s := rfl
@[simp] theorem exec_brc (f : FmtJ) (s : State) : exec (.brc f) s = execBrc f s := rfl
@[simp] theorem exec_brany (f : FmtJ) (s : State) : exec (.brany f) s = execBrany f s := rfl
@[simp] theorem exec_brall (f : FmtJ) (s : State) : exec (.brall f) s = execBrall f s := rfl
@[simp] theorem exec_brx (f : FmtA) (s : State) : exec (.brx f) s = execBrx f s := rfl
@[simp] theorem exec_jmpx (f : FmtA) (s : State) : exec (.jmpx f) s = execJmpx f s := rfl
@[simp] theorem exec_call (f : FmtJ) (s : State) : exec (.call f) s = execCall f s := rfl
@[simp] theorem exec_ret (f : FmtA) (s : State) : exec (.ret f) s = execRet f s := rfl
@[simp] theorem exec_rejoin (f : FmtI) (s : State) : exec (.rejoin f) s = execRejoin f s := rfl
@[simp] theorem exec_loop (f : FmtJ) (s : State) : exec (.loop f) s = execLoop f s := rfl
@[simp] theorem exec_exit (f : FmtA) (s : State) : exec (.exit f) s = execExit f s := rfl
@[simp] theorem exec_trap (f : FmtI) (s : State) : exec (.trap f) s = execTrap f s := rfl
@[simp] theorem exec_ipref (f : FmtA) (s : State) : exec (.ipref f) s = execIpref f s := rfl
@[simp] theorem exec_elect (f : FmtA) (s : State) : exec (.elect f) s = execElect f s := rfl
@[simp] theorem exec_yield (f : FmtA) (s : State) : exec (.yield f) s = execYield f s := rfl
@[simp] theorem exec_add (f : FmtA) (s : State) : exec (.add f) s = execAdd f s := rfl
@[simp] theorem exec_sub (f : FmtA) (s : State) : exec (.sub f) s = execSub f s := rfl
@[simp] theorem exec_mul (f : FmtA) (s : State) : exec (.mul f) s = execMul f s := rfl
@[simp] theorem exec_mulh (f : FmtA) (s : State) : exec (.mulh f) s = execMulh f s := rfl
@[simp] theorem exec_div (f : FmtA) (s : State) : exec (.div f) s = execDiv f s := rfl
@[simp] theorem exec_rem (f : FmtA) (s : State) : exec (.rem f) s = execRem f s := rfl
@[simp] theorem exec_and (f : FmtA) (s : State) : exec (.and f) s = execAnd f s := rfl
@[simp] theorem exec_or (f : FmtA) (s : State) : exec (.or f) s = execOr f s := rfl
@[simp] theorem exec_xor (f : FmtA) (s : State) : exec (.xor f) s = execXor f s := rfl
@[simp] theorem exec_shl (f : FmtA) (s : State) : exec (.shl f) s = execShl f s := rfl
@[simp] theorem exec_shr (f : FmtA) (s : State) : exec (.shr f) s = execShr f s := rfl
@[simp] theorem exec_sar (f : FmtA) (s : State) : exec (.sar f) s = execSar f s := rfl
@[simp] theorem exec_min (f : FmtA) (s : State) : exec (.min f) s = execMin f s := rfl
@[simp] theorem exec_max (f : FmtA) (s : State) : exec (.max f) s = execMax f s := rfl
@[simp] theorem exec_bitc (f : FmtA) (s : State) : exec (.bitc f) s = execBitc f s := rfl
@[simp] theorem exec_sel (f : FmtA) (s : State) : exec (.sel f) s = execSel f s := rfl
@[simp] theorem exec_addi (f : FmtI) (s : State) : exec (.addi f) s = execAddi f s := rfl
@[simp] theorem exec_andi (f : FmtI) (s : State) : exec (.andi f) s = execAndi f s := rfl
@[simp] theorem exec_ori (f : FmtI) (s : State) : exec (.ori f) s = execOri f s := rfl
@[simp] theorem exec_xori (f : FmtI) (s : State) : exec (.xori f) s = execXori f s := rfl
@[simp] theorem exec_shi (f : FmtI) (s : State) : exec (.shi f) s = execShi f s := rfl
@[simp] theorem exec_lim (f : FmtI) (lit : Word) (s : State) : exec (.lim f lit) s = execLim f lit s := rfl
@[simp] theorem exec_mov (f : FmtA) (s : State) : exec (.mov f) s = execMov f s := rfl
@[simp] theorem exec_movDomain (f : FmtA) (s : State) : exec (.movDomain f) s = execMovDomain f s := rfl
@[simp] theorem exec_lea (f : FmtA) (s : State) : exec (.lea f) s = execLea f s := rfl
@[simp] theorem exec_cmp (f : FmtA) (s : State) : exec (.cmp f) s = execCmp f s := rfl
@[simp] theorem exec_cmpi (f : FmtI) (s : State) : exec (.cmpi f) s = execCmpi f s := rfl
@[simp] theorem exec_csrr (f : FmtI) (s : State) : exec (.csrr f) s = execCsrr f s := rfl
@[simp] theorem exec_csrw (f : FmtI) (s : State) : exec (.csrw f) s = execCsrw f s := rfl
@[simp] theorem exec_csrs (f : FmtI) (s : State) : exec (.csrs f) s = execCsrs f s := rfl
@[simp] theorem exec_fmtset (f : FmtA) (s : State) : exec (.fmtset f) s = execFmtset f s := rfl
@[simp] theorem exec_fmtsetM (f : FmtA) (s : State) : exec (.fmtsetM f) s = execFmtsetM f s := rfl
@[simp] theorem exec_dset (f : FmtA) (s : State) : exec (.dset f) s = execDset f s := rfl
@[simp] theorem exec_rdtime (f : FmtA) (s : State) : exec (.rdtime f) s = execRdtime f s := rfl
@[simp] theorem exec_pand (f : FmtA) (s : State) : exec (.pand f) s = execPand f s := rfl
@[simp] theorem exec_por (f : FmtA) (s : State) : exec (.por f) s = execPor f s := rfl
@[simp] theorem exec_pxor (f : FmtA) (s : State) : exec (.pxor f) s = execPxor f s := rfl
@[simp] theorem exec_pnot (f : FmtA) (s : State) : exec (.pnot f) s = execPnot f s := rfl
@[simp] theorem exec_pmov (f : FmtA) (s : State) : exec (.pmov f) s = execPmov f s := rfl
@[simp] theorem exec_pcount (f : FmtA) (s : State) : exec (.pcount f) s = execPcount f s := rfl
@[simp] theorem exec_pfirst (f : FmtA) (s : State) : exec (.pfirst f) s = execPfirst f s := rfl
@[simp] theorem exec_vcmp (f : FmtA) (s : State) : exec (.vcmp f) s = execVcmp f s := rfl
@[simp] theorem exec_vfcmp (f : FmtA) (s : State) : exec (.vfcmp f) s = execVfcmp f s := rfl
@[simp] theorem exec_pset (f : FmtA) (s : State) : exec (.pset f) s = execPset f s := rfl
@[simp] theorem exec_pget (f : FmtA) (s : State) : exec (.pget f) s = execPget f s := rfl
@[simp] theorem exec_vadd (f : FmtA) (s : State) : exec (.vadd f) s = execVadd f s := rfl
@[simp] theorem exec_vsub (f : FmtA) (s : State) : exec (.vsub f) s = execVsub f s := rfl
@[simp] theorem exec_vmul (f : FmtA) (s : State) : exec (.vmul f) s = execVmul f s := rfl
@[simp] theorem exec_vmulh (f : FmtA) (s : State) : exec (.vmulh f) s = execVmulh f s := rfl
@[simp] theorem exec_vmad (f : FmtA) (s : State) : exec (.vmad f) s = execVmad f s := rfl
@[simp] theorem exec_vand (f : FmtA) (s : State) : exec (.vand f) s = execVand f s := rfl
@[simp] theorem exec_vor (f : FmtA) (s : State) : exec (.vor f) s = execVor f s := rfl
@[simp] theorem exec_vxor (f : FmtA) (s : State) : exec (.vxor f) s = execVxor f s := rfl
@[simp] theorem exec_vshl (f : FmtA) (s : State) : exec (.vshl f) s = execVshl f s := rfl
@[simp] theorem exec_vshr (f : FmtA) (s : State) : exec (.vshr f) s = execVshr f s := rfl
@[simp] theorem exec_vsar (f : FmtA) (s : State) : exec (.vsar f) s = execVsar f s := rfl
@[simp] theorem exec_vmin (f : FmtA) (s : State) : exec (.vmin f) s = execVmin f s := rfl
@[simp] theorem exec_vmax (f : FmtA) (s : State) : exec (.vmax f) s = execVmax f s := rfl
@[simp] theorem exec_vabn (f : FmtA) (s : State) : exec (.vabn f) s = execVabn f s := rfl
@[simp] theorem exec_vsel (f : FmtA) (s : State) : exec (.vsel f) s = execVsel f s := rfl
@[simp] theorem exec_vaddi (f : FmtI) (s : State) : exec (.vaddi f) s = execVaddi f s := rfl
@[simp] theorem exec_fadd (f : FmtA) (s : State) : exec (.fadd f) s = execFadd f s := rfl
@[simp] theorem exec_fsub (f : FmtA) (s : State) : exec (.fsub f) s = execFsub f s := rfl
@[simp] theorem exec_fmul (f : FmtA) (s : State) : exec (.fmul f) s = execFmul f s := rfl
@[simp] theorem exec_fma (f : FmtA) (s : State) : exec (.fma f) s = execFma f s := rfl
@[simp] theorem exec_fmin (f : FmtA) (s : State) : exec (.fmin f) s = execFmin f s := rfl
@[simp] theorem exec_fmax (f : FmtA) (s : State) : exec (.fmax f) s = execFmax f s := rfl
@[simp] theorem exec_fabn (f : FmtA) (s : State) : exec (.fabn f) s = execFabn f s := rfl
@[simp] theorem exec_fdiv (f : FmtA) (s : State) : exec (.fdiv f) s = execFdiv f s := rfl
@[simp] theorem exec_fsqrt (f : FmtA) (s : State) : exec (.fsqrt f) s = execFsqrt f s := rfl
@[simp] theorem exec_fdot2 (f : FmtA) (s : State) : exec (.fdot2 f) s = execFdot2 f s := rfl
@[simp] theorem exec_fdot4 (f : FmtA) (s : State) : exec (.fdot4 f) s = execFdot4 f s := rfl
@[simp] theorem exec_vdot4 (f : FmtA) (s : State) : exec (.vdot4 f) s = execVdot4 f s := rfl
@[simp] theorem exec_fclass (f : FmtA) (s : State) : exec (.fclass f) s = execFclass f s := rfl
@[simp] theorem exec_frnd (f : FmtA) (s : State) : exec (.frnd f) s = execFrnd f s := rfl
@[simp] theorem exec_cvt (f : FmtA) (s : State) : exec (.cvt f) s = execCvt f s := rfl
@[simp] theorem exec_cvtsr (f : FmtA) (s : State) : exec (.cvtsr f) s = execCvtsr f s := rfl
@[simp] theorem exec_vrcp (f : FmtA) (s : State) : exec (.vrcp f) s = execVrcp f s := rfl
@[simp] theorem exec_vrsq (f : FmtA) (s : State) : exec (.vrsq f) s = execVrsq f s := rfl
@[simp] theorem exec_vexp2 (f : FmtA) (s : State) : exec (.vexp2 f) s = execVexp2 f s := rfl
@[simp] theorem exec_vlog2 (f : FmtA) (s : State) : exec (.vlog2 f) s = execVlog2 f s := rfl
@[simp] theorem exec_vsin (f : FmtA) (s : State) : exec (.vsin f) s = execVsin f s := rfl
@[simp] theorem exec_vcos (f : FmtA) (s : State) : exec (.vcos f) s = execVcos f s := rfl
@[simp] theorem exec_vtanh (f : FmtA) (s : State) : exec (.vtanh f) s = execVtanh f s := rfl
@[simp] theorem exec_vqnt (f : FmtA) (s : State) : exec (.vqnt f) s = execVqnt f s := rfl
@[simp] theorem exec_vdeq (f : FmtA) (s : State) : exec (.vdeq f) s = execVdeq f s := rfl
@[simp] theorem exec_vpack (f : FmtA) (s : State) : exec (.vpack f) s = execVpack f s := rfl
@[simp] theorem exec_vunpack (f : FmtA) (s : State) : exec (.vunpack f) s = execVunpack f s := rfl
@[simp] theorem exec_vmov (f : FmtA) (s : State) : exec (.vmov f) s = execVmov f s := rfl
@[simp] theorem exec_vbcast (f : FmtA) (s : State) : exec (.vbcast f) s = execVbcast f s := rfl
@[simp] theorem exec_vext (f : FmtA) (s : State) : exec (.vext f) s = execVext f s := rfl
@[simp] theorem exec_vins (f : FmtA) (s : State) : exec (.vins f) s = execVins f s := rfl
@[simp] theorem exec_vperm (f : FmtA) (s : State) : exec (.vperm f) s = execVperm f s := rfl
@[simp] theorem exec_vshfl (f : FmtA) (s : State) : exec (.vshfl f) s = execVshfl f s := rfl
@[simp] theorem exec_vlane (f : FmtA) (s : State) : exec (.vlane f) s = execVlane f s := rfl
@[simp] theorem exec_vballot (f : FmtA) (s : State) : exec (.vballot f) s = execVballot f s := rfl
@[simp] theorem exec_red (f : FmtA) (s : State) : exec (.red f) s = execRed f s := rfl
@[simp] theorem exec_scan (f : FmtA) (s : State) : exec (.scan f) s = execScan f s := rfl
@[simp] theorem exec_rrbset (f : FmtI) (s : State) : exec (.rrbset f) s = execRrbset f s := rfl
@[simp] theorem exec_ld (f : FmtM) (s : State) : exec (.ld f) s = execLd f s := rfl
@[simp] theorem exec_st (f : FmtM) (s : State) : exec (.st f) s = execSt f s := rfl
@[simp] theorem exec_vld (f : FmtM) (s : State) : exec (.vld f) s = execVld f s := rfl
@[simp] theorem exec_vst (f : FmtM) (s : State) : exec (.vst f) s = execVst f s := rfl
@[simp] theorem exec_vldg (f : FmtM) (s : State) : exec (.vldg f) s = execVldg f s := rfl
@[simp] theorem exec_vstg (f : FmtM) (s : State) : exec (.vstg f) s = execVstg f s := rfl
@[simp] theorem exec_vlds (f : FmtM) (s : State) : exec (.vlds f) s = execVlds f s := rfl
@[simp] theorem exec_vsts (f : FmtM) (s : State) : exec (.vsts f) s = execVsts f s := rfl
@[simp] theorem exec_spld (f : FmtM) (s : State) : exec (.spld f) s = execSpld f s := rfl
@[simp] theorem exec_spst (f : FmtM) (s : State) : exec (.spst f) s = execSpst f s := rfl
@[simp] theorem exec_dprf (f : FmtM) (s : State) : exec (.dprf f) s = execDprf f s := rfl
@[simp] theorem exec_ldl (f : FmtM) (s : State) : exec (.ldl f) s = execLdl f s := rfl
@[simp] theorem exec_atom (f : FmtN) (s : State) : exec (.atom f) s = execAtom f s := rfl
@[simp] theorem exec_vatom (f : FmtN) (s : State) : exec (.vatom f) s = execVatom f s := rfl
@[simp] theorem exec_cas (f : FmtN) (s : State) : exec (.cas f) s = execCas f s := rfl
@[simp] theorem exec_vcas (f : FmtN) (s : State) : exec (.vcas f) s = execVcas f s := rfl
@[simp] theorem exec_fence (f : FmtM) (s : State) : exec (.fence f) s = execFence f s := rfl
@[simp] theorem exec_phase (f : FmtA) (s : State) : exec (.phase f) s = execPhase f s := rfl
@[simp] theorem exec_mfence (f : FmtI) (s : State) : exec (.mfence f) s = execMfence f s := rfl
@[simp] theorem exec_mjoin (f : FmtA) (s : State) : exec (.mjoin f) s = execMjoin f s := rfl
@[simp] theorem exec_sstep (f : FmtI) (s : State) : exec (.sstep f) s = execSstep f s := rfl
@[simp] theorem exec_mwait (f : FmtM) (s : State) : exec (.mwait f) s = execMwait f s := rfl
@[simp] theorem exec_mzero (f : FmtA) (s : State) : exec (.mzero f) s = execMzero f s := rfl
@[simp] theorem exec_mmul (f : FmtA) (s : State) : exec (.mmul f) s = execMmul f s := rfl
@[simp] theorem exec_mmull (f : FmtA) (s : State) : exec (.mmull f) s = execMmull f s := rfl
@[simp] theorem exec_mmulm (f : FmtA) (s : State) : exec (.mmulm f) s = execMmulm f s := rfl
@[simp] theorem exec_mplane (f : FmtA) (s : State) : exec (.mplane f) s = execMplane f s := rfl
@[simp] theorem exec_mout (f : FmtA) (s : State) : exec (.mout f) s = execMout f s := rfl
@[simp] theorem exec_mcfg (f : FmtI) (s : State) : exec (.mcfg f) s = execMcfg f s := rfl
@[simp] theorem exec_tgive (f : FmtA) (s : State) : exec (.tgive f) s = execTgive f s := rfl
@[simp] theorem exec_ttake (f : FmtA) (s : State) : exec (.ttake f) s = execTtake f s := rfl
@[simp] theorem exec_trow (f : FmtA) (s : State) : exec (.trow f) s = execTrow f s := rfl
@[simp] theorem exec_twrow (f : FmtA) (s : State) : exec (.twrow f) s = execTwrow f s := rfl
@[simp] theorem exec_spzero (f : FmtA) (s : State) : exec (.spzero f) s = execSpzero f s := rfl
@[simp] theorem exec_qpush (f : FmtA) (s : State) : exec (.qpush f) s = execQpush f s := rfl
@[simp] theorem exec_qpushv (f : FmtA) (s : State) : exec (.qpushv f) s = execQpushv f s := rfl
@[simp] theorem exec_qpop (f : FmtA) (s : State) : exec (.qpop f) s = execQpop f s := rfl
@[simp] theorem exec_qpopv (f : FmtA) (s : State) : exec (.qpopv f) s = execQpopv f s := rfl
@[simp] theorem exec_qpeek (f : FmtA) (s : State) : exec (.qpeek f) s = execQpeek f s := rfl
@[simp] theorem exec_cpy (f : FmtA) (s : State) : exec (.cpy f) s = execCpy f s := rfl
@[simp] theorem exec_cpyz (f : FmtA) (s : State) : exec (.cpyz f) s = execCpyz f s := rfl
@[simp] theorem exec_wdq (f : FmtA) (s : State) : exec (.wdq f) s = execWdq f s := rfl
@[simp] theorem exec_launch (f : FmtA) (s : State) : exec (.launch f) s = execLaunch f s := rfl
@[simp] theorem exec_scall (f : FmtA) (s : State) : exec (.scall f) s = execScall f s := rfl
@[simp] theorem exec_scallUp (f : FmtA) (s : State) : exec (.scallUp f) s = execScallUp f s := rfl
@[simp] theorem exec_scallReply (f : FmtA) (s : State) : exec (.scallReply f) s = execScallReply f s := rfl
@[simp] theorem exec_scallLaunch (f : FmtA) (s : State) : exec (.scallLaunch f) s = execScallLaunch f s := rfl
@[simp] theorem exec_fcall (f : FmtA) (s : State) : exec (.fcall f) s = execFcall f s := rfl
@[simp] theorem exec_fcallDone (f : FmtA) (s : State) : exec (.fcallDone f) s = execFcallDone f s := rfl
@[simp] theorem exec_bar (f : FmtA) (s : State) : exec (.bar f) s = execBar f s := rfl
@[simp] theorem exec_gbar (f : FmtI) (s : State) : exec (.gbar f) s = execGbar f s := rfl
@[simp] theorem exec_gred (f : FmtA) (s : State) : exec (.gred f) s = execGred f s := rfl
@[simp] theorem exec_ident (f : FmtA) (s : State) : exec (.ident f) s = execIdent f s := rfl
@[simp] theorem exec_lease (f : FmtI) (s : State) : exec (.lease f) s = execLease f s := rfl
@[simp] theorem exec_leaseMeas (f : FmtI) (s : State) : exec (.leaseMeas f) s = execLeaseMeas f s := rfl
@[simp] theorem exec_tleft (f : FmtA) (s : State) : exec (.tleft f) s = execTleft f s := rfl
@[simp] theorem exec_clkreq (f : FmtA) (s : State) : exec (.clkreq f) s = execClkreq f s := rfl
@[simp] theorem exec_clkreqArm (f : FmtA) (s : State) : exec (.clkreqArm f) s = execClkreqArm f s := rfl
@[simp] theorem exec_sleep (f : FmtI) (s : State) : exec (.sleep f) s = execSleep f s := rfl
@[simp] theorem exec_eret (f : FmtA) (s : State) : exec (.eret f) s = execEret f s := rfl
@[simp] theorem exec_eretSkip (f : FmtA) (s : State) : exec (.eretSkip f) s = execEretSkip f s := rfl
@[simp] theorem exec_mapfp (f : FmtA) (s : State) : exec (.mapfp f) s = execMapfp f s := rfl
@[simp] theorem exec_tlbinvAll (f : FmtA) (s : State) : exec (.tlbinvAll f) s = execTlbinvAll f s := rfl
@[simp] theorem exec_tlbinvSpace (f : FmtA) (s : State) : exec (.tlbinvSpace f) s = execTlbinvSpace f s := rfl
@[simp] theorem exec_tlbinvPage (f : FmtA) (s : State) : exec (.tlbinvPage f) s = execTlbinvPage f s := rfl
@[simp] theorem exec_tlbinvS2all (f : FmtA) (s : State) : exec (.tlbinvS2all f) s = execTlbinvS2all f s := rfl
@[simp] theorem exec_tlbinvS2page (f : FmtA) (s : State) : exec (.tlbinvS2page f) s = execTlbinvS2page f s := rfl
@[simp] theorem exec_icinvMod (f : FmtA) (s : State) : exec (.icinvMod f) s = execIcinvMod f s := rfl
@[simp] theorem exec_icinvRange (f : FmtA) (s : State) : exec (.icinvRange f) s = execIcinvRange f s := rfl
@[simp] theorem exec_modreg (f : FmtA) (s : State) : exec (.modreg f) s = execModreg f s := rfl
@[simp] theorem exec_modrel (f : FmtA) (s : State) : exec (.modrel f) s = execModrel f s := rfl
@[simp] theorem exec_modrelNb (f : FmtA) (s : State) : exec (.modrelNb f) s = execModrelNb f s := rfl
@[simp] theorem exec_frscrub (f : FmtA) (s : State) : exec (.frscrub f) s = execFrscrub f s := rfl
@[simp] theorem exec_fotset (f : FmtA) (s : State) : exec (.fotset f) s = execFotset f s := rfl
@[simp] theorem exec_wmset (f : FmtA) (s : State) : exec (.wmset f) s = execWmset f s := rfl
@[simp] theorem exec_vfsave (f : FmtA) (s : State) : exec (.vfsave f) s = execVfsave f s := rfl
@[simp] theorem exec_vfrest (f : FmtA) (s : State) : exec (.vfrest f) s = execVfrest f s := rfl
@[simp] theorem exec_ctxsave (f : FmtA) (s : State) : exec (.ctxsave f) s = execCtxsave f s := rfl
@[simp] theorem exec_ctxsaveKill (f : FmtA) (s : State) : exec (.ctxsaveKill f) s = execCtxsaveKill f s := rfl
@[simp] theorem exec_ctxrest (f : FmtA) (s : State) : exec (.ctxrest f) s = execCtxrest f s := rfl
@[simp] theorem exec_rdraw (f : FmtA) (s : State) : exec (.rdraw f) s = execRdraw f s := rfl
@[simp] theorem exec_pxout (f : FmtA) (s : State) : exec (.pxout f) s = execPxout f s := rfl
@[simp] theorem exec_tsample (f : FmtA) (s : State) : exec (.tsample f) s = execTsample f s := rfl
@[simp] theorem exec_tfetch (f : FmtA) (s : State) : exec (.tfetch f) s = execTfetch f s := rfl
@[simp] theorem exec_rtrace (f : FmtA) (s : State) : exec (.rtrace f) s = execRtrace f s := rfl
@[simp] theorem exec_rhit (f : FmtA) (s : State) : exec (.rhit f) s = execRhit f s := rfl
@[simp] theorem exec_disc (f : FmtA) (s : State) : exec (.disc f) s = execDisc f s := rfl
@[simp] theorem exec_attr (f : FmtA) (s : State) : exec (.attr f) s = execAttr f s := rfl
@[simp] theorem exec_engineWordStart (s : State) : exec .engineWordStart s = execEngineWordStart s := rfl
@[simp] theorem exec_line (s : State) : exec .line s = execLine s := rfl
@[simp] theorem exec_box (s : State) : exec .box s = execBox s := rfl
@[simp] theorem exec_fill (s : State) : exec .fill s = execFill s := rfl
@[simp] theorem exec_zpack (s : State) : exec .zpack s = execZpack s := rfl
@[simp] theorem exec_zunpack (s : State) : exec .zunpack s = execZunpack s := rfl
@[simp] theorem exec_copyCommandComplete (s : State) : exec .copyCommandComplete s = execCopyCommandComplete s := rfl
@[simp] theorem exec_engineCommandFault (s : State) : exec .engineCommandFault s = execEngineCommandFault s := rfl
@[simp] theorem exec_matrixChunkStart (s : State) : exec .matrixChunkStart s = execMatrixChunkStart s := rfl
@[simp] theorem exec_matrixCommandComplete (s : State) : exec .matrixCommandComplete s = execMatrixCommandComplete s := rfl
@[simp] theorem exec_freezeResume (s : State) : exec .freezeResume s = execFreezeResume s := rfl
@[simp] theorem exec_freezeConversion (s : State) : exec .freezeConversion s = execFreezeConversion s := rfl
@[simp] theorem exec_rayBatchComplete (s : State) : exec .rayBatchComplete s = execRayBatchComplete s := rfl
@[simp] theorem exec_wdqService (s : State) : exec .wdqService s = execWdqService s := rfl
@[simp] theorem exec_wdqAnswer (s : State) : exec .wdqAnswer s = execWdqAnswer s := rfl
@[simp] theorem exec_markerArrival (s : State) : exec .markerArrival s = execMarkerArrival s := rfl
@[simp] theorem exec_longLatencyWriteComplete (s : State) : exec .longLatencyWriteComplete s = execLongLatencyWriteComplete s := rfl
@[simp] theorem exec_fetchBlockArrival (s : State) : exec .fetchBlockArrival s = execFetchBlockArrival s := rfl
@[simp] theorem exec_launchValidation (s : State) : exec .launchValidation s = execLaunchValidation s := rfl
@[simp] theorem exec_teamPlacement (s : State) : exec .teamPlacement s = execTeamPlacement s := rfl
@[simp] theorem exec_teamStart (s : State) : exec .teamStart s = execTeamStart s := rfl
@[simp] theorem exec_neighbourBalancing (s : State) : exec .neighbourBalancing s = execNeighbourBalancing s := rfl
@[simp] theorem exec_teamRetirement (s : State) : exec .teamRetirement s = execTeamRetirement s := rfl
@[simp] theorem exec_launchCompletion (s : State) : exec .launchCompletion s = execLaunchCompletion s := rfl
@[simp] theorem exec_moduleVerificationComplete (s : State) : exec .moduleVerificationComplete s = execModuleVerificationComplete s := rfl
@[simp] theorem exec_moduleReleaseComplete (s : State) : exec .moduleReleaseComplete s = execModuleReleaseComplete s := rfl
@[simp] theorem exec_phaseBoundaryStart (s : State) : exec .phaseBoundaryStart s = execPhaseBoundaryStart s := rfl
@[simp] theorem exec_phaseBoundaryComplete (s : State) : exec .phaseBoundaryComplete s = execPhaseBoundaryComplete s := rfl
@[simp] theorem exec_barrierRelease (s : State) : exec .barrierRelease s = execBarrierRelease s := rfl
@[simp] theorem exec_pisteArrivalForward (s : State) : exec .pisteArrivalForward s = execPisteArrivalForward s := rfl
@[simp] theorem exec_groupRelease (s : State) : exec .groupRelease s = execGroupRelease s := rfl
@[simp] theorem exec_groupReleaseMessage (s : State) : exec .groupReleaseMessage s = execGroupReleaseMessage s := rfl
@[simp] theorem exec_barrierRefresh (s : State) : exec .barrierRefresh s = execBarrierRefresh s := rfl
@[simp] theorem exec_refusionMismatch (s : State) : exec .refusionMismatch s = execRefusionMismatch s := rfl
@[simp] theorem exec_lineEviction (s : State) : exec .lineEviction s = execLineEviction s := rfl
@[simp] theorem exec_writebackArrival (s : State) : exec .writebackArrival s = execWritebackArrival s := rfl
@[simp] theorem exec_writebackAck (s : State) : exec .writebackAck s = execWritebackAck s := rfl
@[simp] theorem exec_loadRequestArrival (s : State) : exec .loadRequestArrival s = execLoadRequestArrival s := rfl
@[simp] theorem exec_atomicAtHome (s : State) : exec .atomicAtHome s = execAtomicAtHome s := rfl
@[simp] theorem exec_loamRefreshWindowStart (s : State) : exec .loamRefreshWindowStart s = execLoamRefreshWindowStart s := rfl
@[simp] theorem exec_loamRefreshWindowEnd (s : State) : exec .loamRefreshWindowEnd s = execLoamRefreshWindowEnd s := rfl
@[simp] theorem exec_pageWalkStart (s : State) : exec .pageWalkStart s = execPageWalkStart s := rfl
@[simp] theorem exec_pageWalkComplete (s : State) : exec .pageWalkComplete s = execPageWalkComplete s := rfl
@[simp] theorem exec_haltBroadcast (s : State) : exec .haltBroadcast s = execHaltBroadcast s := rfl
@[simp] theorem exec_handlerEntry (s : State) : exec .handlerEntry s = execHandlerEntry s := rfl
@[simp] theorem exec_asyncFaultDelivery (s : State) : exec .asyncFaultDelivery s = execAsyncFaultDelivery s := rfl
@[simp] theorem exec_handlerWatchdogExpiry (s : State) : exec .handlerWatchdogExpiry s = execHandlerWatchdogExpiry s := rfl
@[simp] theorem exec_blockedTeamEligible (s : State) : exec .blockedTeamEligible s = execBlockedTeamEligible s := rfl
@[simp] theorem exec_preemptionDecision (s : State) : exec .preemptionDecision s = execPreemptionDecision s := rfl
@[simp] theorem exec_drainWindowEnd (s : State) : exec .drainWindowEnd s = execDrainWindowEnd s := rfl
@[simp] theorem exec_restore (s : State) : exec .restore s = execRestore s := rfl
@[simp] theorem exec_measuringIntervalEnd (s : State) : exec .measuringIntervalEnd s = execMeasuringIntervalEnd s := rfl
@[simp] theorem exec_warpRotation (s : State) : exec .warpRotation s = execWarpRotation s := rfl
@[simp] theorem exec_pathBoost (s : State) : exec .pathBoost s = execPathBoost s := rfl
@[simp] theorem exec_greedyLimit (s : State) : exec .greedyLimit s = execGreedyLimit s := rfl
@[simp] theorem exec_powerForcedIssue (s : State) : exec .powerForcedIssue s = execPowerForcedIssue s := rfl
@[simp] theorem exec_slewWindowEnd (s : State) : exec .slewWindowEnd s = execSlewWindowEnd s := rfl
@[simp] theorem exec_droopTrip (s : State) : exec .droopTrip s = execDroopTrip s := rfl
@[simp] theorem exec_quantRestore (s : State) : exec .quantRestore s = execQuantRestore s := rfl
@[simp] theorem exec_sleepEnd (s : State) : exec .sleepEnd s = execSleepEnd s := rfl
@[simp] theorem exec_arbiterRun (s : State) : exec .arbiterRun s = execArbiterRun s := rfl
@[simp] theorem exec_clusterIdleRelease (s : State) : exec .clusterIdleRelease s = execClusterIdleRelease s := rfl
@[simp] theorem exec_grantApply (s : State) : exec .grantApply s = execGrantApply s := rfl
@[simp] theorem exec_quiescenceTimeout (s : State) : exec .quiescenceTimeout s = execQuiescenceTimeout s := rfl
@[simp] theorem exec_railSettled (s : State) : exec .railSettled s = execRailSettled s := rfl
@[simp] theorem exec_relockComplete (s : State) : exec .relockComplete s = execRelockComplete s := rfl
@[simp] theorem exec_railLower (s : State) : exec .railLower s = execRailLower s := rfl
@[simp] theorem exec_mwaitWake (s : State) : exec .mwaitWake s = execMwaitWake s := rfl
@[simp] theorem exec_mwaitPoll (s : State) : exec .mwaitPoll s = execMwaitPoll s := rfl
@[simp] theorem exec_rasterBatchAccept (s : State) : exec .rasterBatchAccept s = execRasterBatchAccept s := rfl
@[simp] theorem exec_splitFrameForward (s : State) : exec .splitFrameForward s = execSplitFrameForward s := rfl
@[simp] theorem exec_mergerPerform (s : State) : exec .mergerPerform s = execMergerPerform s := rfl
@[simp] theorem exec_drawBatchComplete (s : State) : exec .drawBatchComplete s = execDrawBatchComplete s := rfl
@[simp] theorem exec_scallBatchComplete (s : State) : exec .scallBatchComplete s = execScallBatchComplete s := rfl
@[simp] theorem exec_regulatorTick (s : State) : exec .regulatorTick s = execRegulatorTick s := rfl
@[simp] theorem exec_verticalBlank (s : State) : exec .verticalBlank s = execVerticalBlank s := rfl
@[simp] theorem exec_dhbaseWrite (s : State) : exec .dhbaseWrite s = execDhbaseWrite s := rfl
@[simp] theorem exec_dhselClr (s : State) : exec .dhselClr s = execDhselClr s := rfl
@[simp] theorem exec_scselClr (s : State) : exec .scselClr s = execScselClr s := rfl
@[simp] theorem exec_rferrClear (s : State) : exec .rferrClear s = execRferrClear s := rfl
@[simp] theorem exec_sperrClear (s : State) : exec .sperrClear s = execSperrClear s := rfl
@[simp] theorem exec_l1errClear (s : State) : exec .l1errClear s = execL1errClear s := rfl
@[simp] theorem exec_srseedWrite (s : State) : exec .srseedWrite s = execSrseedWrite s := rfl
@[simp] theorem exec_hmodWrite (s : State) : exec .hmodWrite s = execHmodWrite s := rfl
@[simp] theorem exec_gkindWrite (s : State) : exec .gkindWrite s = execGkindWrite s := rfl
@[simp] theorem exec_partitionCreate (s : State) : exec .partitionCreate s = execPartitionCreate s := rfl
@[simp] theorem exec_partitionDestroy (s : State) : exec .partitionDestroy s = execPartitionDestroy s := rfl
@[simp] theorem exec_vfqEnable (s : State) : exec .vfqEnable s = execVfqEnable s := rfl
@[simp] theorem exec_vfqRunSet (s : State) : exec .vfqRunSet s = execVfqRunSet s := rfl
@[simp] theorem exec_vfqRunClear (s : State) : exec .vfqRunClear s = execVfqRunClear s := rfl
@[simp] theorem exec_skclkWrite (s : State) : exec .skclkWrite s = execSkclkWrite s := rfl
@[simp] theorem exec_registerWrite (s : State) : exec .registerWrite s = execRegisterWrite s := rfl
@[simp] theorem exec_doorbell (s : State) : exec .doorbell s = execDoorbell s := rfl
@[simp] theorem exec_pcieInboundRequest (s : State) : exec .pcieInboundRequest s = execPcieInboundRequest s := rfl
@[simp] theorem exec_flefinInboundRequest (s : State) : exec .flefinInboundRequest s = execFlefinInboundRequest s := rfl
@[simp] theorem exec_flefinResponse (s : State) : exec .flefinResponse s = execFlefinResponse s := rfl
@[simp] theorem exec_flefinTimeout (s : State) : exec .flefinTimeout s = execFlefinTimeout s := rfl
@[simp] theorem exec_flefinPortFailure (s : State) : exec .flefinPortFailure s = execFlefinPortFailure s := rfl
@[simp] theorem exec_ucieRetryFailure (s : State) : exec .ucieRetryFailure s = execUcieRetryFailure s := rfl
@[simp] theorem exec_standbyWake (s : State) : exec .standbyWake s = execStandbyWake s := rfl
@[simp] theorem exec_powerOnReset (s : State) : exec .powerOnReset s = execPowerOnReset s := rfl
@[simp] theorem exec_temperatureReading (s : State) : exec .temperatureReading s = execTemperatureReading s := rfl
@[simp] theorem exec_thermalTrip (s : State) : exec .thermalTrip s = execThermalTrip s := rfl
@[simp] theorem exec_scanOutLine (s : State) : exec .scanOutLine s = execScanOutLine s := rfl
@[simp] theorem exec_droopWithholdEnd (s : State) : exec .droopWithholdEnd s = execDroopWithholdEnd s := rfl
@[simp] theorem exec_standbyEntry (s : State) : exec .standbyEntry s = execStandbyEntry s := rfl
@[simp] theorem exec_flefinPortTraining (s : State) : exec .flefinPortTraining s = execFlefinPortTraining s := rfl
@[simp] theorem exec_frscrubComplete (s : State) : exec .frscrubComplete s = execFrscrubComplete s := rfl
@[simp] theorem exec_icinvComplete (s : State) : exec .icinvComplete s = execIcinvComplete s := rfl

end Sys2Proof.Machine
end

