-- ==== Sys2Proof/Laws/PerInstr.lean ====
section
/-!
SUPPORT. The family RoundTrip: the first word of an instruction's encoding names that instruction again and carries its
control field (R32, R36, R47).
-/

namespace Sys2Proof.Laws.RoundTrip

open Sys2Proof Sys2Proof.Machine Sys2Proof.Laws

/-- The words of a well-formed instruction read back as it, every operand and the control field as they were. -/
def Statement (i : Instr) : Prop :=
  ∀ (c : Ctl) (w : Word) (r : List Word), wf i = true → encode c i = w :: r →
    instrOf (isSvcForm i) w (r.headD 0) = some i ∧ ctlOf w = c


theorem nop (f : FmtA) : Statement (.nop f) := by
  intro c w r h e
  cases e
  exact ⟨by unfold instrOf; rw [op_wordA, fmtA_wordA]; rfl, ctl_wordA ..⟩

theorem br (f : FmtJ) : Statement (.br f) := by
  intro c w r h e
  cases e
  exact ⟨by unfold instrOf; rw [op_wordJ, fmtJ_wordJ]; rfl, ctl_wordJ ..⟩

theorem brc (f : FmtJ) : Statement (.brc f) := by
  intro c w r h e
  cases e
  exact ⟨by unfold instrOf; rw [op_wordJ, fmtJ_wordJ]; rfl, ctl_wordJ ..⟩

theorem brany (f : FmtJ) : Statement (.brany f) := by
  intro c w r h e
  cases e
  exact ⟨by unfold instrOf; rw [op_wordJ, fmtJ_wordJ]; rfl, ctl_wordJ ..⟩

theorem brall (f : FmtJ) : Statement (.brall f) := by
  intro c w r h e
  cases e
  exact ⟨by unfold instrOf; rw [op_wordJ, fmtJ_wordJ]; rfl, ctl_wordJ ..⟩

theorem brx (f : FmtA) : Statement (.brx f) := by
  intro c w r h e
  cases e
  exact ⟨by unfold instrOf; rw [op_wordA, fmtA_wordA]; rfl, ctl_wordA ..⟩

theorem jmpx (f : FmtA) : Statement (.jmpx f) := by
  intro c w r h e
  cases e
  exact ⟨by unfold instrOf; rw [op_wordA, fmtA_wordA]; rfl, ctl_wordA ..⟩

theorem call (f : FmtJ) : Statement (.call f) := by
  intro c w r h e
  cases e
  exact ⟨by unfold instrOf; rw [op_wordJ, fmtJ_wordJ]; rfl, ctl_wordJ ..⟩

theorem ret (f : FmtA) : Statement (.ret f) := by
  intro c w r h e
  cases e
  exact ⟨by unfold instrOf; rw [op_wordA, fmtA_wordA]; rfl, ctl_wordA ..⟩

theorem rejoin (f : FmtI) : Statement (.rejoin f) := by
  intro c w r h e
  cases e
  exact ⟨by unfold instrOf; rw [op_wordI, fmtI_wordI]; rfl, ctl_wordI ..⟩

theorem loop (f : FmtJ) : Statement (.loop f) := by
  intro c w r h e
  cases e
  exact ⟨by unfold instrOf; rw [op_wordJ, fmtJ_wordJ]; rfl, ctl_wordJ ..⟩

theorem exit (f : FmtA) : Statement (.exit f) := by
  intro c w r h e
  cases e
  exact ⟨by unfold instrOf; rw [op_wordA, fmtA_wordA]; rfl, ctl_wordA ..⟩

theorem trap (f : FmtI) : Statement (.trap f) := by
  intro c w r h e
  cases e
  exact ⟨by unfold instrOf; rw [op_wordI, fmtI_wordI]; rfl, ctl_wordI ..⟩

theorem ipref (f : FmtA) : Statement (.ipref f) := by
  intro c w r h e
  cases e
  exact ⟨by unfold instrOf; rw [op_wordA, fmtA_wordA]; rfl, ctl_wordA ..⟩

theorem elect (f : FmtA) : Statement (.elect f) := by
  intro c w r h e
  cases e
  exact ⟨by unfold instrOf; rw [op_wordA, fmtA_wordA]; rfl, ctl_wordA ..⟩

theorem yield (f : FmtA) : Statement (.yield f) := by
  intro c w r h e
  cases e
  exact ⟨by unfold instrOf; rw [op_wordA, fmtA_wordA]; rfl, ctl_wordA ..⟩

theorem add (f : FmtA) : Statement (.add f) := by
  intro c w r h e
  cases e
  exact ⟨by unfold instrOf; rw [op_wordA, fmtA_wordA]; rfl, ctl_wordA ..⟩

theorem sub (f : FmtA) : Statement (.sub f) := by
  intro c w r h e
  cases e
  exact ⟨by unfold instrOf; rw [op_wordA, fmtA_wordA]; rfl, ctl_wordA ..⟩

theorem mul (f : FmtA) : Statement (.mul f) := by
  intro c w r h e
  cases e
  exact ⟨by unfold instrOf; rw [op_wordA, fmtA_wordA]; rfl, ctl_wordA ..⟩

theorem mulh (f : FmtA) : Statement (.mulh f) := by
  intro c w r h e
  cases e
  exact ⟨by unfold instrOf; rw [op_wordA, fmtA_wordA]; rfl, ctl_wordA ..⟩

theorem div (f : FmtA) : Statement (.div f) := by
  intro c w r h e
  cases e
  exact ⟨by unfold instrOf; rw [op_wordA, fmtA_wordA]; rfl, ctl_wordA ..⟩

theorem rem (f : FmtA) : Statement (.rem f) := by
  intro c w r h e
  cases e
  exact ⟨by unfold instrOf; rw [op_wordA, fmtA_wordA]; rfl, ctl_wordA ..⟩

theorem and (f : FmtA) : Statement (.and f) := by
  intro c w r h e
  cases e
  exact ⟨by unfold instrOf; rw [op_wordA, fmtA_wordA]; rfl, ctl_wordA ..⟩

theorem or (f : FmtA) : Statement (.or f) := by
  intro c w r h e
  cases e
  exact ⟨by unfold instrOf; rw [op_wordA, fmtA_wordA]; rfl, ctl_wordA ..⟩

theorem xor (f : FmtA) : Statement (.xor f) := by
  intro c w r h e
  cases e
  exact ⟨by unfold instrOf; rw [op_wordA, fmtA_wordA]; rfl, ctl_wordA ..⟩

theorem shl (f : FmtA) : Statement (.shl f) := by
  intro c w r h e
  cases e
  exact ⟨by unfold instrOf; rw [op_wordA, fmtA_wordA]; rfl, ctl_wordA ..⟩

theorem shr (f : FmtA) : Statement (.shr f) := by
  intro c w r h e
  cases e
  exact ⟨by unfold instrOf; rw [op_wordA, fmtA_wordA]; rfl, ctl_wordA ..⟩

theorem sar (f : FmtA) : Statement (.sar f) := by
  intro c w r h e
  cases e
  exact ⟨by unfold instrOf; rw [op_wordA, fmtA_wordA]; rfl, ctl_wordA ..⟩

theorem min (f : FmtA) : Statement (.min f) := by
  intro c w r h e
  cases e
  exact ⟨by unfold instrOf; rw [op_wordA, fmtA_wordA]; rfl, ctl_wordA ..⟩

theorem max (f : FmtA) : Statement (.max f) := by
  intro c w r h e
  cases e
  exact ⟨by unfold instrOf; rw [op_wordA, fmtA_wordA]; rfl, ctl_wordA ..⟩

theorem bitc (f : FmtA) : Statement (.bitc f) := by
  intro c w r h e
  cases e
  exact ⟨by unfold instrOf; rw [op_wordA, fmtA_wordA]; rfl, ctl_wordA ..⟩

theorem sel (f : FmtA) : Statement (.sel f) := by
  intro c w r h e
  cases e
  exact ⟨by unfold instrOf; rw [op_wordA, fmtA_wordA]; rfl, ctl_wordA ..⟩

theorem addi (f : FmtI) : Statement (.addi f) := by
  intro c w r h e
  cases e
  exact ⟨by unfold instrOf; rw [op_wordI, fmtI_wordI]; rfl, ctl_wordI ..⟩

theorem andi (f : FmtI) : Statement (.andi f) := by
  intro c w r h e
  cases e
  exact ⟨by unfold instrOf; rw [op_wordI, fmtI_wordI]; rfl, ctl_wordI ..⟩

theorem ori (f : FmtI) : Statement (.ori f) := by
  intro c w r h e
  cases e
  exact ⟨by unfold instrOf; rw [op_wordI, fmtI_wordI]; rfl, ctl_wordI ..⟩

theorem xori (f : FmtI) : Statement (.xori f) := by
  intro c w r h e
  cases e
  exact ⟨by unfold instrOf; rw [op_wordI, fmtI_wordI]; rfl, ctl_wordI ..⟩

theorem shi (f : FmtI) : Statement (.shi f) := by
  intro c w r h e
  cases e
  exact ⟨by unfold instrOf; rw [op_wordI, fmtI_wordI]; rfl, ctl_wordI ..⟩

theorem lim (f : FmtI) (lit : Word) : Statement (.lim f lit) := by
  intro c w r h e
  cases e
  exact ⟨by unfold instrOf; rw [op_wordI, fmtI_wordI]; rfl, ctl_wordI ..⟩

theorem mov (f : FmtA) : Statement (.mov f) := by
  intro c w r h e
  have hm := wf_mod (f := f) (k := 0) h rfl
  cases f
  subst hm
  cases e
  exact ⟨by unfold instrOf; rw [op_wordA, fmtA_wordA]; rfl, ctl_wordA ..⟩

theorem movDomain (f : FmtA) : Statement (.movDomain f) := by
  intro c w r h e
  have hm := wf_mod (f := f) (k := 1) h rfl
  cases f
  subst hm
  cases e
  exact ⟨by unfold instrOf; rw [op_wordA, fmtA_wordA]; rfl, ctl_wordA ..⟩

theorem lea (f : FmtA) : Statement (.lea f) := by
  intro c w r h e
  cases e
  exact ⟨by unfold instrOf; rw [op_wordA, fmtA_wordA]; rfl, ctl_wordA ..⟩

theorem cmp (f : FmtA) : Statement (.cmp f) := by
  intro c w r h e
  cases e
  exact ⟨by unfold instrOf; rw [op_wordA, fmtA_wordA]; rfl, ctl_wordA ..⟩

theorem cmpi (f : FmtI) : Statement (.cmpi f) := by
  intro c w r h e
  cases e
  exact ⟨by unfold instrOf; rw [op_wordI, fmtI_wordI]; rfl, ctl_wordI ..⟩

theorem csrr (f : FmtI) : Statement (.csrr f) := by
  intro c w r h e
  cases e
  exact ⟨by unfold instrOf; rw [op_wordI, fmtI_wordI]; rfl, ctl_wordI ..⟩

theorem csrw (f : FmtI) : Statement (.csrw f) := by
  intro c w r h e
  cases e
  exact ⟨by unfold instrOf; rw [op_wordI, fmtI_wordI]; rfl, ctl_wordI ..⟩

theorem csrs (f : FmtI) : Statement (.csrs f) := by
  intro c w r h e
  cases e
  exact ⟨by unfold instrOf; rw [op_wordI, fmtI_wordI]; rfl, ctl_wordI ..⟩

theorem fmtset (f : FmtA) : Statement (.fmtset f) := by
  intro c w r h e
  have hm := wf_mod (f := f) (k := 0) h rfl
  cases f
  subst hm
  cases e
  exact ⟨by unfold instrOf; rw [op_wordA, fmtA_wordA]; rfl, ctl_wordA ..⟩

theorem fmtsetM (f : FmtA) : Statement (.fmtsetM f) := by
  intro c w r h e
  have hm := wf_mod (f := f) (k := 1) h rfl
  cases f
  subst hm
  cases e
  exact ⟨by unfold instrOf; rw [op_wordA, fmtA_wordA]; rfl, ctl_wordA ..⟩

theorem dset (f : FmtA) : Statement (.dset f) := by
  intro c w r h e
  cases e
  exact ⟨by unfold instrOf; rw [op_wordA, fmtA_wordA]; rfl, ctl_wordA ..⟩

theorem rdtime (f : FmtA) : Statement (.rdtime f) := by
  intro c w r h e
  cases e
  exact ⟨by unfold instrOf; rw [op_wordA, fmtA_wordA]; rfl, ctl_wordA ..⟩

theorem pand (f : FmtA) : Statement (.pand f) := by
  intro c w r h e
  cases e
  exact ⟨by unfold instrOf; rw [op_wordA, fmtA_wordA]; rfl, ctl_wordA ..⟩

theorem por (f : FmtA) : Statement (.por f) := by
  intro c w r h e
  cases e
  exact ⟨by unfold instrOf; rw [op_wordA, fmtA_wordA]; rfl, ctl_wordA ..⟩

theorem pxor (f : FmtA) : Statement (.pxor f) := by
  intro c w r h e
  cases e
  exact ⟨by unfold instrOf; rw [op_wordA, fmtA_wordA]; rfl, ctl_wordA ..⟩

theorem pnot (f : FmtA) : Statement (.pnot f) := by
  intro c w r h e
  cases e
  exact ⟨by unfold instrOf; rw [op_wordA, fmtA_wordA]; rfl, ctl_wordA ..⟩

theorem pmov (f : FmtA) : Statement (.pmov f) := by
  intro c w r h e
  cases e
  exact ⟨by unfold instrOf; rw [op_wordA, fmtA_wordA]; rfl, ctl_wordA ..⟩

theorem pcount (f : FmtA) : Statement (.pcount f) := by
  intro c w r h e
  cases e
  exact ⟨by unfold instrOf; rw [op_wordA, fmtA_wordA]; rfl, ctl_wordA ..⟩

theorem pfirst (f : FmtA) : Statement (.pfirst f) := by
  intro c w r h e
  cases e
  exact ⟨by unfold instrOf; rw [op_wordA, fmtA_wordA]; rfl, ctl_wordA ..⟩

theorem vcmp (f : FmtA) : Statement (.vcmp f) := by
  intro c w r h e
  cases e
  exact ⟨by unfold instrOf; rw [op_wordA, fmtA_wordA]; rfl, ctl_wordA ..⟩

theorem vfcmp (f : FmtA) : Statement (.vfcmp f) := by
  intro c w r h e
  cases e
  exact ⟨by unfold instrOf; rw [op_wordA, fmtA_wordA]; rfl, ctl_wordA ..⟩

theorem pset (f : FmtA) : Statement (.pset f) := by
  intro c w r h e
  cases e
  exact ⟨by unfold instrOf; rw [op_wordA, fmtA_wordA]; rfl, ctl_wordA ..⟩

theorem pget (f : FmtA) : Statement (.pget f) := by
  intro c w r h e
  cases e
  exact ⟨by unfold instrOf; rw [op_wordA, fmtA_wordA]; rfl, ctl_wordA ..⟩

theorem vadd (f : FmtA) : Statement (.vadd f) := by
  intro c w r h e
  cases e
  exact ⟨by unfold instrOf; rw [op_wordA, fmtA_wordA]; rfl, ctl_wordA ..⟩

theorem vsub (f : FmtA) : Statement (.vsub f) := by
  intro c w r h e
  cases e
  exact ⟨by unfold instrOf; rw [op_wordA, fmtA_wordA]; rfl, ctl_wordA ..⟩

theorem vmul (f : FmtA) : Statement (.vmul f) := by
  intro c w r h e
  cases e
  exact ⟨by unfold instrOf; rw [op_wordA, fmtA_wordA]; rfl, ctl_wordA ..⟩

theorem vmulh (f : FmtA) : Statement (.vmulh f) := by
  intro c w r h e
  cases e
  exact ⟨by unfold instrOf; rw [op_wordA, fmtA_wordA]; rfl, ctl_wordA ..⟩

theorem vmad (f : FmtA) : Statement (.vmad f) := by
  intro c w r h e
  cases e
  exact ⟨by unfold instrOf; rw [op_wordA, fmtA_wordA]; rfl, ctl_wordA ..⟩

theorem vand (f : FmtA) : Statement (.vand f) := by
  intro c w r h e
  cases e
  exact ⟨by unfold instrOf; rw [op_wordA, fmtA_wordA]; rfl, ctl_wordA ..⟩

theorem vor (f : FmtA) : Statement (.vor f) := by
  intro c w r h e
  cases e
  exact ⟨by unfold instrOf; rw [op_wordA, fmtA_wordA]; rfl, ctl_wordA ..⟩

theorem vxor (f : FmtA) : Statement (.vxor f) := by
  intro c w r h e
  cases e
  exact ⟨by unfold instrOf; rw [op_wordA, fmtA_wordA]; rfl, ctl_wordA ..⟩

theorem vshl (f : FmtA) : Statement (.vshl f) := by
  intro c w r h e
  cases e
  exact ⟨by unfold instrOf; rw [op_wordA, fmtA_wordA]; rfl, ctl_wordA ..⟩

theorem vshr (f : FmtA) : Statement (.vshr f) := by
  intro c w r h e
  cases e
  exact ⟨by unfold instrOf; rw [op_wordA, fmtA_wordA]; rfl, ctl_wordA ..⟩

theorem vsar (f : FmtA) : Statement (.vsar f) := by
  intro c w r h e
  cases e
  exact ⟨by unfold instrOf; rw [op_wordA, fmtA_wordA]; rfl, ctl_wordA ..⟩

theorem vmin (f : FmtA) : Statement (.vmin f) := by
  intro c w r h e
  cases e
  exact ⟨by unfold instrOf; rw [op_wordA, fmtA_wordA]; rfl, ctl_wordA ..⟩

theorem vmax (f : FmtA) : Statement (.vmax f) := by
  intro c w r h e
  cases e
  exact ⟨by unfold instrOf; rw [op_wordA, fmtA_wordA]; rfl, ctl_wordA ..⟩

theorem vabn (f : FmtA) : Statement (.vabn f) := by
  intro c w r h e
  cases e
  exact ⟨by unfold instrOf; rw [op_wordA, fmtA_wordA]; rfl, ctl_wordA ..⟩

theorem vsel (f : FmtA) : Statement (.vsel f) := by
  intro c w r h e
  cases e
  exact ⟨by unfold instrOf; rw [op_wordA, fmtA_wordA]; rfl, ctl_wordA ..⟩

theorem vaddi (f : FmtI) : Statement (.vaddi f) := by
  intro c w r h e
  cases e
  exact ⟨by unfold instrOf; rw [op_wordI, fmtI_wordI]; rfl, ctl_wordI ..⟩

theorem fadd (f : FmtA) : Statement (.fadd f) := by
  intro c w r h e
  cases e
  exact ⟨by unfold instrOf; rw [op_wordA, fmtA_wordA]; rfl, ctl_wordA ..⟩

theorem fsub (f : FmtA) : Statement (.fsub f) := by
  intro c w r h e
  cases e
  exact ⟨by unfold instrOf; rw [op_wordA, fmtA_wordA]; rfl, ctl_wordA ..⟩

theorem fmul (f : FmtA) : Statement (.fmul f) := by
  intro c w r h e
  cases e
  exact ⟨by unfold instrOf; rw [op_wordA, fmtA_wordA]; rfl, ctl_wordA ..⟩

theorem fma (f : FmtA) : Statement (.fma f) := by
  intro c w r h e
  cases e
  exact ⟨by unfold instrOf; rw [op_wordA, fmtA_wordA]; rfl, ctl_wordA ..⟩

theorem fmin (f : FmtA) : Statement (.fmin f) := by
  intro c w r h e
  cases e
  exact ⟨by unfold instrOf; rw [op_wordA, fmtA_wordA]; rfl, ctl_wordA ..⟩

theorem fmax (f : FmtA) : Statement (.fmax f) := by
  intro c w r h e
  cases e
  exact ⟨by unfold instrOf; rw [op_wordA, fmtA_wordA]; rfl, ctl_wordA ..⟩

theorem fabn (f : FmtA) : Statement (.fabn f) := by
  intro c w r h e
  cases e
  exact ⟨by unfold instrOf; rw [op_wordA, fmtA_wordA]; rfl, ctl_wordA ..⟩

theorem fdiv (f : FmtA) : Statement (.fdiv f) := by
  intro c w r h e
  cases e
  exact ⟨by unfold instrOf; rw [op_wordA, fmtA_wordA]; rfl, ctl_wordA ..⟩

theorem fsqrt (f : FmtA) : Statement (.fsqrt f) := by
  intro c w r h e
  cases e
  exact ⟨by unfold instrOf; rw [op_wordA, fmtA_wordA]; rfl, ctl_wordA ..⟩

theorem fdot2 (f : FmtA) : Statement (.fdot2 f) := by
  intro c w r h e
  cases e
  exact ⟨by unfold instrOf; rw [op_wordA, fmtA_wordA]; rfl, ctl_wordA ..⟩

theorem fdot4 (f : FmtA) : Statement (.fdot4 f) := by
  intro c w r h e
  cases e
  exact ⟨by unfold instrOf; rw [op_wordA, fmtA_wordA]; rfl, ctl_wordA ..⟩

theorem vdot4 (f : FmtA) : Statement (.vdot4 f) := by
  intro c w r h e
  cases e
  exact ⟨by unfold instrOf; rw [op_wordA, fmtA_wordA]; rfl, ctl_wordA ..⟩

theorem fclass (f : FmtA) : Statement (.fclass f) := by
  intro c w r h e
  cases e
  exact ⟨by unfold instrOf; rw [op_wordA, fmtA_wordA]; rfl, ctl_wordA ..⟩

theorem frnd (f : FmtA) : Statement (.frnd f) := by
  intro c w r h e
  cases e
  exact ⟨by unfold instrOf; rw [op_wordA, fmtA_wordA]; rfl, ctl_wordA ..⟩

theorem cvt (f : FmtA) : Statement (.cvt f) := by
  intro c w r h e
  cases e
  exact ⟨by unfold instrOf; rw [op_wordA, fmtA_wordA]; rfl, ctl_wordA ..⟩

theorem cvtsr (f : FmtA) : Statement (.cvtsr f) := by
  intro c w r h e
  cases e
  exact ⟨by unfold instrOf; rw [op_wordA, fmtA_wordA]; rfl, ctl_wordA ..⟩

theorem vrcp (f : FmtA) : Statement (.vrcp f) := by
  intro c w r h e
  cases e
  exact ⟨by unfold instrOf; rw [op_wordA, fmtA_wordA]; rfl, ctl_wordA ..⟩

theorem vrsq (f : FmtA) : Statement (.vrsq f) := by
  intro c w r h e
  cases e
  exact ⟨by unfold instrOf; rw [op_wordA, fmtA_wordA]; rfl, ctl_wordA ..⟩

theorem vexp2 (f : FmtA) : Statement (.vexp2 f) := by
  intro c w r h e
  cases e
  exact ⟨by unfold instrOf; rw [op_wordA, fmtA_wordA]; rfl, ctl_wordA ..⟩

theorem vlog2 (f : FmtA) : Statement (.vlog2 f) := by
  intro c w r h e
  cases e
  exact ⟨by unfold instrOf; rw [op_wordA, fmtA_wordA]; rfl, ctl_wordA ..⟩

theorem vsin (f : FmtA) : Statement (.vsin f) := by
  intro c w r h e
  cases e
  exact ⟨by unfold instrOf; rw [op_wordA, fmtA_wordA]; rfl, ctl_wordA ..⟩

theorem vcos (f : FmtA) : Statement (.vcos f) := by
  intro c w r h e
  cases e
  exact ⟨by unfold instrOf; rw [op_wordA, fmtA_wordA]; rfl, ctl_wordA ..⟩

theorem vtanh (f : FmtA) : Statement (.vtanh f) := by
  intro c w r h e
  cases e
  exact ⟨by unfold instrOf; rw [op_wordA, fmtA_wordA]; rfl, ctl_wordA ..⟩

theorem vqnt (f : FmtA) : Statement (.vqnt f) := by
  intro c w r h e
  cases e
  exact ⟨by unfold instrOf; rw [op_wordA, fmtA_wordA]; rfl, ctl_wordA ..⟩

theorem vdeq (f : FmtA) : Statement (.vdeq f) := by
  intro c w r h e
  cases e
  exact ⟨by unfold instrOf; rw [op_wordA, fmtA_wordA]; rfl, ctl_wordA ..⟩

theorem vpack (f : FmtA) : Statement (.vpack f) := by
  intro c w r h e
  cases e
  exact ⟨by unfold instrOf; rw [op_wordA, fmtA_wordA]; rfl, ctl_wordA ..⟩

theorem vunpack (f : FmtA) : Statement (.vunpack f) := by
  intro c w r h e
  cases e
  exact ⟨by unfold instrOf; rw [op_wordA, fmtA_wordA]; rfl, ctl_wordA ..⟩

theorem vmov (f : FmtA) : Statement (.vmov f) := by
  intro c w r h e
  cases e
  exact ⟨by unfold instrOf; rw [op_wordA, fmtA_wordA]; rfl, ctl_wordA ..⟩

theorem vbcast (f : FmtA) : Statement (.vbcast f) := by
  intro c w r h e
  cases e
  exact ⟨by unfold instrOf; rw [op_wordA, fmtA_wordA]; rfl, ctl_wordA ..⟩

theorem vext (f : FmtA) : Statement (.vext f) := by
  intro c w r h e
  cases e
  exact ⟨by unfold instrOf; rw [op_wordA, fmtA_wordA]; rfl, ctl_wordA ..⟩

theorem vins (f : FmtA) : Statement (.vins f) := by
  intro c w r h e
  cases e
  exact ⟨by unfold instrOf; rw [op_wordA, fmtA_wordA]; rfl, ctl_wordA ..⟩

theorem vperm (f : FmtA) : Statement (.vperm f) := by
  intro c w r h e
  cases e
  exact ⟨by unfold instrOf; rw [op_wordA, fmtA_wordA]; rfl, ctl_wordA ..⟩

theorem vshfl (f : FmtA) : Statement (.vshfl f) := by
  intro c w r h e
  cases e
  exact ⟨by unfold instrOf; rw [op_wordA, fmtA_wordA]; rfl, ctl_wordA ..⟩

theorem vlane (f : FmtA) : Statement (.vlane f) := by
  intro c w r h e
  cases e
  exact ⟨by unfold instrOf; rw [op_wordA, fmtA_wordA]; rfl, ctl_wordA ..⟩

theorem vballot (f : FmtA) : Statement (.vballot f) := by
  intro c w r h e
  cases e
  exact ⟨by unfold instrOf; rw [op_wordA, fmtA_wordA]; rfl, ctl_wordA ..⟩

theorem red (f : FmtA) : Statement (.red f) := by
  intro c w r h e
  cases e
  exact ⟨by unfold instrOf; rw [op_wordA, fmtA_wordA]; rfl, ctl_wordA ..⟩

theorem scan (f : FmtA) : Statement (.scan f) := by
  intro c w r h e
  cases e
  exact ⟨by unfold instrOf; rw [op_wordA, fmtA_wordA]; rfl, ctl_wordA ..⟩

theorem rrbset (f : FmtI) : Statement (.rrbset f) := by
  intro c w r h e
  cases e
  exact ⟨by unfold instrOf; rw [op_wordI, fmtI_wordI]; rfl, ctl_wordI ..⟩

theorem ld (f : FmtM) : Statement (.ld f) := by
  intro c w r h e
  cases e
  exact ⟨by unfold instrOf; rw [op_wordM, fmtM_wordM]; rfl, ctl_wordM ..⟩

theorem st (f : FmtM) : Statement (.st f) := by
  intro c w r h e
  cases e
  exact ⟨by unfold instrOf; rw [op_wordM, fmtM_wordM]; rfl, ctl_wordM ..⟩

theorem vld (f : FmtM) : Statement (.vld f) := by
  intro c w r h e
  cases e
  exact ⟨by unfold instrOf; rw [op_wordM, fmtM_wordM]; rfl, ctl_wordM ..⟩

theorem vst (f : FmtM) : Statement (.vst f) := by
  intro c w r h e
  cases e
  exact ⟨by unfold instrOf; rw [op_wordM, fmtM_wordM]; rfl, ctl_wordM ..⟩

theorem vldg (f : FmtM) : Statement (.vldg f) := by
  intro c w r h e
  cases e
  exact ⟨by unfold instrOf; rw [op_wordM, fmtM_wordM]; rfl, ctl_wordM ..⟩

theorem vstg (f : FmtM) : Statement (.vstg f) := by
  intro c w r h e
  cases e
  exact ⟨by unfold instrOf; rw [op_wordM, fmtM_wordM]; rfl, ctl_wordM ..⟩

theorem vlds (f : FmtM) : Statement (.vlds f) := by
  intro c w r h e
  cases e
  exact ⟨by unfold instrOf; rw [op_wordM, fmtM_wordM]; rfl, ctl_wordM ..⟩

theorem vsts (f : FmtM) : Statement (.vsts f) := by
  intro c w r h e
  cases e
  exact ⟨by unfold instrOf; rw [op_wordM, fmtM_wordM]; rfl, ctl_wordM ..⟩

theorem spld (f : FmtM) : Statement (.spld f) := by
  intro c w r h e
  cases e
  exact ⟨by unfold instrOf; rw [op_wordM, fmtM_wordM]; rfl, ctl_wordM ..⟩

theorem spst (f : FmtM) : Statement (.spst f) := by
  intro c w r h e
  cases e
  exact ⟨by unfold instrOf; rw [op_wordM, fmtM_wordM]; rfl, ctl_wordM ..⟩

theorem dprf (f : FmtM) : Statement (.dprf f) := by
  intro c w r h e
  cases e
  exact ⟨by unfold instrOf; rw [op_wordM, fmtM_wordM]; rfl, ctl_wordM ..⟩

theorem ldl (f : FmtM) : Statement (.ldl f) := by
  intro c w r h e
  cases e
  exact ⟨by unfold instrOf; rw [op_wordM, fmtM_wordM]; rfl, ctl_wordM ..⟩

theorem atom (f : FmtN) : Statement (.atom f) := by
  intro c w r h e
  cases e
  exact ⟨by unfold instrOf; rw [op_wordN, fmtN_wordN]; rfl, ctl_wordN ..⟩

theorem vatom (f : FmtN) : Statement (.vatom f) := by
  intro c w r h e
  cases e
  exact ⟨by unfold instrOf; rw [op_wordN, fmtN_wordN]; rfl, ctl_wordN ..⟩

theorem cas (f : FmtN) : Statement (.cas f) := by
  intro c w r h e
  cases e
  exact ⟨by unfold instrOf; rw [op_wordN, fmtN_wordN]; rfl, ctl_wordN ..⟩

theorem vcas (f : FmtN) : Statement (.vcas f) := by
  intro c w r h e
  cases e
  exact ⟨by unfold instrOf; rw [op_wordN, fmtN_wordN]; rfl, ctl_wordN ..⟩

theorem fence (f : FmtM) : Statement (.fence f) := by
  intro c w r h e
  cases e
  exact ⟨by unfold instrOf; rw [op_wordM, fmtM_wordM]; rfl, ctl_wordM ..⟩

theorem phase (f : FmtA) : Statement (.phase f) := by
  intro c w r h e
  cases e
  exact ⟨by unfold instrOf; rw [op_wordA, fmtA_wordA]; rfl, ctl_wordA ..⟩

theorem mfence (f : FmtI) : Statement (.mfence f) := by
  intro c w r h e
  cases e
  exact ⟨by unfold instrOf; rw [op_wordI, fmtI_wordI]; rfl, ctl_wordI ..⟩

theorem mjoin (f : FmtA) : Statement (.mjoin f) := by
  intro c w r h e
  cases e
  exact ⟨by unfold instrOf; rw [op_wordA, fmtA_wordA]; rfl, ctl_wordA ..⟩

theorem sstep (f : FmtI) : Statement (.sstep f) := by
  intro c w r h e
  cases e
  exact ⟨by unfold instrOf; rw [op_wordI, fmtI_wordI]; rfl, ctl_wordI ..⟩

theorem mwait (f : FmtM) : Statement (.mwait f) := by
  intro c w r h e
  cases e
  exact ⟨by unfold instrOf; rw [op_wordM, fmtM_wordM]; rfl, ctl_wordM ..⟩

theorem mzero (f : FmtA) : Statement (.mzero f) := by
  intro c w r h e
  cases e
  exact ⟨by unfold instrOf; rw [op_wordA, fmtA_wordA]; rfl, ctl_wordA ..⟩

theorem mmul (f : FmtA) : Statement (.mmul f) := by
  intro c w r h e
  cases e
  exact ⟨by unfold instrOf; rw [op_wordA, fmtA_wordA]; rfl, ctl_wordA ..⟩

theorem mmull (f : FmtA) : Statement (.mmull f) := by
  intro c w r h e
  cases e
  exact ⟨by unfold instrOf; rw [op_wordA, fmtA_wordA]; rfl, ctl_wordA ..⟩

theorem mmulm (f : FmtA) : Statement (.mmulm f) := by
  intro c w r h e
  cases e
  exact ⟨by unfold instrOf; rw [op_wordA, fmtA_wordA]; rfl, ctl_wordA ..⟩

theorem mplane (f : FmtA) : Statement (.mplane f) := by
  intro c w r h e
  cases e
  exact ⟨by unfold instrOf; rw [op_wordA, fmtA_wordA]; rfl, ctl_wordA ..⟩

theorem mout (f : FmtA) : Statement (.mout f) := by
  intro c w r h e
  cases e
  exact ⟨by unfold instrOf; rw [op_wordA, fmtA_wordA]; rfl, ctl_wordA ..⟩

theorem mcfg (f : FmtI) : Statement (.mcfg f) := by
  intro c w r h e
  cases e
  exact ⟨by unfold instrOf; rw [op_wordI, fmtI_wordI]; rfl, ctl_wordI ..⟩

theorem tgive (f : FmtA) : Statement (.tgive f) := by
  intro c w r h e
  cases e
  exact ⟨by unfold instrOf; rw [op_wordA, fmtA_wordA]; rfl, ctl_wordA ..⟩

theorem ttake (f : FmtA) : Statement (.ttake f) := by
  intro c w r h e
  cases e
  exact ⟨by unfold instrOf; rw [op_wordA, fmtA_wordA]; rfl, ctl_wordA ..⟩

theorem trow (f : FmtA) : Statement (.trow f) := by
  intro c w r h e
  cases e
  exact ⟨by unfold instrOf; rw [op_wordA, fmtA_wordA]; rfl, ctl_wordA ..⟩

theorem twrow (f : FmtA) : Statement (.twrow f) := by
  intro c w r h e
  cases e
  exact ⟨by unfold instrOf; rw [op_wordA, fmtA_wordA]; rfl, ctl_wordA ..⟩

theorem spzero (f : FmtA) : Statement (.spzero f) := by
  intro c w r h e
  cases e
  exact ⟨by unfold instrOf; rw [op_wordA, fmtA_wordA]; rfl, ctl_wordA ..⟩

theorem qpush (f : FmtA) : Statement (.qpush f) := by
  intro c w r h e
  cases e
  exact ⟨by unfold instrOf; rw [op_wordA, fmtA_wordA]; rfl, ctl_wordA ..⟩

theorem qpushv (f : FmtA) : Statement (.qpushv f) := by
  intro c w r h e
  cases e
  exact ⟨by unfold instrOf; rw [op_wordA, fmtA_wordA]; rfl, ctl_wordA ..⟩

theorem qpop (f : FmtA) : Statement (.qpop f) := by
  intro c w r h e
  cases e
  exact ⟨by unfold instrOf; rw [op_wordA, fmtA_wordA]; rfl, ctl_wordA ..⟩

theorem qpopv (f : FmtA) : Statement (.qpopv f) := by
  intro c w r h e
  cases e
  exact ⟨by unfold instrOf; rw [op_wordA, fmtA_wordA]; rfl, ctl_wordA ..⟩

theorem qpeek (f : FmtA) : Statement (.qpeek f) := by
  intro c w r h e
  cases e
  exact ⟨by unfold instrOf; rw [op_wordA, fmtA_wordA]; rfl, ctl_wordA ..⟩

theorem cpy (f : FmtA) : Statement (.cpy f) := by
  intro c w r h e
  cases e
  exact ⟨by unfold instrOf; rw [op_wordA, fmtA_wordA]; rfl, ctl_wordA ..⟩

theorem cpyz (f : FmtA) : Statement (.cpyz f) := by
  intro c w r h e
  cases e
  exact ⟨by unfold instrOf; rw [op_wordA, fmtA_wordA]; rfl, ctl_wordA ..⟩

theorem wdq (f : FmtA) : Statement (.wdq f) := by
  intro c w r h e
  cases e
  exact ⟨by unfold instrOf; rw [op_wordA, fmtA_wordA]; rfl, ctl_wordA ..⟩

theorem launch (f : FmtA) : Statement (.launch f) := by
  intro c w r h e
  cases e
  exact ⟨by unfold instrOf; rw [op_wordA, fmtA_wordA]; rfl, ctl_wordA ..⟩

theorem scall (f : FmtA) : Statement (.scall f) := by
  intro c w r h e
  cases e
  exact ⟨by unfold instrOf; rw [op_wordA, fmtA_wordA]; rfl, ctl_wordA ..⟩

theorem scallUp (f : FmtA) : Statement (.scallUp f) := by
  intro c w r h e
  have hm := wf_mod (f := f) (k := 0) h rfl
  cases f
  subst hm
  cases e
  exact ⟨by unfold instrOf; rw [op_wordA, fmtA_wordA]; rfl, ctl_wordA ..⟩

theorem scallReply (f : FmtA) : Statement (.scallReply f) := by
  intro c w r h e
  have hm := wf_mod (f := f) (k := 1) h rfl
  cases f
  subst hm
  cases e
  exact ⟨by unfold instrOf; rw [op_wordA, fmtA_wordA]; rfl, ctl_wordA ..⟩

theorem scallLaunch (f : FmtA) : Statement (.scallLaunch f) := by
  intro c w r h e
  have hm := wf_mod (f := f) (k := 2) h rfl
  cases f
  subst hm
  cases e
  exact ⟨by unfold instrOf; rw [op_wordA, fmtA_wordA]; rfl, ctl_wordA ..⟩

theorem fcall (f : FmtA) : Statement (.fcall f) := by
  intro c w r h e
  have hm := wf_mod (f := f) (k := 0) h rfl
  cases f
  subst hm
  cases e
  exact ⟨by unfold instrOf; rw [op_wordA, fmtA_wordA]; rfl, ctl_wordA ..⟩

theorem fcallDone (f : FmtA) : Statement (.fcallDone f) := by
  intro c w r h e
  have hm := wf_mod (f := f) (k := 1) h rfl
  cases f
  subst hm
  cases e
  exact ⟨by unfold instrOf; rw [op_wordA, fmtA_wordA]; rfl, ctl_wordA ..⟩

theorem bar (f : FmtA) : Statement (.bar f) := by
  intro c w r h e
  cases e
  exact ⟨by unfold instrOf; rw [op_wordA, fmtA_wordA]; rfl, ctl_wordA ..⟩

theorem gbar (f : FmtI) : Statement (.gbar f) := by
  intro c w r h e
  cases e
  exact ⟨by unfold instrOf; rw [op_wordI, fmtI_wordI]; rfl, ctl_wordI ..⟩

theorem gred (f : FmtA) : Statement (.gred f) := by
  intro c w r h e
  cases e
  exact ⟨by unfold instrOf; rw [op_wordA, fmtA_wordA]; rfl, ctl_wordA ..⟩

theorem ident (f : FmtA) : Statement (.ident f) := by
  intro c w r h e
  cases e
  exact ⟨by unfold instrOf; rw [op_wordA, fmtA_wordA]; rfl, ctl_wordA ..⟩

theorem lease (f : FmtI) : Statement (.lease f) := by
  intro c w r h e
  cases e
  have hb : f.imm.getLsbD 9 = false := by
    have hm := wf_checks h _ (List.mem_append_right _ (List.mem_cons_self ..))
    simpa [ck] using (show _ ∧ _ by simpa [ck] using hm).2
  refine ⟨?_, ctl_wordI ..⟩
  unfold instrOf
  rw [op_wordI, fmtI_wordI]
  show some (if f.imm.getLsbD 9 then Instr.leaseMeas f else Instr.lease f) = _
  rw [hb]
  rfl

theorem leaseMeas (f : FmtI) : Statement (.leaseMeas f) := by
  intro c w r h e
  cases e
  have hb : f.imm.getLsbD 9 = true := by
    have hm := wf_checks h _ (List.mem_append_right _ (List.mem_cons_self ..))
    simpa [ck] using (show _ ∧ _ by simpa [ck] using hm).2
  refine ⟨?_, ctl_wordI ..⟩
  unfold instrOf
  rw [op_wordI, fmtI_wordI]
  show some (if f.imm.getLsbD 9 then Instr.leaseMeas f else Instr.lease f) = _
  rw [hb]
  rfl

theorem tleft (f : FmtA) : Statement (.tleft f) := by
  intro c w r h e
  cases e
  exact ⟨by unfold instrOf; rw [op_wordA, fmtA_wordA]; rfl, ctl_wordA ..⟩

theorem clkreq (f : FmtA) : Statement (.clkreq f) := by
  intro c w r h e
  have hm := wf_mod (f := f) (k := 0) h rfl
  cases f
  subst hm
  cases e
  exact ⟨by unfold instrOf; rw [op_wordA, fmtA_wordA]; rfl, ctl_wordA ..⟩

theorem clkreqArm (f : FmtA) : Statement (.clkreqArm f) := by
  intro c w r h e
  have hm := wf_mod (f := f) (k := 1) h rfl
  cases f
  subst hm
  cases e
  exact ⟨by unfold instrOf; rw [op_wordA, fmtA_wordA]; rfl, ctl_wordA ..⟩

theorem sleep (f : FmtI) : Statement (.sleep f) := by
  intro c w r h e
  cases e
  exact ⟨by unfold instrOf; rw [op_wordI, fmtI_wordI]; rfl, ctl_wordI ..⟩

theorem eret (f : FmtA) : Statement (.eret f) := by
  intro c w r h e
  have hm := wf_mod (f := f) (k := 0) h rfl
  cases f
  subst hm
  cases e
  exact ⟨by unfold instrOf; rw [op_wordA, fmtA_wordA]; rfl, ctl_wordA ..⟩

theorem eretSkip (f : FmtA) : Statement (.eretSkip f) := by
  intro c w r h e
  have hm := wf_mod (f := f) (k := 1) h rfl
  cases f
  subst hm
  cases e
  exact ⟨by unfold instrOf; rw [op_wordA, fmtA_wordA]; rfl, ctl_wordA ..⟩

theorem mapfp (f : FmtA) : Statement (.mapfp f) := by
  intro c w r h e
  cases e
  exact ⟨by unfold instrOf; rw [op_wordA, fmtA_wordA]; rfl, ctl_wordA ..⟩

theorem tlbinvAll (f : FmtA) : Statement (.tlbinvAll f) := by
  intro c w r h e
  have hm := wf_mod (f := f) (k := 0) h rfl
  cases f
  subst hm
  cases e
  exact ⟨by unfold instrOf; rw [op_wordA, fmtA_wordA]; rfl, ctl_wordA ..⟩

theorem tlbinvSpace (f : FmtA) : Statement (.tlbinvSpace f) := by
  intro c w r h e
  have hm := wf_mod (f := f) (k := 1) h rfl
  cases f
  subst hm
  cases e
  exact ⟨by unfold instrOf; rw [op_wordA, fmtA_wordA]; rfl, ctl_wordA ..⟩

theorem tlbinvPage (f : FmtA) : Statement (.tlbinvPage f) := by
  intro c w r h e
  have hm := wf_mod (f := f) (k := 2) h rfl
  cases f
  subst hm
  cases e
  exact ⟨by unfold instrOf; rw [op_wordA, fmtA_wordA]; rfl, ctl_wordA ..⟩

theorem tlbinvS2all (f : FmtA) : Statement (.tlbinvS2all f) := by
  intro c w r h e
  have hm := wf_mod (f := f) (k := 3) h rfl
  cases f
  subst hm
  cases e
  exact ⟨by unfold instrOf; rw [op_wordA, fmtA_wordA]; rfl, ctl_wordA ..⟩

theorem tlbinvS2page (f : FmtA) : Statement (.tlbinvS2page f) := by
  intro c w r h e
  have hm := wf_mod (f := f) (k := 4) h rfl
  cases f
  subst hm
  cases e
  exact ⟨by unfold instrOf; rw [op_wordA, fmtA_wordA]; rfl, ctl_wordA ..⟩

theorem icinvMod (f : FmtA) : Statement (.icinvMod f) := by
  intro c w r h e
  have hm := wf_mod (f := f) (k := 0) h rfl
  cases f
  subst hm
  cases e
  exact ⟨by unfold instrOf; rw [op_wordA, fmtA_wordA]; rfl, ctl_wordA ..⟩

theorem icinvRange (f : FmtA) : Statement (.icinvRange f) := by
  intro c w r h e
  have hm := wf_mod (f := f) (k := 1) h rfl
  cases f
  subst hm
  cases e
  exact ⟨by unfold instrOf; rw [op_wordA, fmtA_wordA]; rfl, ctl_wordA ..⟩

theorem modreg (f : FmtA) : Statement (.modreg f) := by
  intro c w r h e
  cases e
  exact ⟨by unfold instrOf; rw [op_wordA, fmtA_wordA]; rfl, ctl_wordA ..⟩

theorem modrel (f : FmtA) : Statement (.modrel f) := by
  intro c w r h e
  have hm := wf_mod (f := f) (k := 0) h rfl
  cases f
  subst hm
  cases e
  exact ⟨by unfold instrOf; rw [op_wordA, fmtA_wordA]; rfl, ctl_wordA ..⟩

theorem modrelNb (f : FmtA) : Statement (.modrelNb f) := by
  intro c w r h e
  have hm := wf_mod (f := f) (k := 1) h rfl
  cases f
  subst hm
  cases e
  exact ⟨by unfold instrOf; rw [op_wordA, fmtA_wordA]; rfl, ctl_wordA ..⟩

theorem frscrub (f : FmtA) : Statement (.frscrub f) := by
  intro c w r h e
  cases e
  exact ⟨by unfold instrOf; rw [op_wordA, fmtA_wordA]; rfl, ctl_wordA ..⟩

theorem fotset (f : FmtA) : Statement (.fotset f) := by
  intro c w r h e
  cases e
  exact ⟨by unfold instrOf; rw [op_wordA, fmtA_wordA]; rfl, ctl_wordA ..⟩

theorem wmset (f : FmtA) : Statement (.wmset f) := by
  intro c w r h e
  cases e
  exact ⟨by unfold instrOf; rw [op_wordA, fmtA_wordA]; rfl, ctl_wordA ..⟩

theorem vfsave (f : FmtA) : Statement (.vfsave f) := by
  intro c w r h e
  cases e
  exact ⟨by unfold instrOf; rw [op_wordA, fmtA_wordA]; rfl, ctl_wordA ..⟩

theorem vfrest (f : FmtA) : Statement (.vfrest f) := by
  intro c w r h e
  cases e
  exact ⟨by unfold instrOf; rw [op_wordA, fmtA_wordA]; rfl, ctl_wordA ..⟩

theorem ctxsave (f : FmtA) : Statement (.ctxsave f) := by
  intro c w r h e
  have hm := wf_mod (f := f) (k := 0) h rfl
  cases f
  subst hm
  cases e
  exact ⟨by unfold instrOf; rw [op_wordA, fmtA_wordA]; rfl, ctl_wordA ..⟩

theorem ctxsaveKill (f : FmtA) : Statement (.ctxsaveKill f) := by
  intro c w r h e
  have hm := wf_mod (f := f) (k := 1) h rfl
  cases f
  subst hm
  cases e
  exact ⟨by unfold instrOf; rw [op_wordA, fmtA_wordA]; rfl, ctl_wordA ..⟩

theorem ctxrest (f : FmtA) : Statement (.ctxrest f) := by
  intro c w r h e
  cases e
  exact ⟨by unfold instrOf; rw [op_wordA, fmtA_wordA]; rfl, ctl_wordA ..⟩

theorem rdraw (f : FmtA) : Statement (.rdraw f) := by
  intro c w r h e
  cases e
  exact ⟨by unfold instrOf; rw [op_wordA, fmtA_wordA]; rfl, ctl_wordA ..⟩

theorem pxout (f : FmtA) : Statement (.pxout f) := by
  intro c w r h e
  cases e
  exact ⟨by unfold instrOf; rw [op_wordA, fmtA_wordA]; rfl, ctl_wordA ..⟩

theorem tsample (f : FmtA) : Statement (.tsample f) := by
  intro c w r h e
  cases e
  exact ⟨by unfold instrOf; rw [op_wordA, fmtA_wordA]; rfl, ctl_wordA ..⟩

theorem tfetch (f : FmtA) : Statement (.tfetch f) := by
  intro c w r h e
  cases e
  exact ⟨by unfold instrOf; rw [op_wordA, fmtA_wordA]; rfl, ctl_wordA ..⟩

theorem rtrace (f : FmtA) : Statement (.rtrace f) := by
  intro c w r h e
  cases e
  exact ⟨by unfold instrOf; rw [op_wordA, fmtA_wordA]; rfl, ctl_wordA ..⟩

theorem rhit (f : FmtA) : Statement (.rhit f) := by
  intro c w r h e
  cases e
  exact ⟨by unfold instrOf; rw [op_wordA, fmtA_wordA]; rfl, ctl_wordA ..⟩

theorem disc (f : FmtA) : Statement (.disc f) := by
  intro c w r h e
  cases e
  exact ⟨by unfold instrOf; rw [op_wordA, fmtA_wordA]; rfl, ctl_wordA ..⟩

theorem attr (f : FmtA) : Statement (.attr f) := by
  intro c w r h e
  cases e
  exact ⟨by unfold instrOf; rw [op_wordA, fmtA_wordA]; rfl, ctl_wordA ..⟩

theorem engineWordStart : Statement .engineWordStart := by
  intro c w r _ e
  cases e

theorem line : Statement .line := by
  intro c w r _ e
  cases e

theorem box : Statement .box := by
  intro c w r _ e
  cases e

theorem fill : Statement .fill := by
  intro c w r _ e
  cases e

theorem zpack : Statement .zpack := by
  intro c w r _ e
  cases e

theorem zunpack : Statement .zunpack := by
  intro c w r _ e
  cases e

theorem copyCommandComplete : Statement .copyCommandComplete := by
  intro c w r _ e
  cases e

theorem engineCommandFault : Statement .engineCommandFault := by
  intro c w r _ e
  cases e

theorem matrixChunkStart : Statement .matrixChunkStart := by
  intro c w r _ e
  cases e

theorem matrixCommandComplete : Statement .matrixCommandComplete := by
  intro c w r _ e
  cases e

theorem freezeResume : Statement .freezeResume := by
  intro c w r _ e
  cases e

theorem freezeConversion : Statement .freezeConversion := by
  intro c w r _ e
  cases e

theorem rayBatchComplete : Statement .rayBatchComplete := by
  intro c w r _ e
  cases e

theorem wdqService : Statement .wdqService := by
  intro c w r _ e
  cases e

theorem wdqAnswer : Statement .wdqAnswer := by
  intro c w r _ e
  cases e

theorem markerArrival : Statement .markerArrival := by
  intro c w r _ e
  cases e

theorem longLatencyWriteComplete : Statement .longLatencyWriteComplete := by
  intro c w r _ e
  cases e

theorem fetchBlockArrival : Statement .fetchBlockArrival := by
  intro c w r _ e
  cases e

theorem launchValidation : Statement .launchValidation := by
  intro c w r _ e
  cases e

theorem teamPlacement : Statement .teamPlacement := by
  intro c w r _ e
  cases e

theorem teamStart : Statement .teamStart := by
  intro c w r _ e
  cases e

theorem neighbourBalancing : Statement .neighbourBalancing := by
  intro c w r _ e
  cases e

theorem teamRetirement : Statement .teamRetirement := by
  intro c w r _ e
  cases e

theorem launchCompletion : Statement .launchCompletion := by
  intro c w r _ e
  cases e

theorem moduleVerificationComplete : Statement .moduleVerificationComplete := by
  intro c w r _ e
  cases e

theorem moduleReleaseComplete : Statement .moduleReleaseComplete := by
  intro c w r _ e
  cases e

theorem phaseBoundaryStart : Statement .phaseBoundaryStart := by
  intro c w r _ e
  cases e

theorem phaseBoundaryComplete : Statement .phaseBoundaryComplete := by
  intro c w r _ e
  cases e

theorem barrierRelease : Statement .barrierRelease := by
  intro c w r _ e
  cases e

theorem pisteArrivalForward : Statement .pisteArrivalForward := by
  intro c w r _ e
  cases e

theorem groupRelease : Statement .groupRelease := by
  intro c w r _ e
  cases e

theorem groupReleaseMessage : Statement .groupReleaseMessage := by
  intro c w r _ e
  cases e

theorem barrierRefresh : Statement .barrierRefresh := by
  intro c w r _ e
  cases e

theorem refusionMismatch : Statement .refusionMismatch := by
  intro c w r _ e
  cases e

theorem lineEviction : Statement .lineEviction := by
  intro c w r _ e
  cases e

theorem writebackArrival : Statement .writebackArrival := by
  intro c w r _ e
  cases e

theorem writebackAck : Statement .writebackAck := by
  intro c w r _ e
  cases e

theorem loadRequestArrival : Statement .loadRequestArrival := by
  intro c w r _ e
  cases e

theorem atomicAtHome : Statement .atomicAtHome := by
  intro c w r _ e
  cases e

theorem loamRefreshWindowStart : Statement .loamRefreshWindowStart := by
  intro c w r _ e
  cases e

theorem loamRefreshWindowEnd : Statement .loamRefreshWindowEnd := by
  intro c w r _ e
  cases e

theorem pageWalkStart : Statement .pageWalkStart := by
  intro c w r _ e
  cases e

theorem pageWalkComplete : Statement .pageWalkComplete := by
  intro c w r _ e
  cases e

theorem haltBroadcast : Statement .haltBroadcast := by
  intro c w r _ e
  cases e

theorem handlerEntry : Statement .handlerEntry := by
  intro c w r _ e
  cases e

theorem asyncFaultDelivery : Statement .asyncFaultDelivery := by
  intro c w r _ e
  cases e

theorem handlerWatchdogExpiry : Statement .handlerWatchdogExpiry := by
  intro c w r _ e
  cases e

theorem blockedTeamEligible : Statement .blockedTeamEligible := by
  intro c w r _ e
  cases e

theorem preemptionDecision : Statement .preemptionDecision := by
  intro c w r _ e
  cases e

theorem drainWindowEnd : Statement .drainWindowEnd := by
  intro c w r _ e
  cases e

theorem restore : Statement .restore := by
  intro c w r _ e
  cases e

theorem measuringIntervalEnd : Statement .measuringIntervalEnd := by
  intro c w r _ e
  cases e

theorem warpRotation : Statement .warpRotation := by
  intro c w r _ e
  cases e

theorem pathBoost : Statement .pathBoost := by
  intro c w r _ e
  cases e

theorem greedyLimit : Statement .greedyLimit := by
  intro c w r _ e
  cases e

theorem powerForcedIssue : Statement .powerForcedIssue := by
  intro c w r _ e
  cases e

theorem slewWindowEnd : Statement .slewWindowEnd := by
  intro c w r _ e
  cases e

theorem droopTrip : Statement .droopTrip := by
  intro c w r _ e
  cases e

theorem quantRestore : Statement .quantRestore := by
  intro c w r _ e
  cases e

theorem sleepEnd : Statement .sleepEnd := by
  intro c w r _ e
  cases e

theorem arbiterRun : Statement .arbiterRun := by
  intro c w r _ e
  cases e

theorem clusterIdleRelease : Statement .clusterIdleRelease := by
  intro c w r _ e
  cases e

theorem grantApply : Statement .grantApply := by
  intro c w r _ e
  cases e

theorem quiescenceTimeout : Statement .quiescenceTimeout := by
  intro c w r _ e
  cases e

theorem railSettled : Statement .railSettled := by
  intro c w r _ e
  cases e

theorem relockComplete : Statement .relockComplete := by
  intro c w r _ e
  cases e

theorem railLower : Statement .railLower := by
  intro c w r _ e
  cases e

theorem mwaitWake : Statement .mwaitWake := by
  intro c w r _ e
  cases e

theorem mwaitPoll : Statement .mwaitPoll := by
  intro c w r _ e
  cases e

theorem rasterBatchAccept : Statement .rasterBatchAccept := by
  intro c w r _ e
  cases e

theorem splitFrameForward : Statement .splitFrameForward := by
  intro c w r _ e
  cases e

theorem mergerPerform : Statement .mergerPerform := by
  intro c w r _ e
  cases e

theorem drawBatchComplete : Statement .drawBatchComplete := by
  intro c w r _ e
  cases e

theorem scallBatchComplete : Statement .scallBatchComplete := by
  intro c w r _ e
  cases e

theorem regulatorTick : Statement .regulatorTick := by
  intro c w r _ e
  cases e

theorem verticalBlank : Statement .verticalBlank := by
  intro c w r _ e
  cases e

theorem dhbaseWrite : Statement .dhbaseWrite := by
  intro c w r _ e
  cases e

theorem dhselClr : Statement .dhselClr := by
  intro c w r _ e
  cases e

theorem scselClr : Statement .scselClr := by
  intro c w r _ e
  cases e

theorem rferrClear : Statement .rferrClear := by
  intro c w r _ e
  cases e

theorem sperrClear : Statement .sperrClear := by
  intro c w r _ e
  cases e

theorem l1errClear : Statement .l1errClear := by
  intro c w r _ e
  cases e

theorem srseedWrite : Statement .srseedWrite := by
  intro c w r _ e
  cases e

theorem hmodWrite : Statement .hmodWrite := by
  intro c w r _ e
  cases e

theorem gkindWrite : Statement .gkindWrite := by
  intro c w r _ e
  cases e

theorem partitionCreate : Statement .partitionCreate := by
  intro c w r _ e
  cases e

theorem partitionDestroy : Statement .partitionDestroy := by
  intro c w r _ e
  cases e

theorem vfqEnable : Statement .vfqEnable := by
  intro c w r _ e
  cases e

theorem vfqRunSet : Statement .vfqRunSet := by
  intro c w r _ e
  cases e

theorem vfqRunClear : Statement .vfqRunClear := by
  intro c w r _ e
  cases e

theorem skclkWrite : Statement .skclkWrite := by
  intro c w r _ e
  cases e

theorem registerWrite : Statement .registerWrite := by
  intro c w r _ e
  cases e

theorem doorbell : Statement .doorbell := by
  intro c w r _ e
  cases e

theorem pcieInboundRequest : Statement .pcieInboundRequest := by
  intro c w r _ e
  cases e

theorem flefinInboundRequest : Statement .flefinInboundRequest := by
  intro c w r _ e
  cases e

theorem flefinResponse : Statement .flefinResponse := by
  intro c w r _ e
  cases e

theorem flefinTimeout : Statement .flefinTimeout := by
  intro c w r _ e
  cases e

theorem flefinPortFailure : Statement .flefinPortFailure := by
  intro c w r _ e
  cases e

theorem ucieRetryFailure : Statement .ucieRetryFailure := by
  intro c w r _ e
  cases e

theorem standbyWake : Statement .standbyWake := by
  intro c w r _ e
  cases e

theorem powerOnReset : Statement .powerOnReset := by
  intro c w r _ e
  cases e

theorem temperatureReading : Statement .temperatureReading := by
  intro c w r _ e
  cases e

theorem thermalTrip : Statement .thermalTrip := by
  intro c w r _ e
  cases e

theorem scanOutLine : Statement .scanOutLine := by
  intro c w r _ e
  cases e

theorem droopWithholdEnd : Statement .droopWithholdEnd := by
  intro c w r _ e
  cases e

theorem standbyEntry : Statement .standbyEntry := by
  intro c w r _ e
  cases e

theorem flefinPortTraining : Statement .flefinPortTraining := by
  intro c w r _ e
  cases e

theorem frscrubComplete : Statement .frscrubComplete := by
  intro c w r _ e
  cases e

theorem icinvComplete : Statement .icinvComplete := by
  intro c w r _ e
  cases e

end Sys2Proof.Laws.RoundTrip
end

