-- ==== Sys2Proof/Laws/Queues.lean ====
section
/-!
SUPPORT. What the queues of a core do with an access: the lane-access queue, the coalescer, the order of its commands, and the part of a stack in memory.
-/

namespace Sys2Proof.Machine

open Sys2Proof

/-- An access is performed no earlier than it enters, nor than the last access before it (R179). -/
theorem enqueue_first (now banks rows : Nat) (q : Nat × Nat) : now ≤ (enqueue now banks rows q).1 ∧ (q.1 ≤ (enqueue now banks rows q).1) := by
  unfold enqueue
  split
  · simp; omega
  · split <;> simp <;> omega

/-- The queue then ends no earlier than the access is performed. -/
theorem enqueue_last (now banks rows : Nat) (hr : 1 ≤ rows) (q : Nat × Nat) :
    (enqueue now banks rows q).1 ≤ (enqueue now banks rows q).2.1 := by
  unfold enqueue
  split
  · simp; omega
  · split <;> simp; omega

/-- An access alone in its vc is performed at once. -/
theorem enqueue_free {now : Nat} (banks rows : Nat) {q : Nat × Nat} (h : q.1 < now) : (enqueue now banks rows q).1 = now := by
  simp [enqueue, h]

/-- Everything that the coalescer can answer: a stall on memory while it still sends an earlier vc's requests, else the delay of the last request and
the half vc from which it is free again (R232). -/
theorem coalesce_cases (s : State) (c : Ctx) (l : List LaneAt) :
    (2 * c.vc + 2 ≤ (s.core c.core).coal ∧ s.coalesce c l = stall .mem s) ∨
    ((s.core c.core).coal < 2 * c.vc + 2 ∧
      s.coalesce c l = .ok ((max (s.core c.core).coal (2 * c.vc) + requests l - 1) / 2 - c.vc,
        s.modCore c.core (fun k => { k with coal := max (s.core c.core).coal (2 * c.vc) + requests l }))) := by
  unfold State.coalesce
  by_cases h : 2 * c.vc + 2 ≤ (s.core c.core).coal
  · exact .inl ⟨h, if_pos h⟩
  · exact .inr ⟨by omega, if_neg h⟩

/-- No command is older than itself, and of two commands with different numbers one is the older (R339). -/
theorem older_irrefl (k : Core) (a : Nat) : k.older a a = false := by simp [Core.older]

theorem older_total (k : Core) {a b : Nat} (ha : a < 2 ^ 32) (hb : b < 2 ^ 32) (hs : k.nextSeq < 2 ^ 32) (h : a ≠ b) :
    k.older a b = true ∨ k.older b a = true := by
  simp only [Core.older, decide_eq_true_eq]; omega

/-- A stack that hardware holds whole moves nothing (R74). -/
theorem syncStack_short {s : State} {core slot : Nat} {old : List Entry} (h1 : old.length ≤ 16)
    (h2 : (s.warp core slot).stack.length ≤ 16) : s.syncStack core slot old = s := by
  simp [State.syncStack, spilled, Nat.sub_eq_zero_of_le h1, Nat.sub_eq_zero_of_le h2]

end Sys2Proof.Machine
end

