-- ==== Sys2Proof/Laws/SMap.lean ====
section
/-!
SUPPORT. The sparse table: what a read gives after a write, and that every operation keeps the canonical form.
-/

namespace Sys2Proof.Machine

open Sys2Proof

variable {α : Type} {d : α}

/-! ### Keys above a bound -/

theorem sabove_mono {j k : Nat} {m : SMap α} (h : j ≤ k) (hm : sabove k m = true) : sabove j m = true := by
  cases m with
  | nil => rfl
  | cons p m => simp [sabove] at hm ⊢; omega

/-- A key at or below the bound of a canonical table is not listed. -/
theorem sget_above {k : Nat} {m : SMap α} (h : sabove k m = true) {j : Nat} (hj : j ≤ k) : sget d m j = d := by
  cases m with
  | nil => rfl
  | cons p m =>
    simp [sabove] at h
    simp [sget, show j ≠ p.1 by omega, show j < p.1 by omega]

variable [DecidableEq α]

theorem sabove_sput {j k : Nat} {m : SMap α} {v : α} (hk : j < k) (hm : sabove j m = true) (hw : swf d m = true) :
    sabove j (sput d m k v) = true := by
  cases m with
  | nil => by_cases hv : v = d <;> simp [sput, sabove, hv, hk]
  | cons p m =>
    obtain ⟨a, w⟩ := p
    simp [sabove] at hm
    simp only [swf, Bool.and_eq_true] at hw
    by_cases h1 : k < a
    · by_cases hv : v = d <;> simp [sput, sabove, h1, hv, hk, hm]
    · by_cases h2 : k = a
      · by_cases hv : v = d
        · simpa [sput, h2, hv] using sabove_mono (Nat.le_of_lt hm) hw.1.2
        · simp [sput, sabove, h2, hv, hm]
      · simp [sput, sabove, h1, h2, hm]

/-! ### The canonical form is kept -/

/-- A write keeps the canonical form. -/
theorem swf_sput {m : SMap α} (h : swf d m = true) (k : Nat) (v : α) : swf d (sput d m k v) = true := by
  induction m with
  | nil => by_cases hv : v = d <;> simp [sput, swf, sabove, hv]
  | cons p m ih =>
    obtain ⟨a, w⟩ := p
    have hw := h
    simp only [swf, Bool.and_eq_true, decide_eq_true_eq] at h
    obtain ⟨⟨hd, ha⟩, hm⟩ := h
    by_cases h1 : k < a
    · by_cases hv : v = d
      · simpa [sput, h1, hv] using hw
      · have hs : swf d ((k, v) :: (a, w) :: m) = (decide (v ≠ d) && decide (k < a) && swf d ((a, w) :: m)) := rfl
        simp [sput, h1, hv, hs, hw]
    · by_cases h2 : k = a
      · subst h2
        by_cases hv : v = d <;> simp [sput, hv, swf, ha, hm]
      · have hs : sabove a (sput d m k v) = true := sabove_sput (by omega) ha hm
        simp [sput, h1, h2, swf, hd, hs, ih hm]

/-- A run of writes keeps the canonical form. -/
theorem swf_sputs {m : SMap α} (h : swf d m = true) (k : Nat) (l : List α) : swf d (sputs d m k l) = true := by
  induction l generalizing m k with
  | nil => exact h
  | cons v l ih => exact ih (swf_sput h k v) (k + 1)

/-- A change of one value keeps the canonical form. -/
theorem swf_smod {m : SMap α} (h : swf d m = true) (k : Nat) (f : α → α) : swf d (smod d m k f) = true :=
  swf_sput h k _

theorem sabove_sfilter {m : SMap α} {j : Nat} {keep : Nat → Bool} (ha : sabove j m = true) (h : swf d m = true) :
    sabove j (sfilter keep m) = true := by
  induction m with
  | nil => rfl
  | cons p m ih =>
    simp only [swf, Bool.and_eq_true] at h
    by_cases hk : keep p.1 = true
    · simpa [sfilter, hk, sabove] using ha
    · simp [sabove] at ha
      simpa [sfilter, hk] using ih (sabove_mono (Nat.le_of_lt ha) h.1.2) h.2

/-- Removing entries keeps the canonical form. -/
theorem swf_sfilter {m : SMap α} (h : swf d m = true) (keep : Nat → Bool) : swf d (sfilter keep m) = true := by
  induction m with
  | nil => rfl
  | cons p m ih =>
    have hh := h
    simp only [swf, Bool.and_eq_true] at h
    by_cases hk : keep p.1 = true
    · have hs : sabove p.1 (sfilter keep m) = true := sabove_sfilter h.1.2 h.2
      have hi := ih h.2
      simp only [sfilter] at hs hi ⊢
      simp [hk, swf, hs, hi]
      simpa using h.1.1
    · simpa [sfilter, hk] using ih h.2

theorem sabove_smapv {m : SMap α} {j : Nat} {f : α → α} (ha : sabove j m = true) (h : swf d m = true) :
    sabove j (smapv d f m) = true := by
  induction m with
  | nil => rfl
  | cons p m ih =>
    simp only [swf, Bool.and_eq_true] at h
    simp [sabove] at ha
    by_cases hv : f p.2 = d
    · simpa [smapv, hv] using ih (sabove_mono (Nat.le_of_lt ha) h.1.2) h.2
    · simpa [smapv, hv, sabove] using ha

/-- Changing every listed value keeps the canonical form. -/
theorem swf_smapv {m : SMap α} (h : swf d m = true) (f : α → α) : swf d (smapv d f m) = true := by
  induction m with
  | nil => rfl
  | cons p m ih =>
    simp only [swf, Bool.and_eq_true] at h
    have hi := ih h.2
    by_cases hv : f p.2 = d
    · simpa [smapv, hv] using hi
    · have hs : sabove p.1 (smapv d f m) = true := sabove_smapv h.1.2 h.2
      simp only [smapv] at hs hi ⊢
      simp [hv, swf, hs, hi]

/-! ### Reading after writing -/

/-- A read of the written key gives the written value. -/
theorem sget_sput_same {m : SMap α} (h : swf d m = true) (k : Nat) (v : α) : sget d (sput d m k v) k = v := by
  induction m with
  | nil => by_cases hv : v = d <;> simp [sput, sget, hv]
  | cons p m ih =>
    obtain ⟨a, w⟩ := p
    simp only [swf, Bool.and_eq_true] at h
    by_cases h1 : k < a
    · by_cases hv : v = d <;> simp [sput, sget, h1, hv, show k ≠ a by omega]
    · by_cases h2 : k = a
      · subst h2
        by_cases hv : v = d
        · simp [sput, hv, sget_above h.1.2 (Nat.le_refl k)]
        · simp [sput, sget, hv]
      · simp [sput, sget, h1, h2, ih h.2]

/-- A read of another key gives what it gave before. -/
theorem sget_sput_other {m : SMap α} (h : swf d m = true) {j k : Nat} (hj : j ≠ k) (v : α) :
    sget d (sput d m k v) j = sget d m j := by
  induction m with
  | nil => by_cases hv : v = d <;> simp [sput, sget, hv, hj]
  | cons p m ih =>
    obtain ⟨a, w⟩ := p
    simp only [swf, Bool.and_eq_true] at h
    by_cases h1 : k < a
    · by_cases hv : v = d
      · simp [sput, h1, hv]
      · by_cases h3 : j < k
        · simp [sput, sget, h1, hv, hj, h3, show j ≠ a by omega, show j < a by omega]
        · simp [sput, sget, h1, hv, hj, h3]
    · by_cases h2 : k = a
      · subst h2
        by_cases hv : v = d
        · by_cases h3 : j < k
          · simp [sput, sget, hv, hj, h3, sget_above h.1.2 (Nat.le_of_lt h3)]
          · simp [sput, sget, hv, hj, h3]
        · simp [sput, sget, hv, hj]
      · by_cases h3 : j = a
        · simp [sput, sget, h1, h2, h3]
        · by_cases h4 : j < a
          · simp [sput, sget, h1, h2, h3, h4]
          · simp [sput, sget, h1, h2, h3, h4, ih h.2]

/-- What a run of writes gives at a key: the value written there, else what stood there. -/
theorem sget_sputs {m : SMap α} (h : swf d m = true) (k : Nat) (l : List α) (j : Nat) :
    sget d (sputs d m k l) j = if k ≤ j then l.getD (j - k) (sget d m j) else sget d m j := by
  induction l generalizing m k with
  | nil => simp [sputs]
  | cons v l ih =>
    rw [sputs, ih (swf_sput h k v)]
    by_cases h1 : k = j
    · subst h1
      simp [sget_sput_same h, show ¬ k + 1 ≤ k by omega]
    · by_cases h2 : k ≤ j
      · obtain ⟨e, rfl⟩ : ∃ e, j = k + 1 + e := ⟨j - (k + 1), by omega⟩
        simp [sget_sput_other h (show k + 1 + e ≠ k by omega), show k + 1 + e - k = e + 1 by omega, h2]
      · simp [h2, show ¬ k + 1 ≤ j by omega, sget_sput_other h (show j ≠ k by omega)]

/-- Two canonical tables that read alike are the same data. -/
theorem swf_ext {m n : SMap α} (hm : swf d m = true) (hn : swf d n = true) (h : ∀ k, sget d m k = sget d n k) :
    m = n := by
  induction m generalizing n with
  | nil =>
    cases n with
    | nil => rfl
    | cons q n =>
      have := h q.1
      simp only [swf, Bool.and_eq_true, decide_eq_true_eq] at hn
      simp [sget] at this
      exact absurd this.symm hn.1.1
  | cons p m ih =>
    obtain ⟨a, v⟩ := p
    simp only [swf, Bool.and_eq_true, decide_eq_true_eq] at hm
    cases n with
    | nil =>
      have := h a
      simp [sget] at this
      exact absurd this hm.1.1
    | cons q n =>
      obtain ⟨b, w⟩ := q
      simp only [swf, Bool.and_eq_true, decide_eq_true_eq] at hn
      have hab : a = b := by
        rcases Nat.lt_trichotomy a b with hlt | heq | hgt
        · have := h a
          simp [sget, show a ≠ b by omega, hlt] at this
          exact absurd this hm.1.1
        · exact heq
        · have := h b
          simp [sget, show b ≠ a by omega, hgt] at this
          exact absurd this.symm hn.1.1
      subst hab
      have hv : v = w := by simpa [sget] using h a
      subst hv
      refine congrArg _ (ih hm.2 hn.2 fun k => ?_)
      by_cases hk : k ≤ a
      · rw [sget_above hm.1.2 hk, sget_above hn.1.2 hk]
      · simpa [sget, show k ≠ a by omega, show ¬ k < a by omega] using h k

end Sys2Proof.Machine
end

