-- ==== Sys2Proof/Laws/State.lean ====
section
/-!
SUPPORT. What each update of one piece of State leaves as it was: one lemma for each field and update.
-/

namespace Sys2Proof.Machine

open Sys2Proof

variable (s : State)

/-! ### setCore -/

@[simp] theorem State.setCore_pkg (c : Nat) (k : Core) : (s.setCore c k).pkg = s.pkg := rfl
@[simp] theorem State.setCore_pairs (c : Nat) (k : Core) : (s.setCore c k).pairs = s.pairs := rfl
@[simp] theorem State.setCore_dies (c : Nat) (k : Core) : (s.setCore c k).dies = s.dies := rfl
@[simp] theorem State.setCore_clusters (c : Nat) (k : Core) : (s.setCore c k).clusters = s.clusters := rfl
@[simp] theorem State.setCore_rails (c : Nat) (k : Core) : (s.setCore c k).rails = s.rails := rfl
@[simp] theorem State.setCore_parts (c : Nat) (k : Core) : (s.setCore c k).parts = s.parts := rfl
@[simp] theorem State.setCore_vfs (c : Nat) (k : Core) : (s.setCore c k).vfs = s.vfs := rfl
@[simp] theorem State.setCore_heads (c : Nat) (k : Core) : (s.setCore c k).heads = s.heads := rfl
@[simp] theorem State.setCore_ports (c : Nat) (k : Core) : (s.setCore c k).ports = s.ports := rfl
@[simp] theorem State.setCore_teams (c : Nat) (k : Core) : (s.setCore c k).teams = s.teams := rfl
@[simp] theorem State.setCore_launches (c : Nat) (k : Core) : (s.setCore c k).launches = s.launches := rfl
@[simp] theorem State.setCore_foots (c : Nat) (k : Core) : (s.setCore c k).foots = s.foots := rfl
@[simp] theorem State.setCore_mem (c : Nat) (k : Core) : (s.setCore c k).mem = s.mem := rfl
@[simp] theorem State.setCore_memPoison (c : Nat) (k : Core) : (s.setCore c k).memPoison = s.memPoison := rfl
@[simp] theorem State.setCore_memCmp (c : Nat) (k : Core) : (s.setCore c k).memCmp = s.memCmp := rfl
@[simp] theorem State.setCore_loam (c : Nat) (k : Core) : (s.setCore c k).loam = s.loam := rfl
@[simp] theorem State.setCore_loamPoison (c : Nat) (k : Core) : (s.setCore c k).loamPoison = s.loamPoison := rfl
@[simp] theorem State.setCore_fot (c : Nat) (k : Core) : (s.setCore c k).fot = s.fot := rfl
@[simp] theorem State.setCore_loamFot (c : Nat) (k : Core) : (s.setCore c k).loamFot = s.loamFot := rfl
@[simp] theorem State.setCore_agenda (c : Nat) (k : Core) : (s.setCore c k).agenda = s.agenda := rfl
@[simp] theorem State.setCore_ev (c : Nat) (k : Core) : (s.setCore c k).ev = s.ev := rfl
@[simp] theorem State.setCore_opened (c : Nat) (k : Core) : (s.setCore c k).opened = s.opened := rfl
@[simp] theorem State.setCore_turns (c : Nat) (k : Core) : (s.setCore c k).turns = s.turns := rfl
@[simp] theorem State.setCore_chosen (c : Nat) (k : Core) : (s.setCore c k).chosen = s.chosen := rfl
@[simp] theorem State.setCore_taken (c : Nat) (k : Core) : (s.setCore c k).taken = s.taken := rfl
@[simp] theorem State.setCore_cur (c : Nat) (k : Core) : (s.setCore c k).cur = s.cur := rfl
@[simp] theorem State.setCore_free (c : Nat) (k : Core) : (s.setCore c k).free = s.free := rfl

/-! ### modCore -/

@[simp] theorem State.modCore_pkg (c : Nat) (g : Core → Core) : (s.modCore c g).pkg = s.pkg := rfl
@[simp] theorem State.modCore_pairs (c : Nat) (g : Core → Core) : (s.modCore c g).pairs = s.pairs := rfl
@[simp] theorem State.modCore_dies (c : Nat) (g : Core → Core) : (s.modCore c g).dies = s.dies := rfl
@[simp] theorem State.modCore_clusters (c : Nat) (g : Core → Core) : (s.modCore c g).clusters = s.clusters := rfl
@[simp] theorem State.modCore_rails (c : Nat) (g : Core → Core) : (s.modCore c g).rails = s.rails := rfl
@[simp] theorem State.modCore_parts (c : Nat) (g : Core → Core) : (s.modCore c g).parts = s.parts := rfl
@[simp] theorem State.modCore_vfs (c : Nat) (g : Core → Core) : (s.modCore c g).vfs = s.vfs := rfl
@[simp] theorem State.modCore_heads (c : Nat) (g : Core → Core) : (s.modCore c g).heads = s.heads := rfl
@[simp] theorem State.modCore_ports (c : Nat) (g : Core → Core) : (s.modCore c g).ports = s.ports := rfl
@[simp] theorem State.modCore_teams (c : Nat) (g : Core → Core) : (s.modCore c g).teams = s.teams := rfl
@[simp] theorem State.modCore_launches (c : Nat) (g : Core → Core) : (s.modCore c g).launches = s.launches := rfl
@[simp] theorem State.modCore_foots (c : Nat) (g : Core → Core) : (s.modCore c g).foots = s.foots := rfl
@[simp] theorem State.modCore_mem (c : Nat) (g : Core → Core) : (s.modCore c g).mem = s.mem := rfl
@[simp] theorem State.modCore_memPoison (c : Nat) (g : Core → Core) : (s.modCore c g).memPoison = s.memPoison := rfl
@[simp] theorem State.modCore_memCmp (c : Nat) (g : Core → Core) : (s.modCore c g).memCmp = s.memCmp := rfl
@[simp] theorem State.modCore_loam (c : Nat) (g : Core → Core) : (s.modCore c g).loam = s.loam := rfl
@[simp] theorem State.modCore_loamPoison (c : Nat) (g : Core → Core) : (s.modCore c g).loamPoison = s.loamPoison := rfl
@[simp] theorem State.modCore_fot (c : Nat) (g : Core → Core) : (s.modCore c g).fot = s.fot := rfl
@[simp] theorem State.modCore_loamFot (c : Nat) (g : Core → Core) : (s.modCore c g).loamFot = s.loamFot := rfl
@[simp] theorem State.modCore_agenda (c : Nat) (g : Core → Core) : (s.modCore c g).agenda = s.agenda := rfl
@[simp] theorem State.modCore_ev (c : Nat) (g : Core → Core) : (s.modCore c g).ev = s.ev := rfl
@[simp] theorem State.modCore_opened (c : Nat) (g : Core → Core) : (s.modCore c g).opened = s.opened := rfl
@[simp] theorem State.modCore_turns (c : Nat) (g : Core → Core) : (s.modCore c g).turns = s.turns := rfl
@[simp] theorem State.modCore_chosen (c : Nat) (g : Core → Core) : (s.modCore c g).chosen = s.chosen := rfl
@[simp] theorem State.modCore_taken (c : Nat) (g : Core → Core) : (s.modCore c g).taken = s.taken := rfl
@[simp] theorem State.modCore_cur (c : Nat) (g : Core → Core) : (s.modCore c g).cur = s.cur := rfl
@[simp] theorem State.modCore_free (c : Nat) (g : Core → Core) : (s.modCore c g).free = s.free := rfl

/-! ### setPair -/

@[simp] theorem State.setPair_pkg (p : Nat) (k : Pair) : (s.setPair p k).pkg = s.pkg := rfl
@[simp] theorem State.setPair_cores (p : Nat) (k : Pair) : (s.setPair p k).cores = s.cores := rfl
@[simp] theorem State.setPair_dies (p : Nat) (k : Pair) : (s.setPair p k).dies = s.dies := rfl
@[simp] theorem State.setPair_clusters (p : Nat) (k : Pair) : (s.setPair p k).clusters = s.clusters := rfl
@[simp] theorem State.setPair_rails (p : Nat) (k : Pair) : (s.setPair p k).rails = s.rails := rfl
@[simp] theorem State.setPair_parts (p : Nat) (k : Pair) : (s.setPair p k).parts = s.parts := rfl
@[simp] theorem State.setPair_vfs (p : Nat) (k : Pair) : (s.setPair p k).vfs = s.vfs := rfl
@[simp] theorem State.setPair_heads (p : Nat) (k : Pair) : (s.setPair p k).heads = s.heads := rfl
@[simp] theorem State.setPair_ports (p : Nat) (k : Pair) : (s.setPair p k).ports = s.ports := rfl
@[simp] theorem State.setPair_teams (p : Nat) (k : Pair) : (s.setPair p k).teams = s.teams := rfl
@[simp] theorem State.setPair_launches (p : Nat) (k : Pair) : (s.setPair p k).launches = s.launches := rfl
@[simp] theorem State.setPair_foots (p : Nat) (k : Pair) : (s.setPair p k).foots = s.foots := rfl
@[simp] theorem State.setPair_mem (p : Nat) (k : Pair) : (s.setPair p k).mem = s.mem := rfl
@[simp] theorem State.setPair_memPoison (p : Nat) (k : Pair) : (s.setPair p k).memPoison = s.memPoison := rfl
@[simp] theorem State.setPair_memCmp (p : Nat) (k : Pair) : (s.setPair p k).memCmp = s.memCmp := rfl
@[simp] theorem State.setPair_loam (p : Nat) (k : Pair) : (s.setPair p k).loam = s.loam := rfl
@[simp] theorem State.setPair_loamPoison (p : Nat) (k : Pair) : (s.setPair p k).loamPoison = s.loamPoison := rfl
@[simp] theorem State.setPair_fot (p : Nat) (k : Pair) : (s.setPair p k).fot = s.fot := rfl
@[simp] theorem State.setPair_loamFot (p : Nat) (k : Pair) : (s.setPair p k).loamFot = s.loamFot := rfl
@[simp] theorem State.setPair_agenda (p : Nat) (k : Pair) : (s.setPair p k).agenda = s.agenda := rfl
@[simp] theorem State.setPair_ev (p : Nat) (k : Pair) : (s.setPair p k).ev = s.ev := rfl
@[simp] theorem State.setPair_opened (p : Nat) (k : Pair) : (s.setPair p k).opened = s.opened := rfl
@[simp] theorem State.setPair_turns (p : Nat) (k : Pair) : (s.setPair p k).turns = s.turns := rfl
@[simp] theorem State.setPair_chosen (p : Nat) (k : Pair) : (s.setPair p k).chosen = s.chosen := rfl
@[simp] theorem State.setPair_taken (p : Nat) (k : Pair) : (s.setPair p k).taken = s.taken := rfl
@[simp] theorem State.setPair_cur (p : Nat) (k : Pair) : (s.setPair p k).cur = s.cur := rfl
@[simp] theorem State.setPair_free (p : Nat) (k : Pair) : (s.setPair p k).free = s.free := rfl

/-! ### modPair -/

@[simp] theorem State.modPair_pkg (p : Nat) (g : Pair → Pair) : (s.modPair p g).pkg = s.pkg := rfl
@[simp] theorem State.modPair_cores (p : Nat) (g : Pair → Pair) : (s.modPair p g).cores = s.cores := rfl
@[simp] theorem State.modPair_dies (p : Nat) (g : Pair → Pair) : (s.modPair p g).dies = s.dies := rfl
@[simp] theorem State.modPair_clusters (p : Nat) (g : Pair → Pair) : (s.modPair p g).clusters = s.clusters := rfl
@[simp] theorem State.modPair_rails (p : Nat) (g : Pair → Pair) : (s.modPair p g).rails = s.rails := rfl
@[simp] theorem State.modPair_parts (p : Nat) (g : Pair → Pair) : (s.modPair p g).parts = s.parts := rfl
@[simp] theorem State.modPair_vfs (p : Nat) (g : Pair → Pair) : (s.modPair p g).vfs = s.vfs := rfl
@[simp] theorem State.modPair_heads (p : Nat) (g : Pair → Pair) : (s.modPair p g).heads = s.heads := rfl
@[simp] theorem State.modPair_ports (p : Nat) (g : Pair → Pair) : (s.modPair p g).ports = s.ports := rfl
@[simp] theorem State.modPair_teams (p : Nat) (g : Pair → Pair) : (s.modPair p g).teams = s.teams := rfl
@[simp] theorem State.modPair_launches (p : Nat) (g : Pair → Pair) : (s.modPair p g).launches = s.launches := rfl
@[simp] theorem State.modPair_foots (p : Nat) (g : Pair → Pair) : (s.modPair p g).foots = s.foots := rfl
@[simp] theorem State.modPair_mem (p : Nat) (g : Pair → Pair) : (s.modPair p g).mem = s.mem := rfl
@[simp] theorem State.modPair_memPoison (p : Nat) (g : Pair → Pair) : (s.modPair p g).memPoison = s.memPoison := rfl
@[simp] theorem State.modPair_memCmp (p : Nat) (g : Pair → Pair) : (s.modPair p g).memCmp = s.memCmp := rfl
@[simp] theorem State.modPair_loam (p : Nat) (g : Pair → Pair) : (s.modPair p g).loam = s.loam := rfl
@[simp] theorem State.modPair_loamPoison (p : Nat) (g : Pair → Pair) : (s.modPair p g).loamPoison = s.loamPoison := rfl
@[simp] theorem State.modPair_fot (p : Nat) (g : Pair → Pair) : (s.modPair p g).fot = s.fot := rfl
@[simp] theorem State.modPair_loamFot (p : Nat) (g : Pair → Pair) : (s.modPair p g).loamFot = s.loamFot := rfl
@[simp] theorem State.modPair_agenda (p : Nat) (g : Pair → Pair) : (s.modPair p g).agenda = s.agenda := rfl
@[simp] theorem State.modPair_ev (p : Nat) (g : Pair → Pair) : (s.modPair p g).ev = s.ev := rfl
@[simp] theorem State.modPair_opened (p : Nat) (g : Pair → Pair) : (s.modPair p g).opened = s.opened := rfl
@[simp] theorem State.modPair_turns (p : Nat) (g : Pair → Pair) : (s.modPair p g).turns = s.turns := rfl
@[simp] theorem State.modPair_chosen (p : Nat) (g : Pair → Pair) : (s.modPair p g).chosen = s.chosen := rfl
@[simp] theorem State.modPair_taken (p : Nat) (g : Pair → Pair) : (s.modPair p g).taken = s.taken := rfl
@[simp] theorem State.modPair_cur (p : Nat) (g : Pair → Pair) : (s.modPair p g).cur = s.cur := rfl
@[simp] theorem State.modPair_free (p : Nat) (g : Pair → Pair) : (s.modPair p g).free = s.free := rfl

/-! ### modDie -/

@[simp] theorem State.modDie_pkg (d : Nat) (g : Die → Die) : (s.modDie d g).pkg = s.pkg := rfl
@[simp] theorem State.modDie_cores (d : Nat) (g : Die → Die) : (s.modDie d g).cores = s.cores := rfl
@[simp] theorem State.modDie_pairs (d : Nat) (g : Die → Die) : (s.modDie d g).pairs = s.pairs := rfl
@[simp] theorem State.modDie_clusters (d : Nat) (g : Die → Die) : (s.modDie d g).clusters = s.clusters := rfl
@[simp] theorem State.modDie_rails (d : Nat) (g : Die → Die) : (s.modDie d g).rails = s.rails := rfl
@[simp] theorem State.modDie_parts (d : Nat) (g : Die → Die) : (s.modDie d g).parts = s.parts := rfl
@[simp] theorem State.modDie_vfs (d : Nat) (g : Die → Die) : (s.modDie d g).vfs = s.vfs := rfl
@[simp] theorem State.modDie_heads (d : Nat) (g : Die → Die) : (s.modDie d g).heads = s.heads := rfl
@[simp] theorem State.modDie_ports (d : Nat) (g : Die → Die) : (s.modDie d g).ports = s.ports := rfl
@[simp] theorem State.modDie_teams (d : Nat) (g : Die → Die) : (s.modDie d g).teams = s.teams := rfl
@[simp] theorem State.modDie_launches (d : Nat) (g : Die → Die) : (s.modDie d g).launches = s.launches := rfl
@[simp] theorem State.modDie_foots (d : Nat) (g : Die → Die) : (s.modDie d g).foots = s.foots := rfl
@[simp] theorem State.modDie_mem (d : Nat) (g : Die → Die) : (s.modDie d g).mem = s.mem := rfl
@[simp] theorem State.modDie_memPoison (d : Nat) (g : Die → Die) : (s.modDie d g).memPoison = s.memPoison := rfl
@[simp] theorem State.modDie_memCmp (d : Nat) (g : Die → Die) : (s.modDie d g).memCmp = s.memCmp := rfl
@[simp] theorem State.modDie_loam (d : Nat) (g : Die → Die) : (s.modDie d g).loam = s.loam := rfl
@[simp] theorem State.modDie_loamPoison (d : Nat) (g : Die → Die) : (s.modDie d g).loamPoison = s.loamPoison := rfl
@[simp] theorem State.modDie_fot (d : Nat) (g : Die → Die) : (s.modDie d g).fot = s.fot := rfl
@[simp] theorem State.modDie_loamFot (d : Nat) (g : Die → Die) : (s.modDie d g).loamFot = s.loamFot := rfl
@[simp] theorem State.modDie_agenda (d : Nat) (g : Die → Die) : (s.modDie d g).agenda = s.agenda := rfl
@[simp] theorem State.modDie_ev (d : Nat) (g : Die → Die) : (s.modDie d g).ev = s.ev := rfl
@[simp] theorem State.modDie_opened (d : Nat) (g : Die → Die) : (s.modDie d g).opened = s.opened := rfl
@[simp] theorem State.modDie_turns (d : Nat) (g : Die → Die) : (s.modDie d g).turns = s.turns := rfl
@[simp] theorem State.modDie_chosen (d : Nat) (g : Die → Die) : (s.modDie d g).chosen = s.chosen := rfl
@[simp] theorem State.modDie_taken (d : Nat) (g : Die → Die) : (s.modDie d g).taken = s.taken := rfl
@[simp] theorem State.modDie_cur (d : Nat) (g : Die → Die) : (s.modDie d g).cur = s.cur := rfl
@[simp] theorem State.modDie_free (d : Nat) (g : Die → Die) : (s.modDie d g).free = s.free := rfl

/-! ### modCluster -/

@[simp] theorem State.modCluster_pkg (c : Nat) (g : Cluster → Cluster) : (s.modCluster c g).pkg = s.pkg := rfl
@[simp] theorem State.modCluster_cores (c : Nat) (g : Cluster → Cluster) : (s.modCluster c g).cores = s.cores := rfl
@[simp] theorem State.modCluster_pairs (c : Nat) (g : Cluster → Cluster) : (s.modCluster c g).pairs = s.pairs := rfl
@[simp] theorem State.modCluster_dies (c : Nat) (g : Cluster → Cluster) : (s.modCluster c g).dies = s.dies := rfl
@[simp] theorem State.modCluster_rails (c : Nat) (g : Cluster → Cluster) : (s.modCluster c g).rails = s.rails := rfl
@[simp] theorem State.modCluster_parts (c : Nat) (g : Cluster → Cluster) : (s.modCluster c g).parts = s.parts := rfl
@[simp] theorem State.modCluster_vfs (c : Nat) (g : Cluster → Cluster) : (s.modCluster c g).vfs = s.vfs := rfl
@[simp] theorem State.modCluster_heads (c : Nat) (g : Cluster → Cluster) : (s.modCluster c g).heads = s.heads := rfl
@[simp] theorem State.modCluster_ports (c : Nat) (g : Cluster → Cluster) : (s.modCluster c g).ports = s.ports := rfl
@[simp] theorem State.modCluster_teams (c : Nat) (g : Cluster → Cluster) : (s.modCluster c g).teams = s.teams := rfl
@[simp] theorem State.modCluster_launches (c : Nat) (g : Cluster → Cluster) : (s.modCluster c g).launches = s.launches := rfl
@[simp] theorem State.modCluster_foots (c : Nat) (g : Cluster → Cluster) : (s.modCluster c g).foots = s.foots := rfl
@[simp] theorem State.modCluster_mem (c : Nat) (g : Cluster → Cluster) : (s.modCluster c g).mem = s.mem := rfl
@[simp] theorem State.modCluster_memPoison (c : Nat) (g : Cluster → Cluster) : (s.modCluster c g).memPoison = s.memPoison := rfl
@[simp] theorem State.modCluster_memCmp (c : Nat) (g : Cluster → Cluster) : (s.modCluster c g).memCmp = s.memCmp := rfl
@[simp] theorem State.modCluster_loam (c : Nat) (g : Cluster → Cluster) : (s.modCluster c g).loam = s.loam := rfl
@[simp] theorem State.modCluster_loamPoison (c : Nat) (g : Cluster → Cluster) : (s.modCluster c g).loamPoison = s.loamPoison := rfl
@[simp] theorem State.modCluster_fot (c : Nat) (g : Cluster → Cluster) : (s.modCluster c g).fot = s.fot := rfl
@[simp] theorem State.modCluster_loamFot (c : Nat) (g : Cluster → Cluster) : (s.modCluster c g).loamFot = s.loamFot := rfl
@[simp] theorem State.modCluster_agenda (c : Nat) (g : Cluster → Cluster) : (s.modCluster c g).agenda = s.agenda := rfl
@[simp] theorem State.modCluster_ev (c : Nat) (g : Cluster → Cluster) : (s.modCluster c g).ev = s.ev := rfl
@[simp] theorem State.modCluster_opened (c : Nat) (g : Cluster → Cluster) : (s.modCluster c g).opened = s.opened := rfl
@[simp] theorem State.modCluster_turns (c : Nat) (g : Cluster → Cluster) : (s.modCluster c g).turns = s.turns := rfl
@[simp] theorem State.modCluster_chosen (c : Nat) (g : Cluster → Cluster) : (s.modCluster c g).chosen = s.chosen := rfl
@[simp] theorem State.modCluster_taken (c : Nat) (g : Cluster → Cluster) : (s.modCluster c g).taken = s.taken := rfl
@[simp] theorem State.modCluster_cur (c : Nat) (g : Cluster → Cluster) : (s.modCluster c g).cur = s.cur := rfl
@[simp] theorem State.modCluster_free (c : Nat) (g : Cluster → Cluster) : (s.modCluster c g).free = s.free := rfl

/-! ### modRail -/

@[simp] theorem State.modRail_pkg (r : Nat) (g : Rail → Rail) : (s.modRail r g).pkg = s.pkg := rfl
@[simp] theorem State.modRail_cores (r : Nat) (g : Rail → Rail) : (s.modRail r g).cores = s.cores := rfl
@[simp] theorem State.modRail_pairs (r : Nat) (g : Rail → Rail) : (s.modRail r g).pairs = s.pairs := rfl
@[simp] theorem State.modRail_dies (r : Nat) (g : Rail → Rail) : (s.modRail r g).dies = s.dies := rfl
@[simp] theorem State.modRail_clusters (r : Nat) (g : Rail → Rail) : (s.modRail r g).clusters = s.clusters := rfl
@[simp] theorem State.modRail_parts (r : Nat) (g : Rail → Rail) : (s.modRail r g).parts = s.parts := rfl
@[simp] theorem State.modRail_vfs (r : Nat) (g : Rail → Rail) : (s.modRail r g).vfs = s.vfs := rfl
@[simp] theorem State.modRail_heads (r : Nat) (g : Rail → Rail) : (s.modRail r g).heads = s.heads := rfl
@[simp] theorem State.modRail_ports (r : Nat) (g : Rail → Rail) : (s.modRail r g).ports = s.ports := rfl
@[simp] theorem State.modRail_teams (r : Nat) (g : Rail → Rail) : (s.modRail r g).teams = s.teams := rfl
@[simp] theorem State.modRail_launches (r : Nat) (g : Rail → Rail) : (s.modRail r g).launches = s.launches := rfl
@[simp] theorem State.modRail_foots (r : Nat) (g : Rail → Rail) : (s.modRail r g).foots = s.foots := rfl
@[simp] theorem State.modRail_mem (r : Nat) (g : Rail → Rail) : (s.modRail r g).mem = s.mem := rfl
@[simp] theorem State.modRail_memPoison (r : Nat) (g : Rail → Rail) : (s.modRail r g).memPoison = s.memPoison := rfl
@[simp] theorem State.modRail_memCmp (r : Nat) (g : Rail → Rail) : (s.modRail r g).memCmp = s.memCmp := rfl
@[simp] theorem State.modRail_loam (r : Nat) (g : Rail → Rail) : (s.modRail r g).loam = s.loam := rfl
@[simp] theorem State.modRail_loamPoison (r : Nat) (g : Rail → Rail) : (s.modRail r g).loamPoison = s.loamPoison := rfl
@[simp] theorem State.modRail_fot (r : Nat) (g : Rail → Rail) : (s.modRail r g).fot = s.fot := rfl
@[simp] theorem State.modRail_loamFot (r : Nat) (g : Rail → Rail) : (s.modRail r g).loamFot = s.loamFot := rfl
@[simp] theorem State.modRail_agenda (r : Nat) (g : Rail → Rail) : (s.modRail r g).agenda = s.agenda := rfl
@[simp] theorem State.modRail_ev (r : Nat) (g : Rail → Rail) : (s.modRail r g).ev = s.ev := rfl
@[simp] theorem State.modRail_opened (r : Nat) (g : Rail → Rail) : (s.modRail r g).opened = s.opened := rfl
@[simp] theorem State.modRail_turns (r : Nat) (g : Rail → Rail) : (s.modRail r g).turns = s.turns := rfl
@[simp] theorem State.modRail_chosen (r : Nat) (g : Rail → Rail) : (s.modRail r g).chosen = s.chosen := rfl
@[simp] theorem State.modRail_taken (r : Nat) (g : Rail → Rail) : (s.modRail r g).taken = s.taken := rfl
@[simp] theorem State.modRail_cur (r : Nat) (g : Rail → Rail) : (s.modRail r g).cur = s.cur := rfl
@[simp] theorem State.modRail_free (r : Nat) (g : Rail → Rail) : (s.modRail r g).free = s.free := rfl

/-! ### modPart -/

@[simp] theorem State.modPart_pkg (p : Nat) (g : Part → Part) : (s.modPart p g).pkg = s.pkg := rfl
@[simp] theorem State.modPart_cores (p : Nat) (g : Part → Part) : (s.modPart p g).cores = s.cores := rfl
@[simp] theorem State.modPart_pairs (p : Nat) (g : Part → Part) : (s.modPart p g).pairs = s.pairs := rfl
@[simp] theorem State.modPart_dies (p : Nat) (g : Part → Part) : (s.modPart p g).dies = s.dies := rfl
@[simp] theorem State.modPart_clusters (p : Nat) (g : Part → Part) : (s.modPart p g).clusters = s.clusters := rfl
@[simp] theorem State.modPart_rails (p : Nat) (g : Part → Part) : (s.modPart p g).rails = s.rails := rfl
@[simp] theorem State.modPart_vfs (p : Nat) (g : Part → Part) : (s.modPart p g).vfs = s.vfs := rfl
@[simp] theorem State.modPart_heads (p : Nat) (g : Part → Part) : (s.modPart p g).heads = s.heads := rfl
@[simp] theorem State.modPart_ports (p : Nat) (g : Part → Part) : (s.modPart p g).ports = s.ports := rfl
@[simp] theorem State.modPart_teams (p : Nat) (g : Part → Part) : (s.modPart p g).teams = s.teams := rfl
@[simp] theorem State.modPart_launches (p : Nat) (g : Part → Part) : (s.modPart p g).launches = s.launches := rfl
@[simp] theorem State.modPart_foots (p : Nat) (g : Part → Part) : (s.modPart p g).foots = s.foots := rfl
@[simp] theorem State.modPart_mem (p : Nat) (g : Part → Part) : (s.modPart p g).mem = s.mem := rfl
@[simp] theorem State.modPart_memPoison (p : Nat) (g : Part → Part) : (s.modPart p g).memPoison = s.memPoison := rfl
@[simp] theorem State.modPart_memCmp (p : Nat) (g : Part → Part) : (s.modPart p g).memCmp = s.memCmp := rfl
@[simp] theorem State.modPart_loam (p : Nat) (g : Part → Part) : (s.modPart p g).loam = s.loam := rfl
@[simp] theorem State.modPart_loamPoison (p : Nat) (g : Part → Part) : (s.modPart p g).loamPoison = s.loamPoison := rfl
@[simp] theorem State.modPart_fot (p : Nat) (g : Part → Part) : (s.modPart p g).fot = s.fot := rfl
@[simp] theorem State.modPart_loamFot (p : Nat) (g : Part → Part) : (s.modPart p g).loamFot = s.loamFot := rfl
@[simp] theorem State.modPart_agenda (p : Nat) (g : Part → Part) : (s.modPart p g).agenda = s.agenda := rfl
@[simp] theorem State.modPart_ev (p : Nat) (g : Part → Part) : (s.modPart p g).ev = s.ev := rfl
@[simp] theorem State.modPart_opened (p : Nat) (g : Part → Part) : (s.modPart p g).opened = s.opened := rfl
@[simp] theorem State.modPart_turns (p : Nat) (g : Part → Part) : (s.modPart p g).turns = s.turns := rfl
@[simp] theorem State.modPart_chosen (p : Nat) (g : Part → Part) : (s.modPart p g).chosen = s.chosen := rfl
@[simp] theorem State.modPart_taken (p : Nat) (g : Part → Part) : (s.modPart p g).taken = s.taken := rfl
@[simp] theorem State.modPart_cur (p : Nat) (g : Part → Part) : (s.modPart p g).cur = s.cur := rfl
@[simp] theorem State.modPart_free (p : Nat) (g : Part → Part) : (s.modPart p g).free = s.free := rfl

/-! ### modVf -/

@[simp] theorem State.modVf_pkg (v : Nat) (g : Vf → Vf) : (s.modVf v g).pkg = s.pkg := rfl
@[simp] theorem State.modVf_cores (v : Nat) (g : Vf → Vf) : (s.modVf v g).cores = s.cores := rfl
@[simp] theorem State.modVf_pairs (v : Nat) (g : Vf → Vf) : (s.modVf v g).pairs = s.pairs := rfl
@[simp] theorem State.modVf_dies (v : Nat) (g : Vf → Vf) : (s.modVf v g).dies = s.dies := rfl
@[simp] theorem State.modVf_clusters (v : Nat) (g : Vf → Vf) : (s.modVf v g).clusters = s.clusters := rfl
@[simp] theorem State.modVf_rails (v : Nat) (g : Vf → Vf) : (s.modVf v g).rails = s.rails := rfl
@[simp] theorem State.modVf_parts (v : Nat) (g : Vf → Vf) : (s.modVf v g).parts = s.parts := rfl
@[simp] theorem State.modVf_heads (v : Nat) (g : Vf → Vf) : (s.modVf v g).heads = s.heads := rfl
@[simp] theorem State.modVf_ports (v : Nat) (g : Vf → Vf) : (s.modVf v g).ports = s.ports := rfl
@[simp] theorem State.modVf_teams (v : Nat) (g : Vf → Vf) : (s.modVf v g).teams = s.teams := rfl
@[simp] theorem State.modVf_launches (v : Nat) (g : Vf → Vf) : (s.modVf v g).launches = s.launches := rfl
@[simp] theorem State.modVf_foots (v : Nat) (g : Vf → Vf) : (s.modVf v g).foots = s.foots := rfl
@[simp] theorem State.modVf_mem (v : Nat) (g : Vf → Vf) : (s.modVf v g).mem = s.mem := rfl
@[simp] theorem State.modVf_memPoison (v : Nat) (g : Vf → Vf) : (s.modVf v g).memPoison = s.memPoison := rfl
@[simp] theorem State.modVf_memCmp (v : Nat) (g : Vf → Vf) : (s.modVf v g).memCmp = s.memCmp := rfl
@[simp] theorem State.modVf_loam (v : Nat) (g : Vf → Vf) : (s.modVf v g).loam = s.loam := rfl
@[simp] theorem State.modVf_loamPoison (v : Nat) (g : Vf → Vf) : (s.modVf v g).loamPoison = s.loamPoison := rfl
@[simp] theorem State.modVf_fot (v : Nat) (g : Vf → Vf) : (s.modVf v g).fot = s.fot := rfl
@[simp] theorem State.modVf_loamFot (v : Nat) (g : Vf → Vf) : (s.modVf v g).loamFot = s.loamFot := rfl
@[simp] theorem State.modVf_agenda (v : Nat) (g : Vf → Vf) : (s.modVf v g).agenda = s.agenda := rfl
@[simp] theorem State.modVf_ev (v : Nat) (g : Vf → Vf) : (s.modVf v g).ev = s.ev := rfl
@[simp] theorem State.modVf_opened (v : Nat) (g : Vf → Vf) : (s.modVf v g).opened = s.opened := rfl
@[simp] theorem State.modVf_turns (v : Nat) (g : Vf → Vf) : (s.modVf v g).turns = s.turns := rfl
@[simp] theorem State.modVf_chosen (v : Nat) (g : Vf → Vf) : (s.modVf v g).chosen = s.chosen := rfl
@[simp] theorem State.modVf_taken (v : Nat) (g : Vf → Vf) : (s.modVf v g).taken = s.taken := rfl
@[simp] theorem State.modVf_cur (v : Nat) (g : Vf → Vf) : (s.modVf v g).cur = s.cur := rfl
@[simp] theorem State.modVf_free (v : Nat) (g : Vf → Vf) : (s.modVf v g).free = s.free := rfl

/-! ### modHead -/

@[simp] theorem State.modHead_pkg (h : Nat) (g : Head → Head) : (s.modHead h g).pkg = s.pkg := rfl
@[simp] theorem State.modHead_cores (h : Nat) (g : Head → Head) : (s.modHead h g).cores = s.cores := rfl
@[simp] theorem State.modHead_pairs (h : Nat) (g : Head → Head) : (s.modHead h g).pairs = s.pairs := rfl
@[simp] theorem State.modHead_dies (h : Nat) (g : Head → Head) : (s.modHead h g).dies = s.dies := rfl
@[simp] theorem State.modHead_clusters (h : Nat) (g : Head → Head) : (s.modHead h g).clusters = s.clusters := rfl
@[simp] theorem State.modHead_rails (h : Nat) (g : Head → Head) : (s.modHead h g).rails = s.rails := rfl
@[simp] theorem State.modHead_parts (h : Nat) (g : Head → Head) : (s.modHead h g).parts = s.parts := rfl
@[simp] theorem State.modHead_vfs (h : Nat) (g : Head → Head) : (s.modHead h g).vfs = s.vfs := rfl
@[simp] theorem State.modHead_ports (h : Nat) (g : Head → Head) : (s.modHead h g).ports = s.ports := rfl
@[simp] theorem State.modHead_teams (h : Nat) (g : Head → Head) : (s.modHead h g).teams = s.teams := rfl
@[simp] theorem State.modHead_launches (h : Nat) (g : Head → Head) : (s.modHead h g).launches = s.launches := rfl
@[simp] theorem State.modHead_foots (h : Nat) (g : Head → Head) : (s.modHead h g).foots = s.foots := rfl
@[simp] theorem State.modHead_mem (h : Nat) (g : Head → Head) : (s.modHead h g).mem = s.mem := rfl
@[simp] theorem State.modHead_memPoison (h : Nat) (g : Head → Head) : (s.modHead h g).memPoison = s.memPoison := rfl
@[simp] theorem State.modHead_memCmp (h : Nat) (g : Head → Head) : (s.modHead h g).memCmp = s.memCmp := rfl
@[simp] theorem State.modHead_loam (h : Nat) (g : Head → Head) : (s.modHead h g).loam = s.loam := rfl
@[simp] theorem State.modHead_loamPoison (h : Nat) (g : Head → Head) : (s.modHead h g).loamPoison = s.loamPoison := rfl
@[simp] theorem State.modHead_fot (h : Nat) (g : Head → Head) : (s.modHead h g).fot = s.fot := rfl
@[simp] theorem State.modHead_loamFot (h : Nat) (g : Head → Head) : (s.modHead h g).loamFot = s.loamFot := rfl
@[simp] theorem State.modHead_agenda (h : Nat) (g : Head → Head) : (s.modHead h g).agenda = s.agenda := rfl
@[simp] theorem State.modHead_ev (h : Nat) (g : Head → Head) : (s.modHead h g).ev = s.ev := rfl
@[simp] theorem State.modHead_opened (h : Nat) (g : Head → Head) : (s.modHead h g).opened = s.opened := rfl
@[simp] theorem State.modHead_turns (h : Nat) (g : Head → Head) : (s.modHead h g).turns = s.turns := rfl
@[simp] theorem State.modHead_chosen (h : Nat) (g : Head → Head) : (s.modHead h g).chosen = s.chosen := rfl
@[simp] theorem State.modHead_taken (h : Nat) (g : Head → Head) : (s.modHead h g).taken = s.taken := rfl
@[simp] theorem State.modHead_cur (h : Nat) (g : Head → Head) : (s.modHead h g).cur = s.cur := rfl
@[simp] theorem State.modHead_free (h : Nat) (g : Head → Head) : (s.modHead h g).free = s.free := rfl

/-! ### modPort -/

@[simp] theorem State.modPort_pkg (p : Nat) (g : Port → Port) : (s.modPort p g).pkg = s.pkg := rfl
@[simp] theorem State.modPort_cores (p : Nat) (g : Port → Port) : (s.modPort p g).cores = s.cores := rfl
@[simp] theorem State.modPort_pairs (p : Nat) (g : Port → Port) : (s.modPort p g).pairs = s.pairs := rfl
@[simp] theorem State.modPort_dies (p : Nat) (g : Port → Port) : (s.modPort p g).dies = s.dies := rfl
@[simp] theorem State.modPort_clusters (p : Nat) (g : Port → Port) : (s.modPort p g).clusters = s.clusters := rfl
@[simp] theorem State.modPort_rails (p : Nat) (g : Port → Port) : (s.modPort p g).rails = s.rails := rfl
@[simp] theorem State.modPort_parts (p : Nat) (g : Port → Port) : (s.modPort p g).parts = s.parts := rfl
@[simp] theorem State.modPort_vfs (p : Nat) (g : Port → Port) : (s.modPort p g).vfs = s.vfs := rfl
@[simp] theorem State.modPort_heads (p : Nat) (g : Port → Port) : (s.modPort p g).heads = s.heads := rfl
@[simp] theorem State.modPort_teams (p : Nat) (g : Port → Port) : (s.modPort p g).teams = s.teams := rfl
@[simp] theorem State.modPort_launches (p : Nat) (g : Port → Port) : (s.modPort p g).launches = s.launches := rfl
@[simp] theorem State.modPort_foots (p : Nat) (g : Port → Port) : (s.modPort p g).foots = s.foots := rfl
@[simp] theorem State.modPort_mem (p : Nat) (g : Port → Port) : (s.modPort p g).mem = s.mem := rfl
@[simp] theorem State.modPort_memPoison (p : Nat) (g : Port → Port) : (s.modPort p g).memPoison = s.memPoison := rfl
@[simp] theorem State.modPort_memCmp (p : Nat) (g : Port → Port) : (s.modPort p g).memCmp = s.memCmp := rfl
@[simp] theorem State.modPort_loam (p : Nat) (g : Port → Port) : (s.modPort p g).loam = s.loam := rfl
@[simp] theorem State.modPort_loamPoison (p : Nat) (g : Port → Port) : (s.modPort p g).loamPoison = s.loamPoison := rfl
@[simp] theorem State.modPort_fot (p : Nat) (g : Port → Port) : (s.modPort p g).fot = s.fot := rfl
@[simp] theorem State.modPort_loamFot (p : Nat) (g : Port → Port) : (s.modPort p g).loamFot = s.loamFot := rfl
@[simp] theorem State.modPort_agenda (p : Nat) (g : Port → Port) : (s.modPort p g).agenda = s.agenda := rfl
@[simp] theorem State.modPort_ev (p : Nat) (g : Port → Port) : (s.modPort p g).ev = s.ev := rfl
@[simp] theorem State.modPort_opened (p : Nat) (g : Port → Port) : (s.modPort p g).opened = s.opened := rfl
@[simp] theorem State.modPort_turns (p : Nat) (g : Port → Port) : (s.modPort p g).turns = s.turns := rfl
@[simp] theorem State.modPort_chosen (p : Nat) (g : Port → Port) : (s.modPort p g).chosen = s.chosen := rfl
@[simp] theorem State.modPort_taken (p : Nat) (g : Port → Port) : (s.modPort p g).taken = s.taken := rfl
@[simp] theorem State.modPort_cur (p : Nat) (g : Port → Port) : (s.modPort p g).cur = s.cur := rfl
@[simp] theorem State.modPort_free (p : Nat) (g : Port → Port) : (s.modPort p g).free = s.free := rfl

/-! ### modPkg -/

@[simp] theorem State.modPkg_cores (g : Package → Package) : (s.modPkg g).cores = s.cores := rfl
@[simp] theorem State.modPkg_pairs (g : Package → Package) : (s.modPkg g).pairs = s.pairs := rfl
@[simp] theorem State.modPkg_dies (g : Package → Package) : (s.modPkg g).dies = s.dies := rfl
@[simp] theorem State.modPkg_clusters (g : Package → Package) : (s.modPkg g).clusters = s.clusters := rfl
@[simp] theorem State.modPkg_rails (g : Package → Package) : (s.modPkg g).rails = s.rails := rfl
@[simp] theorem State.modPkg_parts (g : Package → Package) : (s.modPkg g).parts = s.parts := rfl
@[simp] theorem State.modPkg_vfs (g : Package → Package) : (s.modPkg g).vfs = s.vfs := rfl
@[simp] theorem State.modPkg_heads (g : Package → Package) : (s.modPkg g).heads = s.heads := rfl
@[simp] theorem State.modPkg_ports (g : Package → Package) : (s.modPkg g).ports = s.ports := rfl
@[simp] theorem State.modPkg_teams (g : Package → Package) : (s.modPkg g).teams = s.teams := rfl
@[simp] theorem State.modPkg_launches (g : Package → Package) : (s.modPkg g).launches = s.launches := rfl
@[simp] theorem State.modPkg_foots (g : Package → Package) : (s.modPkg g).foots = s.foots := rfl
@[simp] theorem State.modPkg_mem (g : Package → Package) : (s.modPkg g).mem = s.mem := rfl
@[simp] theorem State.modPkg_memPoison (g : Package → Package) : (s.modPkg g).memPoison = s.memPoison := rfl
@[simp] theorem State.modPkg_memCmp (g : Package → Package) : (s.modPkg g).memCmp = s.memCmp := rfl
@[simp] theorem State.modPkg_loam (g : Package → Package) : (s.modPkg g).loam = s.loam := rfl
@[simp] theorem State.modPkg_loamPoison (g : Package → Package) : (s.modPkg g).loamPoison = s.loamPoison := rfl
@[simp] theorem State.modPkg_fot (g : Package → Package) : (s.modPkg g).fot = s.fot := rfl
@[simp] theorem State.modPkg_loamFot (g : Package → Package) : (s.modPkg g).loamFot = s.loamFot := rfl
@[simp] theorem State.modPkg_agenda (g : Package → Package) : (s.modPkg g).agenda = s.agenda := rfl
@[simp] theorem State.modPkg_ev (g : Package → Package) : (s.modPkg g).ev = s.ev := rfl
@[simp] theorem State.modPkg_opened (g : Package → Package) : (s.modPkg g).opened = s.opened := rfl
@[simp] theorem State.modPkg_turns (g : Package → Package) : (s.modPkg g).turns = s.turns := rfl
@[simp] theorem State.modPkg_chosen (g : Package → Package) : (s.modPkg g).chosen = s.chosen := rfl
@[simp] theorem State.modPkg_taken (g : Package → Package) : (s.modPkg g).taken = s.taken := rfl
@[simp] theorem State.modPkg_cur (g : Package → Package) : (s.modPkg g).cur = s.cur := rfl
@[simp] theorem State.modPkg_free (g : Package → Package) : (s.modPkg g).free = s.free := rfl

/-! ### setWarp -/

@[simp] theorem State.setWarp_pkg (c n : Nat) (w : Warp) : (s.setWarp c n w).pkg = s.pkg := rfl
@[simp] theorem State.setWarp_pairs (c n : Nat) (w : Warp) : (s.setWarp c n w).pairs = s.pairs := rfl
@[simp] theorem State.setWarp_dies (c n : Nat) (w : Warp) : (s.setWarp c n w).dies = s.dies := rfl
@[simp] theorem State.setWarp_clusters (c n : Nat) (w : Warp) : (s.setWarp c n w).clusters = s.clusters := rfl
@[simp] theorem State.setWarp_rails (c n : Nat) (w : Warp) : (s.setWarp c n w).rails = s.rails := rfl
@[simp] theorem State.setWarp_parts (c n : Nat) (w : Warp) : (s.setWarp c n w).parts = s.parts := rfl
@[simp] theorem State.setWarp_vfs (c n : Nat) (w : Warp) : (s.setWarp c n w).vfs = s.vfs := rfl
@[simp] theorem State.setWarp_heads (c n : Nat) (w : Warp) : (s.setWarp c n w).heads = s.heads := rfl
@[simp] theorem State.setWarp_ports (c n : Nat) (w : Warp) : (s.setWarp c n w).ports = s.ports := rfl
@[simp] theorem State.setWarp_teams (c n : Nat) (w : Warp) : (s.setWarp c n w).teams = s.teams := rfl
@[simp] theorem State.setWarp_launches (c n : Nat) (w : Warp) : (s.setWarp c n w).launches = s.launches := rfl
@[simp] theorem State.setWarp_foots (c n : Nat) (w : Warp) : (s.setWarp c n w).foots = s.foots := rfl
@[simp] theorem State.setWarp_mem (c n : Nat) (w : Warp) : (s.setWarp c n w).mem = s.mem := rfl
@[simp] theorem State.setWarp_memPoison (c n : Nat) (w : Warp) : (s.setWarp c n w).memPoison = s.memPoison := rfl
@[simp] theorem State.setWarp_memCmp (c n : Nat) (w : Warp) : (s.setWarp c n w).memCmp = s.memCmp := rfl
@[simp] theorem State.setWarp_loam (c n : Nat) (w : Warp) : (s.setWarp c n w).loam = s.loam := rfl
@[simp] theorem State.setWarp_loamPoison (c n : Nat) (w : Warp) : (s.setWarp c n w).loamPoison = s.loamPoison := rfl
@[simp] theorem State.setWarp_fot (c n : Nat) (w : Warp) : (s.setWarp c n w).fot = s.fot := rfl
@[simp] theorem State.setWarp_loamFot (c n : Nat) (w : Warp) : (s.setWarp c n w).loamFot = s.loamFot := rfl
@[simp] theorem State.setWarp_agenda (c n : Nat) (w : Warp) : (s.setWarp c n w).agenda = s.agenda := rfl
@[simp] theorem State.setWarp_ev (c n : Nat) (w : Warp) : (s.setWarp c n w).ev = s.ev := rfl
@[simp] theorem State.setWarp_opened (c n : Nat) (w : Warp) : (s.setWarp c n w).opened = s.opened := rfl
@[simp] theorem State.setWarp_turns (c n : Nat) (w : Warp) : (s.setWarp c n w).turns = s.turns := rfl
@[simp] theorem State.setWarp_chosen (c n : Nat) (w : Warp) : (s.setWarp c n w).chosen = s.chosen := rfl
@[simp] theorem State.setWarp_taken (c n : Nat) (w : Warp) : (s.setWarp c n w).taken = s.taken := rfl
@[simp] theorem State.setWarp_cur (c n : Nat) (w : Warp) : (s.setWarp c n w).cur = s.cur := rfl
@[simp] theorem State.setWarp_free (c n : Nat) (w : Warp) : (s.setWarp c n w).free = s.free := rfl

/-! ### modWarp -/

@[simp] theorem State.modWarp_pkg (c n : Nat) (g : Warp → Warp) : (s.modWarp c n g).pkg = s.pkg := rfl
@[simp] theorem State.modWarp_pairs (c n : Nat) (g : Warp → Warp) : (s.modWarp c n g).pairs = s.pairs := rfl
@[simp] theorem State.modWarp_dies (c n : Nat) (g : Warp → Warp) : (s.modWarp c n g).dies = s.dies := rfl
@[simp] theorem State.modWarp_clusters (c n : Nat) (g : Warp → Warp) : (s.modWarp c n g).clusters = s.clusters := rfl
@[simp] theorem State.modWarp_rails (c n : Nat) (g : Warp → Warp) : (s.modWarp c n g).rails = s.rails := rfl
@[simp] theorem State.modWarp_parts (c n : Nat) (g : Warp → Warp) : (s.modWarp c n g).parts = s.parts := rfl
@[simp] theorem State.modWarp_vfs (c n : Nat) (g : Warp → Warp) : (s.modWarp c n g).vfs = s.vfs := rfl
@[simp] theorem State.modWarp_heads (c n : Nat) (g : Warp → Warp) : (s.modWarp c n g).heads = s.heads := rfl
@[simp] theorem State.modWarp_ports (c n : Nat) (g : Warp → Warp) : (s.modWarp c n g).ports = s.ports := rfl
@[simp] theorem State.modWarp_teams (c n : Nat) (g : Warp → Warp) : (s.modWarp c n g).teams = s.teams := rfl
@[simp] theorem State.modWarp_launches (c n : Nat) (g : Warp → Warp) : (s.modWarp c n g).launches = s.launches := rfl
@[simp] theorem State.modWarp_foots (c n : Nat) (g : Warp → Warp) : (s.modWarp c n g).foots = s.foots := rfl
@[simp] theorem State.modWarp_mem (c n : Nat) (g : Warp → Warp) : (s.modWarp c n g).mem = s.mem := rfl
@[simp] theorem State.modWarp_memPoison (c n : Nat) (g : Warp → Warp) : (s.modWarp c n g).memPoison = s.memPoison := rfl
@[simp] theorem State.modWarp_memCmp (c n : Nat) (g : Warp → Warp) : (s.modWarp c n g).memCmp = s.memCmp := rfl
@[simp] theorem State.modWarp_loam (c n : Nat) (g : Warp → Warp) : (s.modWarp c n g).loam = s.loam := rfl
@[simp] theorem State.modWarp_loamPoison (c n : Nat) (g : Warp → Warp) : (s.modWarp c n g).loamPoison = s.loamPoison := rfl
@[simp] theorem State.modWarp_fot (c n : Nat) (g : Warp → Warp) : (s.modWarp c n g).fot = s.fot := rfl
@[simp] theorem State.modWarp_loamFot (c n : Nat) (g : Warp → Warp) : (s.modWarp c n g).loamFot = s.loamFot := rfl
@[simp] theorem State.modWarp_agenda (c n : Nat) (g : Warp → Warp) : (s.modWarp c n g).agenda = s.agenda := rfl
@[simp] theorem State.modWarp_ev (c n : Nat) (g : Warp → Warp) : (s.modWarp c n g).ev = s.ev := rfl
@[simp] theorem State.modWarp_opened (c n : Nat) (g : Warp → Warp) : (s.modWarp c n g).opened = s.opened := rfl
@[simp] theorem State.modWarp_turns (c n : Nat) (g : Warp → Warp) : (s.modWarp c n g).turns = s.turns := rfl
@[simp] theorem State.modWarp_chosen (c n : Nat) (g : Warp → Warp) : (s.modWarp c n g).chosen = s.chosen := rfl
@[simp] theorem State.modWarp_taken (c n : Nat) (g : Warp → Warp) : (s.modWarp c n g).taken = s.taken := rfl
@[simp] theorem State.modWarp_cur (c n : Nat) (g : Warp → Warp) : (s.modWarp c n g).cur = s.cur := rfl
@[simp] theorem State.modWarp_free (c n : Nat) (g : Warp → Warp) : (s.modWarp c n g).free = s.free := rfl

/-! ### modPath -/

@[simp] theorem State.modPath_pkg (c n i : Nat) (g : Path → Path) : (s.modPath c n i g).pkg = s.pkg := rfl
@[simp] theorem State.modPath_pairs (c n i : Nat) (g : Path → Path) : (s.modPath c n i g).pairs = s.pairs := rfl
@[simp] theorem State.modPath_dies (c n i : Nat) (g : Path → Path) : (s.modPath c n i g).dies = s.dies := rfl
@[simp] theorem State.modPath_clusters (c n i : Nat) (g : Path → Path) : (s.modPath c n i g).clusters = s.clusters := rfl
@[simp] theorem State.modPath_rails (c n i : Nat) (g : Path → Path) : (s.modPath c n i g).rails = s.rails := rfl
@[simp] theorem State.modPath_parts (c n i : Nat) (g : Path → Path) : (s.modPath c n i g).parts = s.parts := rfl
@[simp] theorem State.modPath_vfs (c n i : Nat) (g : Path → Path) : (s.modPath c n i g).vfs = s.vfs := rfl
@[simp] theorem State.modPath_heads (c n i : Nat) (g : Path → Path) : (s.modPath c n i g).heads = s.heads := rfl
@[simp] theorem State.modPath_ports (c n i : Nat) (g : Path → Path) : (s.modPath c n i g).ports = s.ports := rfl
@[simp] theorem State.modPath_teams (c n i : Nat) (g : Path → Path) : (s.modPath c n i g).teams = s.teams := rfl
@[simp] theorem State.modPath_launches (c n i : Nat) (g : Path → Path) : (s.modPath c n i g).launches = s.launches := rfl
@[simp] theorem State.modPath_foots (c n i : Nat) (g : Path → Path) : (s.modPath c n i g).foots = s.foots := rfl
@[simp] theorem State.modPath_mem (c n i : Nat) (g : Path → Path) : (s.modPath c n i g).mem = s.mem := rfl
@[simp] theorem State.modPath_memPoison (c n i : Nat) (g : Path → Path) : (s.modPath c n i g).memPoison = s.memPoison := rfl
@[simp] theorem State.modPath_memCmp (c n i : Nat) (g : Path → Path) : (s.modPath c n i g).memCmp = s.memCmp := rfl
@[simp] theorem State.modPath_loam (c n i : Nat) (g : Path → Path) : (s.modPath c n i g).loam = s.loam := rfl
@[simp] theorem State.modPath_loamPoison (c n i : Nat) (g : Path → Path) : (s.modPath c n i g).loamPoison = s.loamPoison := rfl
@[simp] theorem State.modPath_fot (c n i : Nat) (g : Path → Path) : (s.modPath c n i g).fot = s.fot := rfl
@[simp] theorem State.modPath_loamFot (c n i : Nat) (g : Path → Path) : (s.modPath c n i g).loamFot = s.loamFot := rfl
@[simp] theorem State.modPath_agenda (c n i : Nat) (g : Path → Path) : (s.modPath c n i g).agenda = s.agenda := rfl
@[simp] theorem State.modPath_ev (c n i : Nat) (g : Path → Path) : (s.modPath c n i g).ev = s.ev := rfl
@[simp] theorem State.modPath_opened (c n i : Nat) (g : Path → Path) : (s.modPath c n i g).opened = s.opened := rfl
@[simp] theorem State.modPath_turns (c n i : Nat) (g : Path → Path) : (s.modPath c n i g).turns = s.turns := rfl
@[simp] theorem State.modPath_chosen (c n i : Nat) (g : Path → Path) : (s.modPath c n i g).chosen = s.chosen := rfl
@[simp] theorem State.modPath_taken (c n i : Nat) (g : Path → Path) : (s.modPath c n i g).taken = s.taken := rfl
@[simp] theorem State.modPath_cur (c n i : Nat) (g : Path → Path) : (s.modPath c n i g).cur = s.cur := rfl
@[simp] theorem State.modPath_free (c n i : Nat) (g : Path → Path) : (s.modPath c n i g).free = s.free := rfl

/-! ### modTeam -/

@[simp] theorem State.modTeam_pkg (h i : Nat) (g : Team → Team) : (s.modTeam h i g).pkg = s.pkg := rfl
@[simp] theorem State.modTeam_cores (h i : Nat) (g : Team → Team) : (s.modTeam h i g).cores = s.cores := rfl
@[simp] theorem State.modTeam_pairs (h i : Nat) (g : Team → Team) : (s.modTeam h i g).pairs = s.pairs := rfl
@[simp] theorem State.modTeam_dies (h i : Nat) (g : Team → Team) : (s.modTeam h i g).dies = s.dies := rfl
@[simp] theorem State.modTeam_clusters (h i : Nat) (g : Team → Team) : (s.modTeam h i g).clusters = s.clusters := rfl
@[simp] theorem State.modTeam_rails (h i : Nat) (g : Team → Team) : (s.modTeam h i g).rails = s.rails := rfl
@[simp] theorem State.modTeam_parts (h i : Nat) (g : Team → Team) : (s.modTeam h i g).parts = s.parts := rfl
@[simp] theorem State.modTeam_vfs (h i : Nat) (g : Team → Team) : (s.modTeam h i g).vfs = s.vfs := rfl
@[simp] theorem State.modTeam_heads (h i : Nat) (g : Team → Team) : (s.modTeam h i g).heads = s.heads := rfl
@[simp] theorem State.modTeam_ports (h i : Nat) (g : Team → Team) : (s.modTeam h i g).ports = s.ports := rfl
@[simp] theorem State.modTeam_launches (h i : Nat) (g : Team → Team) : (s.modTeam h i g).launches = s.launches := rfl
@[simp] theorem State.modTeam_foots (h i : Nat) (g : Team → Team) : (s.modTeam h i g).foots = s.foots := rfl
@[simp] theorem State.modTeam_mem (h i : Nat) (g : Team → Team) : (s.modTeam h i g).mem = s.mem := rfl
@[simp] theorem State.modTeam_memPoison (h i : Nat) (g : Team → Team) : (s.modTeam h i g).memPoison = s.memPoison := rfl
@[simp] theorem State.modTeam_memCmp (h i : Nat) (g : Team → Team) : (s.modTeam h i g).memCmp = s.memCmp := rfl
@[simp] theorem State.modTeam_loam (h i : Nat) (g : Team → Team) : (s.modTeam h i g).loam = s.loam := rfl
@[simp] theorem State.modTeam_loamPoison (h i : Nat) (g : Team → Team) : (s.modTeam h i g).loamPoison = s.loamPoison := rfl
@[simp] theorem State.modTeam_fot (h i : Nat) (g : Team → Team) : (s.modTeam h i g).fot = s.fot := rfl
@[simp] theorem State.modTeam_loamFot (h i : Nat) (g : Team → Team) : (s.modTeam h i g).loamFot = s.loamFot := rfl
@[simp] theorem State.modTeam_agenda (h i : Nat) (g : Team → Team) : (s.modTeam h i g).agenda = s.agenda := rfl
@[simp] theorem State.modTeam_ev (h i : Nat) (g : Team → Team) : (s.modTeam h i g).ev = s.ev := rfl
@[simp] theorem State.modTeam_opened (h i : Nat) (g : Team → Team) : (s.modTeam h i g).opened = s.opened := rfl
@[simp] theorem State.modTeam_turns (h i : Nat) (g : Team → Team) : (s.modTeam h i g).turns = s.turns := rfl
@[simp] theorem State.modTeam_chosen (h i : Nat) (g : Team → Team) : (s.modTeam h i g).chosen = s.chosen := rfl
@[simp] theorem State.modTeam_taken (h i : Nat) (g : Team → Team) : (s.modTeam h i g).taken = s.taken := rfl
@[simp] theorem State.modTeam_cur (h i : Nat) (g : Team → Team) : (s.modTeam h i g).cur = s.cur := rfl
@[simp] theorem State.modTeam_free (h i : Nat) (g : Team → Team) : (s.modTeam h i g).free = s.free := rfl

/-! ### modLaunch -/

@[simp] theorem State.modLaunch_pkg (h : Nat) (g : Launch → Launch) : (s.modLaunch h g).pkg = s.pkg := rfl
@[simp] theorem State.modLaunch_cores (h : Nat) (g : Launch → Launch) : (s.modLaunch h g).cores = s.cores := rfl
@[simp] theorem State.modLaunch_pairs (h : Nat) (g : Launch → Launch) : (s.modLaunch h g).pairs = s.pairs := rfl
@[simp] theorem State.modLaunch_dies (h : Nat) (g : Launch → Launch) : (s.modLaunch h g).dies = s.dies := rfl
@[simp] theorem State.modLaunch_clusters (h : Nat) (g : Launch → Launch) : (s.modLaunch h g).clusters = s.clusters := rfl
@[simp] theorem State.modLaunch_rails (h : Nat) (g : Launch → Launch) : (s.modLaunch h g).rails = s.rails := rfl
@[simp] theorem State.modLaunch_parts (h : Nat) (g : Launch → Launch) : (s.modLaunch h g).parts = s.parts := rfl
@[simp] theorem State.modLaunch_vfs (h : Nat) (g : Launch → Launch) : (s.modLaunch h g).vfs = s.vfs := rfl
@[simp] theorem State.modLaunch_heads (h : Nat) (g : Launch → Launch) : (s.modLaunch h g).heads = s.heads := rfl
@[simp] theorem State.modLaunch_ports (h : Nat) (g : Launch → Launch) : (s.modLaunch h g).ports = s.ports := rfl
@[simp] theorem State.modLaunch_teams (h : Nat) (g : Launch → Launch) : (s.modLaunch h g).teams = s.teams := rfl
@[simp] theorem State.modLaunch_foots (h : Nat) (g : Launch → Launch) : (s.modLaunch h g).foots = s.foots := rfl
@[simp] theorem State.modLaunch_mem (h : Nat) (g : Launch → Launch) : (s.modLaunch h g).mem = s.mem := rfl
@[simp] theorem State.modLaunch_memPoison (h : Nat) (g : Launch → Launch) : (s.modLaunch h g).memPoison = s.memPoison := rfl
@[simp] theorem State.modLaunch_memCmp (h : Nat) (g : Launch → Launch) : (s.modLaunch h g).memCmp = s.memCmp := rfl
@[simp] theorem State.modLaunch_loam (h : Nat) (g : Launch → Launch) : (s.modLaunch h g).loam = s.loam := rfl
@[simp] theorem State.modLaunch_loamPoison (h : Nat) (g : Launch → Launch) : (s.modLaunch h g).loamPoison = s.loamPoison := rfl
@[simp] theorem State.modLaunch_fot (h : Nat) (g : Launch → Launch) : (s.modLaunch h g).fot = s.fot := rfl
@[simp] theorem State.modLaunch_loamFot (h : Nat) (g : Launch → Launch) : (s.modLaunch h g).loamFot = s.loamFot := rfl
@[simp] theorem State.modLaunch_agenda (h : Nat) (g : Launch → Launch) : (s.modLaunch h g).agenda = s.agenda := rfl
@[simp] theorem State.modLaunch_ev (h : Nat) (g : Launch → Launch) : (s.modLaunch h g).ev = s.ev := rfl
@[simp] theorem State.modLaunch_opened (h : Nat) (g : Launch → Launch) : (s.modLaunch h g).opened = s.opened := rfl
@[simp] theorem State.modLaunch_turns (h : Nat) (g : Launch → Launch) : (s.modLaunch h g).turns = s.turns := rfl
@[simp] theorem State.modLaunch_chosen (h : Nat) (g : Launch → Launch) : (s.modLaunch h g).chosen = s.chosen := rfl
@[simp] theorem State.modLaunch_taken (h : Nat) (g : Launch → Launch) : (s.modLaunch h g).taken = s.taken := rfl
@[simp] theorem State.modLaunch_cur (h : Nat) (g : Launch → Launch) : (s.modLaunch h g).cur = s.cur := rfl
@[simp] theorem State.modLaunch_free (h : Nat) (g : Launch → Launch) : (s.modLaunch h g).free = s.free := rfl

/-! ### setBytes -/

@[simp] theorem State.setBytes_pkg (a : Nat) (l : List Byte) : (s.setBytes a l).pkg = s.pkg := rfl
@[simp] theorem State.setBytes_cores (a : Nat) (l : List Byte) : (s.setBytes a l).cores = s.cores := rfl
@[simp] theorem State.setBytes_pairs (a : Nat) (l : List Byte) : (s.setBytes a l).pairs = s.pairs := rfl
@[simp] theorem State.setBytes_dies (a : Nat) (l : List Byte) : (s.setBytes a l).dies = s.dies := rfl
@[simp] theorem State.setBytes_clusters (a : Nat) (l : List Byte) : (s.setBytes a l).clusters = s.clusters := rfl
@[simp] theorem State.setBytes_rails (a : Nat) (l : List Byte) : (s.setBytes a l).rails = s.rails := rfl
@[simp] theorem State.setBytes_parts (a : Nat) (l : List Byte) : (s.setBytes a l).parts = s.parts := rfl
@[simp] theorem State.setBytes_vfs (a : Nat) (l : List Byte) : (s.setBytes a l).vfs = s.vfs := rfl
@[simp] theorem State.setBytes_heads (a : Nat) (l : List Byte) : (s.setBytes a l).heads = s.heads := rfl
@[simp] theorem State.setBytes_ports (a : Nat) (l : List Byte) : (s.setBytes a l).ports = s.ports := rfl
@[simp] theorem State.setBytes_teams (a : Nat) (l : List Byte) : (s.setBytes a l).teams = s.teams := rfl
@[simp] theorem State.setBytes_launches (a : Nat) (l : List Byte) : (s.setBytes a l).launches = s.launches := rfl
@[simp] theorem State.setBytes_foots (a : Nat) (l : List Byte) : (s.setBytes a l).foots = s.foots := rfl
@[simp] theorem State.setBytes_memPoison (a : Nat) (l : List Byte) : (s.setBytes a l).memPoison = s.memPoison := rfl
@[simp] theorem State.setBytes_memCmp (a : Nat) (l : List Byte) : (s.setBytes a l).memCmp = s.memCmp := rfl
@[simp] theorem State.setBytes_loam (a : Nat) (l : List Byte) : (s.setBytes a l).loam = s.loam := rfl
@[simp] theorem State.setBytes_loamPoison (a : Nat) (l : List Byte) : (s.setBytes a l).loamPoison = s.loamPoison := rfl
@[simp] theorem State.setBytes_fot (a : Nat) (l : List Byte) : (s.setBytes a l).fot = s.fot := rfl
@[simp] theorem State.setBytes_loamFot (a : Nat) (l : List Byte) : (s.setBytes a l).loamFot = s.loamFot := rfl
@[simp] theorem State.setBytes_agenda (a : Nat) (l : List Byte) : (s.setBytes a l).agenda = s.agenda := rfl
@[simp] theorem State.setBytes_ev (a : Nat) (l : List Byte) : (s.setBytes a l).ev = s.ev := rfl
@[simp] theorem State.setBytes_opened (a : Nat) (l : List Byte) : (s.setBytes a l).opened = s.opened := rfl
@[simp] theorem State.setBytes_turns (a : Nat) (l : List Byte) : (s.setBytes a l).turns = s.turns := rfl
@[simp] theorem State.setBytes_chosen (a : Nat) (l : List Byte) : (s.setBytes a l).chosen = s.chosen := rfl
@[simp] theorem State.setBytes_taken (a : Nat) (l : List Byte) : (s.setBytes a l).taken = s.taken := rfl
@[simp] theorem State.setBytes_cur (a : Nat) (l : List Byte) : (s.setBytes a l).cur = s.cur := rfl
@[simp] theorem State.setBytes_free (a : Nat) (l : List Byte) : (s.setBytes a l).free = s.free := rfl

/-! ### setLoam -/

@[simp] theorem State.setLoam_pkg (a : Nat) (l : List Byte) : (s.setLoam a l).pkg = s.pkg := rfl
@[simp] theorem State.setLoam_cores (a : Nat) (l : List Byte) : (s.setLoam a l).cores = s.cores := rfl
@[simp] theorem State.setLoam_pairs (a : Nat) (l : List Byte) : (s.setLoam a l).pairs = s.pairs := rfl
@[simp] theorem State.setLoam_dies (a : Nat) (l : List Byte) : (s.setLoam a l).dies = s.dies := rfl
@[simp] theorem State.setLoam_clusters (a : Nat) (l : List Byte) : (s.setLoam a l).clusters = s.clusters := rfl
@[simp] theorem State.setLoam_rails (a : Nat) (l : List Byte) : (s.setLoam a l).rails = s.rails := rfl
@[simp] theorem State.setLoam_parts (a : Nat) (l : List Byte) : (s.setLoam a l).parts = s.parts := rfl
@[simp] theorem State.setLoam_vfs (a : Nat) (l : List Byte) : (s.setLoam a l).vfs = s.vfs := rfl
@[simp] theorem State.setLoam_heads (a : Nat) (l : List Byte) : (s.setLoam a l).heads = s.heads := rfl
@[simp] theorem State.setLoam_ports (a : Nat) (l : List Byte) : (s.setLoam a l).ports = s.ports := rfl
@[simp] theorem State.setLoam_teams (a : Nat) (l : List Byte) : (s.setLoam a l).teams = s.teams := rfl
@[simp] theorem State.setLoam_launches (a : Nat) (l : List Byte) : (s.setLoam a l).launches = s.launches := rfl
@[simp] theorem State.setLoam_foots (a : Nat) (l : List Byte) : (s.setLoam a l).foots = s.foots := rfl
@[simp] theorem State.setLoam_mem (a : Nat) (l : List Byte) : (s.setLoam a l).mem = s.mem := rfl
@[simp] theorem State.setLoam_memPoison (a : Nat) (l : List Byte) : (s.setLoam a l).memPoison = s.memPoison := rfl
@[simp] theorem State.setLoam_memCmp (a : Nat) (l : List Byte) : (s.setLoam a l).memCmp = s.memCmp := rfl
@[simp] theorem State.setLoam_fot (a : Nat) (l : List Byte) : (s.setLoam a l).fot = s.fot := rfl
@[simp] theorem State.setLoam_loamFot (a : Nat) (l : List Byte) : (s.setLoam a l).loamFot = s.loamFot := rfl
@[simp] theorem State.setLoam_agenda (a : Nat) (l : List Byte) : (s.setLoam a l).agenda = s.agenda := rfl
@[simp] theorem State.setLoam_ev (a : Nat) (l : List Byte) : (s.setLoam a l).ev = s.ev := rfl
@[simp] theorem State.setLoam_opened (a : Nat) (l : List Byte) : (s.setLoam a l).opened = s.opened := rfl
@[simp] theorem State.setLoam_turns (a : Nat) (l : List Byte) : (s.setLoam a l).turns = s.turns := rfl
@[simp] theorem State.setLoam_chosen (a : Nat) (l : List Byte) : (s.setLoam a l).chosen = s.chosen := rfl
@[simp] theorem State.setLoam_taken (a : Nat) (l : List Byte) : (s.setLoam a l).taken = s.taken := rfl
@[simp] theorem State.setLoam_cur (a : Nat) (l : List Byte) : (s.setLoam a l).cur = s.cur := rfl
@[simp] theorem State.setLoam_free (a : Nat) (l : List Byte) : (s.setLoam a l).free = s.free := rfl

/-! ### The fields that an update writes -/

@[simp] theorem State.setCore_cores (c : Nat) (k : Core) : (s.setCore c k).cores = sput {} s.cores c k := rfl
@[simp] theorem State.setPair_pairs (p : Nat) (k : Pair) : (s.setPair p k).pairs = sput {} s.pairs p k := rfl
@[simp] theorem State.modDie_dies (d : Nat) (g : Die → Die) : (s.modDie d g).dies = sput {} s.dies d (g (s.die d)) := rfl
@[simp] theorem State.modPart_parts (p : Nat) (g : Part → Part) : (s.modPart p g).parts = sput {} s.parts p (g (s.part p)) := rfl
@[simp] theorem State.modVf_vfs (v : Nat) (g : Vf → Vf) : (s.modVf v g).vfs = sput {} s.vfs v (g (s.vf v)) := rfl
@[simp] theorem State.modHead_heads (h : Nat) (g : Head → Head) : (s.modHead h g).heads = sput {} s.heads h (g (s.head h)) := rfl
@[simp] theorem State.modPort_ports (p : Nat) (g : Port → Port) : (s.modPort p g).ports = sput {} s.ports p (g (s.port p)) := rfl
@[simp] theorem State.modPkg_pkg (g : Package → Package) : (s.modPkg g).pkg = g s.pkg := rfl
@[simp] theorem State.setBytes_mem (a : Nat) (l : List Byte) : (s.setBytes a l).mem = sputs 0 s.mem a l := rfl

end Sys2Proof.Machine
end

