-- ==== Sys2Proof/Laws/Read.lean ====
section
/-!
SUPPORT. Reading one unit, warp or byte after a write of it. A table of units need not be in canonical form for a read of
a value that differs from the table's default.
-/

namespace Sys2Proof.Machine

open Sys2Proof

variable {α : Type} {d : α} [DecidableEq α]

/-! ### Any table -/

/-- A value that is not the default reads back, whatever the table. -/
theorem sget_sput_put {v : α} (h : v ≠ d) (m : SMap α) (k : Nat) : sget d (sput d m k v) k = v := by
  induction m with
  | nil => simp [sput, sget, h]
  | cons p m ih =>
    obtain ⟨a, w⟩ := p
    by_cases h1 : k < a
    · simp [sput, sget, h1, h]
    · by_cases h2 : k = a
      · simp [sput, sget, h2, h]
      · simp [sput, sget, h1, h2, ih]

/-- A write of a value that is not the default leaves every other key as it was, whatever the table. -/
theorem sget_sput_keep {v : α} (h : v ≠ d) (m : SMap α) {j k : Nat} (hj : j ≠ k) :
    sget d (sput d m k v) j = sget d m j := by
  induction m with
  | nil => simp [sput, sget, h, hj]
  | cons p m ih =>
    obtain ⟨a, w⟩ := p
    by_cases h1 : k < a
    · by_cases h3 : j < k
      · simp [sput, sget, h1, h, hj, h3, show j ≠ a by omega, show j < a by omega]
      · simp [sput, sget, h1, h, hj, h3]
    · by_cases h2 : k = a
      · subst h2
        simp [sput, sget, h, hj]
      · simp [sput, sget, h1, h2, ih]

/-! ### Warps and cores that are not empty -/

theorem warp_ne_empty {w : Warp} (h : w.paths ≠ []) : w ≠ {} := fun e => h (e ▸ rfl)

theorem core_ne_empty {k : Core} {n : Nat} (h : k.warp n ≠ {}) : k ≠ {} := fun e => h (e ▸ rfl)

/-- A core reads back as it was put. -/
theorem core_setCore (s : State) (c : Nat) {k : Core} (h : k ≠ {}) : (s.setCore c k).core c = k := sget_sput_put h _ _

theorem core_setCore_other (s : State) {b c : Nat} (hb : b ≠ c) {k : Core} (h : k ≠ {}) : (s.setCore c k).core b = s.core b :=
  sget_sput_keep h _ hb

theorem warp_setWarp_core (k : Core) (n : Nat) {w : Warp} (h : w ≠ {}) : (k.setWarp n w).warp n = w := sget_sput_put h _ _

theorem warp_setWarp_core_other (k : Core) {m n : Nat} (hm : m ≠ n) {w : Warp} (h : w ≠ {}) :
    (k.setWarp n w).warp m = k.warp m := sget_sput_keep h _ hm

theorem setWarp_ne_empty (k : Core) (n : Nat) {w : Warp} (h : w ≠ {}) : k.setWarp n w ≠ {} :=
  core_ne_empty (n := n) (by rw [warp_setWarp_core k n h]; exact h)

/-- The core of a warp that was put. -/
theorem core_setWarp (s : State) (c n : Nat) {w : Warp} (h : w ≠ {}) :
    (s.setWarp c n w).core c = (s.core c).setWarp n w := core_setCore s c (setWarp_ne_empty _ n h)

theorem core_setWarp_other (s : State) {b c : Nat} (hb : b ≠ c) (n : Nat) {w : Warp} (h : w ≠ {}) :
    (s.setWarp c n w).core b = s.core b := core_setCore_other s hb (setWarp_ne_empty _ n h)

/-- A warp that is not empty reads back as it was put. -/
theorem warp_setWarp (s : State) (c n : Nat) {w : Warp} (h : w ≠ {}) : (s.setWarp c n w).warp c n = w := by
  rw [State.warp, core_setWarp s c n h, warp_setWarp_core _ n h]

theorem warp_setWarp_other (s : State) {b c m n : Nat} (hb : b ≠ c ∨ m ≠ n) {w : Warp} (h : w ≠ {}) :
    (s.setWarp c n w).warp b m = s.warp b m := by
  by_cases e : b = c
  · subst e
    rw [State.warp, core_setWarp s b n h, warp_setWarp_core_other _ (hb.resolve_left fun k => k rfl) h]
    rfl
  · rw [State.warp, core_setWarp_other s e n h]
    rfl

theorem warp_modWarp (s : State) (c n : Nat) {g : Warp → Warp} (h : g (s.warp c n) ≠ {}) :
    (s.modWarp c n g).warp c n = g (s.warp c n) := warp_setWarp s c n h

theorem warp_modWarp_other (s : State) {b c m n : Nat} (hb : b ≠ c ∨ m ≠ n) {g : Warp → Warp}
    (h : g (s.warp c n) ≠ {}) : (s.modWarp c n g).warp b m = s.warp b m := warp_setWarp_other s hb h

/-! ### Runs of changes to one warp -/

/-- `u` is `s` after changes to one warp, which is now `w`: every other warp, every core's clock and everything outside the cores
stand, but for the fields of State that `rest` lets differ. -/
structure WarpAt (s u : State) (c n : Nat) (w : Warp) : Prop where
  warp : u.warp c n = w
  full : w.paths ≠ []
  other : ∀ b m, (b ≠ c ∨ m ≠ n) → u.warp b m = s.warp b m
  vc : ∀ b, (u.core b).vc = (s.core b).vc ∧ (u.core b).at_ = (s.core b).at_
  rest : u = { s with cores := u.cores, teams := u.teams, ports := u.ports, cur := u.cur }

theorem WarpAt.refl {s : State} {c n : Nat} (h : (s.warp c n).paths ≠ []) : WarpAt s s c n (s.warp c n) :=
  ⟨rfl, h, fun _ _ _ => rfl, fun _ => ⟨rfl, rfl⟩, rfl⟩

/-- One more change of the warp. -/
theorem WarpAt.mod {s u : State} {c n : Nat} {w : Warp} (h : WarpAt s u c n w) {g : Warp → Warp} (hg : (g w).paths ≠ []) :
    WarpAt s (u.modWarp c n g) c n (g w) := by
  have e : g (u.warp c n) ≠ {} := by rw [h.warp]; exact warp_ne_empty hg
  refine ⟨by rw [warp_modWarp u c n e, h.warp], hg, fun b m hb => by rw [warp_modWarp_other u hb e, h.other b m hb], fun b => ?_, ?_⟩
  · unfold State.modWarp
    by_cases hb : b = c
    · subst hb; rw [core_setWarp u b n e]; exact h.vc b
    · rw [core_setWarp_other u hb n e]; exact h.vc b
  · exact congrArg (fun x : State => { x with cores := (u.modWarp c n g).cores }) h.rest

/-- A change outside the cores that `rest` allows. -/
theorem WarpAt.keep {s u v : State} {c n : Nat} {w : Warp} (h : WarpAt s u c n w)
    (hv : v = { u with teams := v.teams, ports := v.ports, cur := v.cur }) : WarpAt s v c n w := by
  have hc : v.cores = u.cores := (congrArg State.cores hv).trans rfl
  have hk : ∀ b, v.core b = u.core b := fun b => by unfold State.core; rw [hc]
  have hw : ∀ b m, v.warp b m = u.warp b m := fun b m => by unfold State.warp; rw [hk]
  refine ⟨(hw c n).trans h.warp, h.full, fun b m hb => (hw b m).trans (h.other b m hb), fun b => by rw [hk]; exact h.vc b, ?_⟩
  rw [hv]
  exact congrArg (fun x : State => { x with teams := v.teams, ports := v.ports, cur := v.cur }) h.rest

theorem modPath_paths_ne {w : Warp} (h : w.paths ≠ []) (i : Nat) (g : Path → Path) : (w.modPath i g).paths ≠ [] := by
  cases hp : w.paths with
  | nil => exact absurd hp h
  | cons a l => simp [Warp.modPath, modWhere, hp]

/-! ### Memory (R12, R225) -/

/-- A byte read after a write: what was written there, else what stood there. -/
theorem byte_setBytes (s : State) (h : Memory.wf s.mem) (a : Nat) (l : List Byte) (b : Nat) :
    (s.setBytes a l).byte b = if a ≤ b then l.getD (b - a) (s.byte b) else s.byte b := sget_sputs h a l b

/-- A write keeps memory's canonical form. -/
theorem wf_setBytes (s : State) (h : Memory.wf s.mem) (a : Nat) (l : List Byte) : Memory.wf (s.setBytes a l).mem :=
  swf_sputs h a l

/-- A write of a number keeps memory's canonical form. -/
theorem wf_setNum (s : State) (h : Memory.wf s.mem) (a n v : Nat) : Memory.wf (s.setNum a n v).mem := wf_setBytes s h a _

/-- Clearing keeps memory's canonical form. -/
theorem wf_clear {m : SMap Byte} (h : Memory.wf m) (keep : Nat → Bool) : Memory.wf (sfilter keep m) := swf_sfilter h keep

/-- A read of as many bytes as were written gives them back. -/
theorem bytes_setBytes (s : State) (h : Memory.wf s.mem) (a : Nat) (l : List Byte) :
    (s.setBytes a l).bytes a l.length = l := by
  have key : ∀ (n : Nat) (r : List Byte) (k : Nat), r.length = n → (∀ i, (hi : i < r.length) → (s.setBytes a l).byte (k + i) = r[i]) →
      sgets 0 (s.setBytes a l).mem k n = r := by
    intro n
    induction n with
    | zero => intro r k hr _; cases r with
      | nil => rfl
      | cons => cases hr
    | succ n ih =>
      intro r k hr hb
      cases r with
      | nil => cases hr
      | cons x r =>
        rw [sgets, ih r (k + 1) (Nat.succ.inj hr) (fun i hi => by have := hb (i + 1) (Nat.succ_lt_succ hi); simpa [Nat.add_assoc, Nat.add_comm 1] using this)]
        have := hb 0 (by simp)
        exact congrArg (· :: r) (show (s.setBytes a l).byte k = x by simpa using this)
  refine key l.length l a rfl fun i hi => ?_
  rw [byte_setBytes s h, if_pos (Nat.le_add_right a i)]
  simp [List.getD, hi]

end Sys2Proof.Machine
end

