-- ==== Sys2Proof/Laws/Run.lean ====
section
/-!
SUPPORT. What an issue attempt can answer: its own effect, a trap, or a stall.
-/

namespace Sys2Proof.Machine

open Sys2Proof

/-- An attempt that succeeds takes effect. -/
theorem run_ok {s : State} {c : Ctx} (h : Issuing s c) {f : Ctx → Try State} {t : State} (hf : f c = .ok t) :
    s.run f = c.done t := by
  simp [State.run, h.ctx, h.free, hf, h.power, Ctx.done]

/-- An attempt that stalls leaves what it set in motion and the cause. -/
theorem run_stall {s : State} {c : Ctx} (hc : s.ctx = some c) (hb : c.blocked = false) {f : Ctx → Try State} {k : Cause}
    {t : State} (hf : f c = .error (.stall k t)) : s.run f = .next (t.stalled c k) := by
  simp [State.run, hc, hb, hf]

/-- An attempt that traps takes the trap. -/
theorem run_trap {s : State} {c : Ctx} (hc : s.ctx = some c) (hb : c.blocked = false) {f : Ctx → Try State}
    {cause : Nat} {info : Word} {m : Option Mask} {fl : List (Nat × Word × Word)}
    (hf : f c = .error (.trap cause info m fl)) : s.run f = .next (s.takeTrap c cause info m fl) := by
  simp [State.run, hc, hb, hf]

/-- Everything an attempt can answer. -/
theorem run_cases (s : State) (f : Ctx → Try State) :
    (s.ctx = none ∧ s.run f = .next s) ∨
    ∃ c, s.ctx = some c ∧
      ((c.blocked = true ∧ s.run f = .next (s.stalled c (stallCause (f c)))) ∨
       (c.blocked = false ∧
        ((∃ k t, f c = .error (.stall k t) ∧ s.run f = .next (t.stalled c k)) ∨
         (∃ cause info m fl, f c = .error (.trap cause info m fl) ∧ s.run f = .next (s.takeTrap c cause info m fl)) ∨
         (∃ t, f c = .ok t ∧ s.powerOk c = true ∧ s.run f = c.done t) ∨
         (∃ t, f c = .ok t ∧ s.powerOk c = false ∧ s.run f = .next (s.heldBack c))))) := by
  cases hc : s.ctx with
  | none => exact .inl ⟨rfl, by simp [State.run, hc]⟩
  | some c =>
    refine .inr ⟨c, rfl, ?_⟩
    cases hb : c.blocked with
    | true => exact .inl ⟨rfl, by simp [State.run, hc, hb]⟩
    | false =>
      refine .inr ⟨rfl, ?_⟩
      cases hf : f c with
      | error e =>
        cases e with
        | stall k t => exact .inl ⟨k, t, rfl, run_stall hc hb hf⟩
        | trap cause info m fl => exact .inr (.inl ⟨cause, info, m, fl, rfl, run_trap hc hb hf⟩)
      | ok t =>
        cases hp : s.powerOk c with
        | true => exact .inr (.inr (.inl ⟨t, rfl, rfl, run_ok ⟨hc, hb, hp⟩ hf⟩))
        | false => exact .inr (.inr (.inr ⟨t, rfl, rfl, by simp [State.run, hc, hb, hf, hp]⟩))

/-- An attempt always answers a next state: neither a fault nor a refusal. -/
theorem run_next (s : State) (f : Ctx → Try State) : ∃ t, s.run f = .next t := by
  rcases run_cases s f with ⟨_, h⟩ | ⟨c, _, ⟨_, h⟩ | ⟨_, ⟨_, _, _, h⟩ | ⟨_, _, _, _, _, h⟩ | ⟨_, _, _, h⟩ | ⟨_, _, _, h⟩⟩⟩ <;>
    exact ⟨_, h⟩

/-- A scalar instruction of the shape of row 0x1 gives its result. -/
theorem scalarOp_ready {s : State} {c : Ctx} {u : State} {g : BitVec 5} {ops : List Opnd} {d : BitVec 8}
    (h : Ready s c none (ops ++ [.xd d]) u) (lat : Nat) (v : Ctx → Word) :
    scalarOp s g ops lat d v = c.done (c.scalar u g lat d (v c)) :=
  run_ok h.toIssuing (by simp [h.operands, bind, Except.bind, Ctx.scalar])

/-- A scalar instruction with an effect of its own takes it where its guard holds. -/
theorem scalarDo_ready {s : State} {c : Ctx} {u : State} {g : BitVec 5} {ops : List Opnd}
    (h : Ready s c none ops u) {f : Ctx → State → Try State} {t : State} (hf : c.on g = true → f c u = .ok t) :
    scalarDo s g ops f = c.done ((if c.on g then t else u).advance c) := by
  refine run_ok h.toIssuing ?_
  cases hg : c.on g <;> simp [h.operands, bind, Except.bind, hg, hf]

/-- A lane instruction of one result register gives its results. -/
theorem laneOp_ready {s : State} {c : Ctx} {u : State} {g : BitVec 5} {ops : List Opnd} {d : BitVec 8}
    (h : Ready s c (some (c.guard g)) (ops ++ [.vd d 1]) u) (lat : Nat) (v : Ctx → Nat → Lane) :
    laneOp s g ops lat d v = c.done (c.lanes u (c.guard g) lat d (v c)) :=
  run_ok h.toIssuing (by simp [h.operands, bind, Except.bind, Ctx.lanes])

/-- A predicate instruction gives its result in the guarded active lanes. -/
theorem predOp_ready {s : State} {c : Ctx} {u : State} {g : BitVec 5} {ops : List Opnd} {vec : Bool}
    (h : Ready s c (if vec then some (c.guard g) else none) ops u) (lat : Nat) (d : BitVec 8) (v : Ctx → Mask) :
    predOp s g ops vec lat d v = c.done (c.pred u (c.guard g) lat d (v c)) :=
  run_ok h.toIssuing (by simp [h.operands, bind, Except.bind, Ctx.pred])

/-- A system instruction has its effect where its guard holds, and otherwise only advances the path. -/
theorem sysDo_ready {s u : State} {c : Ctx} {lv : Level} {g : BitVec 5} {ops : List Opnd} (h : ReadyAt s c lv ops u)
    {f : Ctx → State → Try State} :
    (c.on g = false → sysDo s lv g ops f = c.done (u.advance c)) ∧
    (∀ t, c.on g = true → f c u = .ok t → sysDo s lv g ops f = c.done t) := by
  have hn : c.needs lv = .ok () := if_neg (Nat.not_lt.2 h.level)
  refine ⟨fun hg => run_ok h.toIssuing ?_, fun t hg ht => run_ok h.toIssuing ?_⟩
  · simp only [hn, h.operands, bind, Except.bind, hg, Bool.false_eq_true, if_false]
  · simp only [hn, h.operands, bind, Except.bind, hg, if_true, ht]

/-- A flag with room counts the command. -/
theorem flagInc_ok {c : Ctx} {s : State} {f : Nat} (h : c.flagRoom s f = true) : c.flagInc s f = .ok (c.flagged s f) := by
  unfold Ctx.flagRoom at h
  unfold Ctx.flagInc Ctx.flagged
  by_cases hf : f = 15
  · simp [hf]
  · have h2 : ¬ 63 ≤ (s.warp c.core c.slot).fr f := by simpa [hf] using h
    simp only [hf, h2, if_false]
    rfl

end Sys2Proof.Machine
end

