-- ==== Sys2Proof/Laws/Step.lean ====
section
/-!
SUPPORT. One step: the chosen path's attempt up to its instruction.
-/

namespace Sys2Proof.Machine

open Sys2Proof

/-- With nothing else pending a step tries the first chosen path. -/
theorem step_chosen {s : State} (hp : s.pkg.powered = true) (ha : s.agenda = []) (ht : s.turns = []) {t : Turn} {r : List Turn}
    (hc : s.chosen = t :: r) : step s = (match ({ s with chosen := r } : State).prepare t.core t.slot t.path with
          | .none k u => .next (u.noteStall t k)
          | .trap u c cause info fl => .next (u.takeTrap c cause info none fl)
          | .go i u => exec i u) := by
  unfold step State.cycle
  rw [if_neg (by simp [hp])]
  simp only [ha, ht, hc] <;> rfl

/-- With no autonomous step pending a step tries the first path in turn. -/
theorem step_turn {s : State} (hp : s.pkg.powered = true) (ha : s.agenda = []) {t : Turn} {r : List Turn} (ht : s.turns = t :: r) :
    step s = (match ({ s with turns := r } : State).prepare t.core t.slot t.path with
          | .none k u => .next (u.noteStall t k)
          | .trap u _ _ _ _ => .next (u.candidate t)
          | .go i u => match exec i u with
            | .next v => .next (u.noteTrial t v)
            | .fault e => .fault e
            | .refused e => .refused e) := by
  unfold step State.cycle
  rw [if_neg (by simp [hp])]
  simp only [ha, ht] <;> rfl

/-- The path may try its word: `prepare` up to the block. -/
theorem prepare_block {v : State} {c sl pt : Nat} {p : Path} (h1 : ((v.core c).warp sl).path pt = some p)
    (h2 : ((v.core c).warp sl).live = true) (h3 : ((v.core c).warp sl).admitted = true)
    (h4 : ((v.core c).warp sl).stopped = false ∨ p.handler = true) (h5 : p.wait = .none)
    (h6 : ((v.core c).warp sl).holdUntil ≤ (v.core c).vc) (h7 : p.ready ≤ (v.core c).vc) (h8 : p.pc.toNat < p.csize)
    {q : Path} {bytes : List Byte}
    (hq : ((v.enterBlock c sl pt (blockBase p.pc).toNat (decide (p.ready = 0))).warp c sl).path pt = some q)
    (hb : q.buf.find? (fun b => b.1 == (blockBase p.pc).toNat) = some ((blockBase p.pc).toNat, .ready bytes)) :
    v.prepare c sl pt =
      (let u := v.enterBlock c sl pt (blockBase p.pc).toNat (decide (p.ready = 0))
       let bs := bytes.drop (8 * (p.pc.toNat % 64 / 8))
       let word := wordOfBytes bs
       if !gapMet (v.core c).vc p.lastIssue (ctlOf word).gap then .none .gap u
       else if !waitMet ((v.core c).warp sl).fprev (ctlOf word).wait then .none .waitf u
       else match decode (isSvc c) (p.pc.toNat % 64 / 8) bs with
         | .error (.illegal r pos) => .trap u { core := c, slot := sl, k := v.core c, w := (v.core c).warp sl, p := p, word := word, size := 1 } 0x01 (illegalInfo r pos) []
         | .error .truncated => .none .iblk u
         | .ok (_, i, rest) => .go i { u with cur := { core := c, slot := sl, path := pt, word := word, size := (bs.length - rest.length) / 8, res := none } }) := by
  have h4' : (((v.core c).warp sl).stopped && !p.handler) = false := by rcases h4 with h | h <;> simp [h]
  unfold State.prepare
  simp only [h1, h2, h3, h5, Bool.not_true, Bool.or_self, Bool.false_eq_true, if_false, h4', ne_eq, not_true_eq_false, decide_false,
    decide_eq_false (Nat.not_lt.2 h6), if_neg (Nat.not_lt.2 h7), if_neg (Nat.not_le.2 h8)]
  rw [hq]
  simp only [hb] <;> rfl

end Sys2Proof.Machine
end

