-- ==== Sys2Proof/Tests/Slice0.lean ====
section
/-!
SUPPORT. Tests: the checks of an instruction word against ill-formed terms, the spec's worked words, one step on small states, and for
each statement with hypotheses a state that meets them (`witness_<statement>`).
-/

namespace Sys2Proof.Tests

open Sys2Proof Sys2Proof.Machine

set_option maxRecDepth 20000

/-! ### Small states -/

/-- Path 0 of warp slot 0 of core 0 stands before the word `w`. -/
def before (w : Nat) : State :=
  match ({ State.reset.withFetchWord 64 w with chosen := [] } : State).prepare 0 0 0 with
  | .go _ u => u
  | _ => State.reset

/-- ... before a word of zeros. -/
def s0 : State := before 0

/-- `s0` with another warp, path, team, launch, core or partition. -/
def sw (f : Warp → Warp) : State := s0.modWarp 0 0 f
def sp (f : Path → Path) : State := s0.modPath 0 0 0 f
def st (f : Team → Team) : State := s0.modTeam 1 0 f
def sk (f : Core → Core) : State := s0.modCore 0 f

/-- The context of a state that has one. -/
def ctxOf (s : State) : Ctx :=
  match s.ctx with
  | some c => c
  | none => { core := 0, slot := 0, k := {}, w := {}, p := { id := 0, mask := 0 }, word := 0, size := 1 }

def issueB (s : State) : Bool := s.ctx.isSome && !(ctxOf s).blocked && s.powerOk (ctxOf s)

def okB {α : Type} (r : Try α) : Bool := match r with | .ok _ => true | .error _ => false

def okOf (s : State) (r : Try State) : State := match r with | .ok u => u | .error _ => s

theorem ctx_of {s : State} (h : s.ctx.isSome = true) : s.ctx = some (ctxOf s) := by
  unfold ctxOf; cases hc : s.ctx with
  | some c => rfl
  | none => rw [hc] at h; cases h

theorem ok_of {s : State} {r : Try State} (h : okB r = true) : r = .ok (okOf s r) := by
  cases r with
  | ok u => rfl
  | error e => cases h

theorem issuing {s : State} (h : issueB s = true) : Issuing s (ctxOf s) := by
  simp only [issueB, Bool.and_eq_true, Bool.not_eq_true'] at h
  exact ⟨ctx_of h.1.1, h.1.2, h.2⟩

theorem ready {s : State} {m : Option Mask} {ops : List Opnd} (h : (issueB s && okB ((ctxOf s).begin s m ops)) = true) :
    Ready s (ctxOf s) m ops (okOf s ((ctxOf s).begin s m ops)) := by
  rw [Bool.and_eq_true] at h
  exact ⟨issuing h.1, ok_of h.2⟩

/-- ... where no register-file error is marked, so that taking the operands changes nothing. -/
theorem ready_self {s : State} {m : Option Mask} {ops : List Opnd}
    (h : (issueB s && okB ((ctxOf s).feCheck s m ops) && (ctxOf s).w.sound) = true) : Ready s (ctxOf s) m ops s := by
  simp only [Bool.and_eq_true] at h
  refine ⟨issuing h.1.1, ?_⟩
  have e := h.1.2
  unfold Ctx.begin
  cases hf : (ctxOf s).feCheck s m ops with
  | ok u => simp only [h.2, if_true]
  | error e' => rw [hf] at e; cases e

theorem ready_at {s : State} {lv : Level} {ops : List Opnd}
    (h : (issueB s && okB ((ctxOf s).begin s none ops) && decide (lv.rank ≤ (ctxOf s).p.level.rank)) = true) :
    ReadyAt s (ctxOf s) lv ops (okOf s ((ctxOf s).begin s none ops)) := by
  rw [Bool.and_eq_true, decide_eq_true_eq] at h
  exact ⟨ready h.1, h.2⟩

theorem ready_from {s : State} {m : Option Mask} {used : Mask} {ops : List Opnd}
    (h : (issueB s && okB ((ctxOf s).beginFrom s m used ops)) = true) :
    ReadyFrom s (ctxOf s) m used ops (okOf s ((ctxOf s).beginFrom s m used ops)) := by
  rw [Bool.and_eq_true] at h
  exact ⟨issuing h.1, ok_of h.2⟩

theorem some_of {α : Type} {o : Option α} {P : α → Prop} [DecidablePred P] (h : o.any (fun x => decide (P x)) = true) :
    ∃ x, o = some x ∧ P x := by
  cases o with
  | none => cases h
  | some x => exact ⟨x, rfl, of_decide_eq_true h⟩

def fa (d s1 s2 s3 : BitVec 8) (md : BitVec 3) (g : BitVec 5 := 0) : FmtA := { d := d, s1 := s1, s2 := s2, s3 := s3, md := md, g := g }
def fi (d s1 : BitVec 8) (imm : BitVec 19) (g : BitVec 5 := 0) : FmtI := { d := d, s1 := s1, imm := imm, g := g }

/-- An autonomous step at these places. -/
def at_ (s : State) (a : Nat) (b c : Nat := 0) (w : Word := 0) : State := { s with ev := { s.ev with a := a, b := b, c := c, w := w } }


/-! ### Ill-formed terms, one for each reason of R41 -/

theorem test_wf_add : wf (.add (fa 9 4 5 0 0)) = true := by decide
/-- 02: `mulh` has three MODs (R107). -/
theorem test_ill_mod : legality (.mulh (fa 9 4 5 0 3)) = some (2, 5) := by decide
/-- 03: WID 6. -/
theorem test_ill_width : legality (.ld { t := 9, b := 4, dom := 0, scope := 0, ord := 0, wid := 6, off := 0, g := 0 }) = some (3, 13) := by decide
/-- 04: SCOPE 7 of an acquire load. -/
theorem test_ill_scope : legality (.ld { t := 9, b := 4, dom := 0, scope := 7, ord := 1, wid := 4, off := 0, g := 0 }) = some (4, 18) := by decide
/-- 05: scalar register 64, in S2 and in D; the lower field is reported. -/
theorem test_ill_index : legality (.add (fa 64 4 64 0 0)) = some (5, 16) := by decide
/-- 06: FE in a destination. -/
theorem test_ill_fe : legality (.add (fa 0x89 4 5 0 0)) = some (6, 32) := by decide
/-- 07: S3 of `add`, and p0 as the destination of `cmp` (R115). -/
theorem test_ill_unused : legality (.add (fa 9 4 5 1 0)) = some (7, 8) ∧ legality (.cmp (fa 0 4 5 0 0)) = some (7, 32) := by decide
/-- 07: kind 3 of `shi`, and a bit of IMM[18:8] (R111). -/
theorem test_ill_shift : legality (.shi (fi 2 3 0xC0)) = some (7, 11) ∧ legality (.shi (fi 2 3 0x100)) = some (7, 13) := by decide
/-- 08: the guard 0b10000. -/
theorem test_ill_guard : legality (.nop (fa 0 0 0 0 0 16)) = some (8, 0) := by decide
/-- 0A: a release load. -/
theorem test_ill_order : legality (.ld { t := 9, b := 4, dom := 0, scope := 3, ord := 2, wid := 4, off := 0, g := 0 }) = some (10, 16) := by decide
/-- 0C: SIG 12. -/
theorem test_ill_sig : legality (.mzero (fa 5 0 0 12 0)) = some (12, 8) := by decide
/-- Of several reasons the lowest (R41): a reserved MOD and a set S3. -/
theorem test_ill_lowest : legality (.mulh (fa 9 4 5 1 3)) = some (2, 5) := by decide
/-- 01, 09 and 0B, which decoding finds: OP 0xFF, `lim` in slot 7, and `vadd` on a service core. -/
def reason (r : Except DecodeError (Ctl × Instr)) : Option (Nat × Nat) := match r with | .error (.illegal n p) => some (n, p) | _ => none
theorem test_ill_decode : reason (decodeWord false 0 0x0000FF0000000000 0) = some (1, 40) ∧ reason (decodeWord false 7 0x0000250900000000 0) = some (9, 40) ∧
    reason (decodeWord true 0 0x0000400904050000 0) = some (0x0B, 40) := by decide

/-! ### Words composed from the fields of R36 and the opcodes of R38 -/

def wordA_ (op d s1 s2 s3 md g : Nat) : Nat := op * 2 ^ 40 + d * 2 ^ 32 + s1 * 2 ^ 24 + s2 * 2 ^ 16 + s3 * 2 ^ 8 + md * 2 ^ 5 + g
def wordI_ (op d s1 imm g : Nat) : Nat := op * 2 ^ 40 + d * 2 ^ 32 + s1 * 2 ^ 24 + imm * 2 ^ 5 + g
def wordM_ (op t b dom scope ord wid off g : Nat) : Nat :=
  op * 2 ^ 40 + t * 2 ^ 32 + b * 2 ^ 24 + dom * 2 ^ 21 + scope * 2 ^ 18 + ord * 2 ^ 16 + wid * 2 ^ 13 + off * 2 ^ 5 + g
def wordN_ (op d b s dom scope ord aop g : Nat) : Nat :=
  op * 2 ^ 40 + d * 2 ^ 32 + b * 2 ^ 24 + s * 2 ^ 16 + dom * 2 ^ 13 + scope * 2 ^ 10 + ord * 2 ^ 8 + aop * 2 ^ 4 + g

theorem test_dec_control : decodeTableWord 64 (0x01 * 2 ^ 40 + (2 ^ 35 - 3) * 2 ^ 5) = some (.br { off := BitVec.ofInt 35 (-3), g := 0 }) ∧
    decodeTableWord 64 (wordA_ 0x0E 5 0 0 0 0 3) = some (.elect (fa 5 0 0 0 0 3)) := by decide
theorem test_dec_scalar : decodeTableWord 64 (wordA_ 0x13 7 8 9 0 1 0) = some (.mulh (fa 7 8 9 0 1)) ∧
    decodeTableWord 64 0x00002402030010E0 = some (.shi (fi 2 3 0x87)) := by decide
theorem test_dec_csr : decodeTableWord 64 0x00002A0900000040 = some (.csrr (fi 9 0 2)) := by decide
theorem test_dec_predicate : decodeTableWord 64 (wordA_ 0x30 1 2 3 0 1 0) = some (.pand (fa 1 2 3 0 1)) := by decide
theorem test_dec_lanes : decodeTableWord 64 0x0000400304050020 = some (.vadd (fa 3 4 5 0 1)) ∧
    decodeTableWord 64 (wordA_ 0x53 4 1 2 3 0 9) = some (.fma (fa 4 1 2 3 0 9)) := by decide
theorem test_dec_convert : decodeTableWord 64 0x0000600506100400 = some (.cvt (fa 5 6 0x10 4 0)) := by decide
theorem test_dec_move : decodeTableWord 64 (wordA_ 0x74 1 2 3 0 1 0) = some (.vperm (fa 1 2 3 0 1)) := by decide
theorem test_dec_tree : decodeTableWord 64 0x000077090C0000A0 = some (.red (fa 9 12 0 0 5)) := by decide
theorem test_dec_memory : decodeTableWord 64 (wordM_ 0x80 9 4 1 0 0 3 255 2) = some (.ld { t := 9, b := 4, dom := 1, scope := 0, ord := 0, wid := 3, off := 255, g := 2 }) := by decide
theorem test_dec_atomic : decodeTableWord 64 (wordN_ 0x90 5 9 6 1 3 1 9 0) = some (.atom { d := 5, b := 9, s := 6, dom := 1, scope := 3, ord := 1, aop := 9, g := 0 }) := by decide
theorem test_dec_matrix : decodeTableWord 64 0x0000A00500000000 = some (.mzero (fa 5 0 0 0 0)) := by decide
theorem test_dec_queue : decodeTableWord 64 0x0000C50014000000 = some (.cpy (fa 0 20 0 0 0)) := by decide
theorem test_dec_team : decodeTableWord 64 0x0000D50005000000 = some (.tleft (fa 0 5 0 0 0)) ∧ decodeTableWord 64 0x0000D40000004000 = some (.leaseMeas (fi 0 0 0x200)) := by decide
theorem test_dec_system : decodeTableWord 64 0x0000E00000000000 = some (.eret (fa 0 0 0 0 0)) ∧ decodeTableWord 64 0x0000E80004050000 = some (.wmset (fa 0 4 5 0 0)) := by decide
theorem test_dec_graphics : decodeTableWord 64 0x0000F60000000002 = some (.disc (fa 0 0 0 0 0 2)) := by decide
/-- The all-zero word is `nop` (R42). -/
theorem test_dec_nop : decodeTableWord 64 0 = some (.nop (fa 0 0 0 0 0)) := by decide

/-! ### One instruction on a small state -/

/-- What an instruction of the path leaves on its way to its warp (R95). -/
def sent (i : Instr) (s : State) : List Write := match exec i s with | .next t => (t.warp 0 0).land.map (fun e => e.w) | _ => []

/-- The warp's scalar and vector registers, and the lanes of its path. -/
def regs (x : SMap Word) (v : List (Nat × Nat × Lane)) (m : Mask) : State :=
  sw (fun w => v.foldl (fun w q => w.vw q.1 q.2.1 q.2.2) { w with x := x, paths := w.paths.map (fun p => { p with mask := m }) })

theorem test_add_wraps : sent (.add (fa 4 4 5 0 0)) (regs [(4, 2 ^ 64 - 1), (5, 3)] [] 1) = [.x 4 2] := by decide
theorem test_mulh : sent (.mulh (fa 9 4 5 0 0)) (regs [(4, 2 ^ 64 - 1), (5, 3)] [] 1) = [.x 9 (2 ^ 64 - 1)] ∧
    sent (.mulh (fa 9 4 5 0 1)) (regs [(4, 2 ^ 64 - 1), (5, 3)] [] 1) = [.x 9 2] := by decide
theorem test_sar_count : sent (.sar (fa 9 4 5 0 0)) (regs [(4, 2 ^ 63), (5, 127)] [] 1) = [.x 9 (2 ^ 64 - 1)] := by decide
/-- R108: −7 by 2 gives −3 and −1; 7 by 0 unsigned gives all ones and 7. -/
theorem test_div : ∀ q ∈ [(false, (0 : BitVec 3), (-7 : Int), (2 : Int), (-3 : Int)), (true, 0, -7, 2, -1), (false, 1, 7, 0, -1), (true, 1, 7, 0, 7)],
    sent (if q.1 then .rem (fa 9 4 5 0 q.2.1) else .div (fa 9 4 5 0 q.2.1)) (regs [(4, BitVec.ofInt 64 q.2.2.1), (5, BitVec.ofInt 64 q.2.2.2.1)] [] 1) =
      [.x 9 (BitVec.ofInt 64 q.2.2.2.2)] := by decide
theorem test_shi : sent (.shi (fi 2 3 0x87)) (regs [(3, 2 ^ 64 - 256)] [] 1) = [.x 2 (2 ^ 64 - 2)] := by decide
/-- R115: `cmpi.lt` and `cmpi.ltu` of 3 with −5. -/
theorem test_cmpi : sent (.cmpi (fi 3 4 0x2FFFB)) (regs [(4, 3)] [] 5) = [.p 3 5 0] ∧ sent (.cmpi (fi 3 4 0x4FFFB)) (regs [(4, 3)] [] 5) = [.p 3 5 (BitVec.allOnes 64)] := by decide
/-- x0 discards (R89); a false guard leaves D (R38). -/
theorem test_nothing_written : sent (.add (fa 0 4 5 0 0)) (regs [(4, 1)] [] 1) = [] ∧ sent (.add (fa 9 4 5 0 0 1)) (regs [(4, 1)] [] 1) = [] := by decide
theorem test_pget : sent (.pget (fa 9 2 0 0 0)) ((regs [] [] 0xF0).modWarp 0 0 (fun w => { w with p := [(2, 0x3C)] })) = [.x 9 0x30] := by decide
/-- R154: 0 + (−1) in lane 63. -/
theorem test_vaddi : sent (.vaddi (fi 2 2 0x7FFFF)) (regs [] [(2, 63, 0)] (laneBit 63)) = [.v 2 [(63, 0xFFFFFFFF)]] := by decide
/-- R161's worked example. -/
theorem test_vdot4_su : sent (.vdot4 (fa 9 1 2 3 2)) (regs [] [(1, 0, 0x806403FE), (2, 0, 0x0102140A), (3, 0, 5)] 1) = [.v 9 [(0, 0x75)]] := by decide
/-- R171's first example: 0x4B800001, with NX. -/
theorem test_red_fadd : (match exec (.red (fa 9 1 0 0 5)) (regs [] [(1, 0, 0x4B800000), (1, 1, 0x3F800000), (1, 2, 0x3F800000), (1, 3, 0x3F800000)] 15) with
    | .next t => (t.core 0).longs.map (fun o => o.kind)
    | _ => []) = [.done [.x 9 0x4B800001] 1] := by decide
/-- R171's second example, inclusive and exclusive. -/
theorem test_scan_add : ∀ q ∈ [((0 : BitVec 8), [3, 4, 8, 9, 14, 23, 25, 31]), (1, [0, 3, 4, 8, 9, 14, 23, 25])],
    (match exec (.scan (fa 9 1 0 q.1 0)) (regs [] [(1, 0, 3), (1, 1, 1), (1, 2, 4), (1, 3, 1), (1, 4, 5), (1, 5, 9), (1, 6, 2), (1, 7, 6)] 0xFF) with
      | .next t => (t.core 0).longs.map (fun o => o.kind)
      | _ => []) = [.done [.v 9 (q.2.zipIdx.map (fun r => (r.2, BitVec.ofNat 32 r.1)))] 0] := by decide
/-- R140's worked example: the seed 1 gives lane 0 no carry and lane 1 a carry. -/
theorem test_cvtsr : sent (.cvtsr (fa 9 1 0x20 0 0)) (regs [] [(1, 0, 0x3F80C000), (1, 1, 0x3F80C000)] 3) = [.fflags 1, .vn 9 1 [(0, 0x3F80), (1, 0x3F81)]] := by decide
/-- R164's worked example: q = 10.0, z = 8. -/
theorem test_vqnt : sent (.vqnt (fa 9 1 2 3 1)) (regs [] [(1, 0, 0x3FA66666), (1, 1, 0xC0000000), (1, 2, 0x41F00000), (2, 0, 0x41200000), (2, 1, 0x41200000),
    (2, 2, 0x41200000), (3, 0, 8), (3, 1, 8), (3, 2, 8)] 7) = [.v 9 [(0, 21), (1, 0), (2, 255)], .fflags 17] := by decide
/-- R246's worked example. -/
theorem test_codec : (zEncode (laneBytes ((List.range 64).map (fun i => BitVec.ofNat 32 (1000 + 3 * i))))).take 11 = [0x0E, 0x20, 0, 0, 0xE8, 3, 0, 0, 0xDB, 0xB6, 0x6D] := by decide
/-- R369's worked example: u = 0.6 gives 0.69921875. -/
theorem test_bilinear : bilinear 179 0 [0, 0x3F800000, 0, 0x3F800000] = 0x3F330000 := by decide
/-- R377's worked example of the levels, one tick: FILL 180 KiB at level 2 gives level 3. -/
theorem test_level : ({ dhwm := 0x400100, cnt1 := BitVec.ofNat 64 (2 * 2 ^ 32), fifo := List.replicate (180 * 1024) 0 } : Head).nextLevel = 3 := by
  unfold Head.nextLevel; rw [show ({ dhwm := 0x400100, cnt1 := BitVec.ofNat 64 (2 * 2 ^ 32), fifo := List.replicate (180 * 1024) 0 } : Head).fifo.length = 180 * 1024 from List.length_replicate]; decide
/-- R399's worked example of a notification. -/
theorem test_notification : ({ handle := 1, team := 0, batch := 2, widx := 0, sig := 3, epoch := 0, left := 0, status := 4, lane := 5 } : CallBatch).note = 0x0000050400000002 := by decide
/-- R187's worked example: planes 0 and 3 of row 6, under LIN and (plane 0) XOR-6. -/
theorem test_layout : let l := fun (mode : Nat) => layOf [BitVec.ofNat 64 (0x03004000 + mode * 2 ^ 20), 0x00100001, 64]
    (l 0).word 6 0 0 = 0x4030 ∧ (l 0).word 6 0 3 = 0x5830 ∧ (l 6).word 6 0 0 = 0x4130 := by decide
/-- R41: a word of no opcode traps with reason 01 at bit 40. -/
theorem test_illegal_traps : (match step (State.reset.withFetchWord 64 0x0000FF0000000000) with
    | .next t => ((t.warp 0 0).halt.map (fun h => (h.cause, h.info)), (t.warp 0 0).stopped)
    | _ => (none, false)) = (some (1, 0x2801), true) := by decide
/-- R43: the first step after reset with `add x9, x4, x5` at the program counter sends x4 + x5 to x9. -/
theorem test_first_step : (match step (State.reset.withFetchWord 64 0x0000100904050000) with
    | .next t => ((t.warp 0 0).land.map (fun e => e.w), ((t.warp 0 0).path 0).map (fun p => p.pc))
    | _ => ([], none)) = ([.x 9 0], some 8) := by decide

/-! ### The statements' hypotheses can be met -/
/-! ### States that meet the hypotheses of the statements -/

/-- Two scalar sources and a destination, for every MOD. -/
theorem witness_ScalarArithmeticResults (md : BitVec 3) :
    ∃ s u c, ∃ f : FmtA, Ready s c none [.xs f.s1 24 1, .xs f.s2 16 1, .xd f.d] u ∧ f.md = md :=
  ⟨s0, _, _, fa 9 4 5 0 md, ready (ops := [.xs 4 24 1, .xs 5 16 1, .xd 9]) (by decide), rfl⟩

/-- Each set of operands of the statement, for every immediate, so for each kind of `shi`. -/
theorem witness_ScalarImmediateAndMoveResults (imm : BitVec 19) :
    (∃ s u c, ∃ f : FmtI, Ready s c none [.xs f.s1 24 1, .xd f.d] u ∧ f.imm = imm) ∧
    (∃ s u c, ∃ f : FmtI, Ready s c none [.xd f.d] u) ∧
    (∃ s u c, ∃ f : FmtA, Ready s c none [.xs f.s1 24 1, .xs f.s2 16 1, .xd f.d] u) :=
  ⟨⟨s0, _, _, fi 9 4 imm, ready (ops := [.xs 4 24 1, .xd 9]) (by decide), rfl⟩,
   ⟨s0, _, _, fi 9 0 0, ready (by decide)⟩,
   ⟨s0, _, _, fa 9 4 5 0 3, ready (by decide)⟩⟩

theorem witness_BitCountResults (md : BitVec 3) :
    (∃ s u c, ∃ f : FmtA, Ready s c none [.xs f.s1 24 1, .xd f.d] u ∧ f.md = md) ∧
    (∃ s u c, ∃ f : FmtA, Ready s c none [.xd f.d] u) :=
  ⟨⟨s0, _, _, fa 9 4 0 0 md, ready (ops := [.xs 4 24 1, .xd 9]) (by decide), rfl⟩,
   ⟨s0, _, _, fa 9 1 0 0 0, ready (by decide)⟩⟩

/-- The guard off; a zero divisor; another divisor (the most negative number by −1), for both MODs. -/
theorem witness_DivisionResults :
    (∃ s u c, ∃ f : FmtA, Ready s c none [.xs f.s1 24 1, .xs f.s2 16 1, .xd f.d] u ∧ c.on f.g = false) ∧
    (∃ s u c, ∃ f : FmtA, Ready s c none [.xs f.s1 24 1, .xs f.s2 16 1, .xd f.d] u ∧ c.on f.g = true ∧
      sget 0 (u.core c.core).busy 0 ≤ c.vc ∧ c.xv f.s2 = 0) ∧
    (∀ md : BitVec 3, ∃ s u c, ∃ f : FmtA, Ready s c none [.xs f.s1 24 1, .xs f.s2 16 1, .xd f.d] u ∧ c.on f.g = true ∧
      sget 0 (u.core c.core).busy 0 ≤ c.vc ∧ c.xv f.s1 = 0x8000000000000000 ∧ c.xv f.s2 = -1 ∧ f.md = md) :=
  ⟨⟨s0, _, _, fa 9 4 5 0 0 1, ready (by decide), by decide⟩,
   ⟨s0, _, _, fa 9 4 5 0 0, ready (by decide), by decide, by decide, by decide⟩,
   fun md => ⟨sw (fun w => { w with x := [(4, 0x8000000000000000), (5, -1)] }), _, _, fa 9 4 5 0 md,
     ready (ops := [.xs 4 24 1, .xs 5 16 1, .xd 9]) (by decide), by decide +revert⟩⟩

theorem witness_PredicateResults (md : BitVec 3) (imm : BitVec 19) :
    (∃ s u c, ∃ f : FmtA, Ready s c none [.xs f.s1 24 1, .xs f.s2 16 1] u ∧ f.md = md) ∧
    (∃ s u c, ∃ f : FmtI, Ready s c none [.xs f.s1 24 1] u ∧ f.imm = imm) ∧
    (∃ s u c, ∃ f : FmtA, Ready s c (some (c.guard f.g)) [] u ∧ f.md = md) ∧
    (∃ s u c, ∃ f : FmtA, Ready s c (some (c.guard f.g)) [.vs f.s1 24 1 3, .vs f.s2 16 1 3] u ∧ f.md = md) ∧
    (∃ s c, Issuing s c) :=
  ⟨⟨s0, _, _, fa 1 4 5 0 md, ready (ops := [.xs 4 24 1, .xs 5 16 1]) (by decide), rfl⟩,
   ⟨s0, _, _, fi 1 4 imm, ready (ops := [.xs 4 24 1]) (by decide), rfl⟩,
   ⟨s0, _, _, fa 1 2 3 0 md, ready (m := some ((ctxOf s0).guard 0)) (by decide), rfl⟩,
   ⟨s0, _, _, fa 1 2 3 0 md, ready (m := some ((ctxOf s0).guard 0)) (ops := [.vs 2 24 1 3, .vs 3 16 1 3]) (by decide), rfl⟩,
   ⟨s0, _, issuing (by decide)⟩⟩

theorem witness_LaneIntegerResults (md : BitVec 3) (imm : BitVec 19) :
    (∃ s u c, ∃ f : FmtA, Ready s c (some (c.guard f.g)) [.vs f.s1 24 1 3, .vs f.s2 16 1 3, .vd f.d 1] u ∧ f.md = md) ∧
    (∃ s u c, ∃ f : FmtA, let m := c.guard f.g
      Issuing s c ∧ c.feCheck s (some m) [.vs f.s1 24 1 3, .vs f.s2 16 1 3, .vd f.d 1] = .ok () ∧
      (if c.w.sound then .ok s else c.poisonCheck s (some m) (m &&& c.pv f.s3) [.vs f.s1 24 1 3] >>=
        (fun t => c.poisonCheck t (some m) (m &&& ~~~c.pv f.s3) [.vs f.s2 16 1 3])) = .ok u) ∧
    (∃ s u c, ∃ f : FmtA, Ready s c (some (c.guard f.g)) [.vs f.s1 24 1 3, .vs f.s2 16 1 1, .vd f.d 1] u) ∧
    (∃ s u c, ∃ f : FmtA, Ready s c (some (c.guard f.g)) [.vs f.s1 24 1 3, .vs f.s2 16 1 3, .vs f.s3 8 1 3, .vd f.d 1] u ∧ f.md = md) ∧
    (∃ s u c, ∃ f : FmtA, Ready s c (some (c.guard f.g)) [.vs f.s1 24 1 3, .vd f.d 1] u ∧ f.md = md) ∧
    (∃ s u c, ∃ f : FmtI, Ready s c (some (c.guard f.g)) [.vs f.s1 24 1 3, .vd f.d 1] u ∧ f.imm = imm) :=
  let m := some ((ctxOf s0).guard 0)
  ⟨⟨s0, _, _, fa 1 2 3 4 md, ready (m := m) (ops := [.vs 2 24 1 3, .vs 3 16 1 3, .vd 1 1]) (by decide), rfl⟩,
   ⟨s0, s0, _, fa 1 2 3 1 0, issuing (by decide), by rfl, if_pos (by decide)⟩,
   ⟨s0, _, _, fa 1 2 3 0 0, ready (m := m) (ops := [.vs 2 24 1 3, .vs 3 16 1 1, .vd 1 1]) (by decide)⟩,
   ⟨s0, _, _, fa 1 2 3 4 md, ready (m := m) (ops := [.vs 2 24 1 3, .vs 3 16 1 3, .vs 4 8 1 3, .vd 1 1]) (by decide), rfl⟩,
   ⟨s0, _, _, fa 1 2 3 4 md, ready (m := m) (ops := [.vs 2 24 1 3, .vd 1 1]) (by decide), rfl⟩,
   ⟨s0, _, _, fi 1 2 imm, ready (m := m) (ops := [.vs 2 24 1 3, .vd 1 1]) (by decide), rfl⟩⟩

theorem witness_FloatLaneResults (md : BitVec 3) :
    (∃ s u c, ∃ f : FmtA, Ready s c (some (c.guard f.g)) [vsrc f.md.toNat f.s1 24, vsrc f.md.toNat f.s2 16, vdst f.md.toNat f.d] u ∧ f.md = md) ∧
    (∃ s u c, ∃ f : FmtA, Ready s c (some (c.guard f.g))
      [vsrc f.md.toNat f.s1 24, vsrc f.md.toNat f.s2 16, vsrc f.md.toNat f.s3 8, vdst f.md.toNat f.d] u ∧ f.md = md) ∧
    (∃ s u c, ∃ f : FmtA, Ready s c (some (c.guard f.g)) [vsrc f.md.toNat f.s1 24, vdst f.md.toNat f.d] u ∧ f.md = md) := by
  have h : ∀ md : BitVec 3, (issueB s0 && okB ((ctxOf s0).begin s0 (some ((ctxOf s0).guard 0))
        [vsrc md.toNat 4 24, vsrc md.toNat 6 16, vdst md.toNat 2])) = true ∧
      (issueB s0 && okB ((ctxOf s0).begin s0 (some ((ctxOf s0).guard 0))
        [vsrc md.toNat 4 24, vsrc md.toNat 6 16, vsrc md.toNat 8 8, vdst md.toNat 2])) = true ∧
      (issueB s0 && okB ((ctxOf s0).begin s0 (some ((ctxOf s0).guard 0)) [vsrc md.toNat 4 24, vdst md.toNat 2])) = true := by decide
  exact ⟨⟨s0, _, _, fa 2 4 6 8 md, ready (h md).1, rfl⟩, ⟨s0, _, _, fa 2 4 6 8 md, ready (h md).2.1, rfl⟩,
    ⟨s0, _, _, fa 2 4 6 8 md, ready (h md).2.2, rfl⟩⟩

theorem witness_DotClassAndCompareResults (md : BitVec 3) :
    (∃ s u c, ∃ f : FmtA, Ready s c (some (c.guard f.g)) [.vs f.s1 24 1 3, .vs f.s2 16 1 3, .vs f.s3 8 1 3, .vd f.d 1] u ∧ f.md = md) ∧
    (∃ s u c, ∃ f : FmtA, Ready s c (some (c.guard f.g)) [vsrc f.md.toNat f.s1 24, .vd f.d 1] u ∧ f.md = md) ∧
    (∀ n gr, (n, gr) ∈ [(1, 3), (1, 1), (2, 3), (1, 2)] → ∃ s u c, ∃ f : FmtA,
      Ready s c (some (c.guard f.g)) [.vs f.s1 24 n gr, .vs f.s2 16 n gr] u ∧ f.md = md) := by
  have h : ∀ md : BitVec 3, (issueB s0 && okB ((ctxOf s0).begin s0 (some ((ctxOf s0).guard 0)) [vsrc md.toNat 4 24, .vd 2 1])) = true := by
    decide
  have k : ∀ q ∈ [(1, 3), (1, 1), (2, 3), (1, 2)], (issueB s0 && okB ((ctxOf s0).begin s0 (some ((ctxOf s0).guard 0))
    [.vs 4 24 q.1 q.2, .vs 6 16 q.1 q.2])) = true := by decide
  exact ⟨⟨s0, _, _, fa 2 4 6 8 md, ready (m := some ((ctxOf s0).guard 0)) (ops := [.vs 4 24 1 3, .vs 6 16 1 3, .vs 8 8 1 3, .vd 2 1]) (by decide), rfl⟩,
    ⟨s0, _, _, fa 2 4 6 8 md, ready (h md), rfl⟩, fun n gr hq => ⟨s0, _, _, fa 2 4 6 8 md, ready (k (n, gr) hq), rfl⟩⟩

/-- No lane; then some lane with the units free. -/
theorem witness_LongFloatResults (md : BitVec 3) :
    (∃ s u c, ∃ f : FmtA, Ready s c (some (c.guard f.g)) [vsrc f.md.toNat f.s1 24, vsrc f.md.toNat f.s2 16, vdst f.md.toNat f.d] u ∧
      c.guard f.g = 0 ∧ f.md = md) ∧
    (∃ s u c, ∃ f : FmtA, Ready s c (some (c.guard f.g)) [vsrc f.md.toNat f.s1 24, vsrc f.md.toNat f.s2 16, vdst f.md.toNat f.d] u ∧
      c.guard f.g ≠ 0 ∧ (∀ unit < 6, sget 0 (u.core c.core).busy unit ≤ c.vc) ∧ f.md = md) ∧
    (∃ s u c, ∃ f : FmtA, Ready s c (some (c.guard f.g)) [vsrc f.md.toNat f.s1 24, vdst f.md.toNat f.d] u ∧
      c.guard f.g ≠ 0 ∧ (∀ unit < 6, sget 0 (u.core c.core).busy unit ≤ c.vc) ∧ f.md = md) := by
  have h : ∀ md : BitVec 3,
      (issueB s0 && okB ((ctxOf s0).begin s0 (some ((ctxOf s0).guard 1)) [vsrc md.toNat 4 24, vsrc md.toNat 6 16, vdst md.toNat 2])) = true ∧
      (issueB s0 && okB ((ctxOf s0).begin s0 (some ((ctxOf s0).guard 0)) [vsrc md.toNat 4 24, vsrc md.toNat 6 16, vdst md.toNat 2])) = true ∧
      (issueB s0 && okB ((ctxOf s0).begin s0 (some ((ctxOf s0).guard 0)) [vsrc md.toNat 4 24, vdst md.toNat 2])) = true := by decide
  exact ⟨⟨s0, _, _, fa 2 4 6 8 md 1, ready (h md).1, by decide +revert⟩,
    ⟨s0, _, _, fa 2 4 6 8 md, ready (h md).2.1, by decide +revert⟩,
    ⟨s0, _, _, fa 2 4 6 8 md, ready (h md).2.2, by decide +revert⟩⟩

/-- Every source and destination type: `t` is S2. -/
theorem witness_ConversionResults :
    (∀ sc < 14, ∀ dc < 16, ∃ s u c, ∃ f : FmtA, cvtSrc f = sc ∧ cvtDst f = dc ∧
      Ready s c (some (c.guard f.g)) ([.vs f.s1 24 (if sc = 3 then 2 else 1) (granules (cvtWidth sc) (f.s3.toNat % 4)),
        .vd f.d (if dc = 3 then 2 else 1)] ++ (if cvtWidth dc < 32 then [.vs f.d 32 1 0] else [])) u ∧ bits c.p.fmt 7 6 ≠ 2) ∧
    (∀ md : BitVec 3, ∃ s u c, ∃ f : FmtA, Ready s c (some (c.guard f.g)) [.vs f.s1 24 1 3, .vs f.s2 16 1 3, .vs f.s3 8 1 3, .vd f.d 1] u ∧
      f.md = md) ∧
    (∀ md : BitVec 3, ∃ s u c, ∃ f : FmtA, Ready s c (some (c.guard f.g)) [.vs f.s1 24 1 1, .vs f.s2 16 1 3, .vs f.s3 8 1 3, .vd f.d 1] u ∧
      f.md = md) ∧
    (∀ md : BitVec 3, ∃ s u c, ∃ f : FmtA, Ready s c (some (c.guard f.g))
      [.vs f.s1 24 1 (if f.md = 0 then 1 else 3), .vs f.s2 16 1 (if f.md = 0 then 1 else 3), .vd f.d 1] u ∧ f.md = md) ∧
    (∀ md : BitVec 3, ∃ s u c, ∃ f : FmtA, Ready s c (some (c.guard f.g))
      [.vs f.s1 24 1 (granules (if f.md.toNat ≤ 1 then 16 else if f.md.toNat ≤ 3 then 8 else 4) f.s3.toNat), .vd f.d 1] u ∧ f.md = md) := by
  let m := some ((ctxOf s0).guard 0)
  have h : ∀ sc < 14, ∀ dc < 16, (issueB s0 && okB ((ctxOf s0).begin s0 m ([.vs 4 24 (if sc = 3 then 2 else 1) (granules (cvtWidth sc) 1),
        .vd 2 (if dc = 3 then 2 else 1)] ++ (if cvtWidth dc < 32 then [.vs 2 32 1 0] else [])))) = true := by decide
  have k : ∀ md : BitVec 3,
      (issueB s0 && okB ((ctxOf s0).begin s0 m [.vs 4 24 1 (if md = 0 then 1 else 3), .vs 6 16 1 (if md = 0 then 1 else 3), .vd 2 1])) = true ∧
      (issueB s0 && okB ((ctxOf s0).begin s0 m [.vs 4 24 1 (granules (if md.toNat ≤ 1 then 16 else if md.toNat ≤ 3 then 8 else 4) 1), .vd 2 1])) = true := by
    decide
  have e : ∀ sc < 14, ∀ dc < 16, cvtSrc (fa 2 4 (BitVec.ofNat 8 (sc + 16 * dc)) 1 0) = sc ∧ cvtDst (fa 2 4 (BitVec.ofNat 8 (sc + 16 * dc)) 1 0) = dc := by
    decide
  exact ⟨fun sc hs dc hd => ⟨s0, _, _, fa 2 4 (BitVec.ofNat 8 (sc + 16 * dc)) 1 0, (e sc hs dc hd).1, (e sc hs dc hd).2, ready (h sc hs dc hd), by decide⟩,
    fun md => ⟨s0, _, _, fa 2 4 6 8 md, ready (m := m) (ops := [.vs 4 24 1 3, .vs 6 16 1 3, .vs 8 8 1 3, .vd 2 1]) (by decide), rfl⟩,
    fun md => ⟨s0, _, _, fa 2 4 6 8 md, ready (m := m) (ops := [.vs 4 24 1 1, .vs 6 16 1 3, .vs 8 8 1 3, .vd 2 1]) (by decide), rfl⟩,
    fun md => ⟨s0, _, _, fa 2 4 6 8 md, ready (k md).1, rfl⟩, fun md => ⟨s0, _, _, fa 2 4 6 1 md, ready (k md).2, rfl⟩⟩

theorem witness_LaneMoveResults (md : BitVec 3) (sh : BitVec 8) :
    (∃ s u c, ∃ f : FmtA, Ready s c (some (c.guard f.g)) [.vs f.s1 24 (if f.md = 1 then 2 else 1) 3, .vd f.d (if f.md = 1 then 2 else 1)] u ∧ f.md = md) ∧
    (∃ s u c, ∃ f : FmtA, Ready s c (some (c.guard f.g)) [.xs f.s1 24 1, .vd f.d (if f.md = 1 then 2 else 1)] u ∧ f.md = md) ∧
    (∃ s u c, ∃ f : FmtA, ReadyFrom s c none (if c.on f.g then laneBit ((c.xv f.s2).toNat % 64) else 0)
      [.vs f.s1 24 (if f.md = 2 then 2 else 1) 3, .xs f.s2 16 1, .xd f.d] u ∧ f.md = md) ∧
    (∃ s u c, ∃ f : FmtA, Ready s c (some (c.guard f.g)) [.xs f.s1 24 1, .xs f.s2 16 1, .vd f.d (if f.md = 1 then 2 else 1)] u ∧ f.md = md) ∧
    (∃ s u c, ∃ f : FmtA, ∃ used, ReadyMove s c (c.guard f.g) used f.s1 f.d [.vs f.s2 16 1 (if f.md = 1 then 3 else 1)] u ∧ used =
      maskOf ((lanesOf (c.guard f.g)).filterMap (fun l => if f.md = 1 ∧ (c.vv f.s2 l).getLsbD 31 = true then none else some ((c.vv f.s2 l).toNat % 64)))
      ∧ f.md = md) ∧
    (∀ src : Nat → Nat, ∃ s u c, ∃ f : FmtA, ReadyMove s c (c.guard f.g) (maskOf ((lanesOf (c.guard f.g)).map src)) f.s1 f.d [] u ∧
      f.md = md ∧ f.s3 = sh) ∧
    (∀ q ∈ [((0 : BitVec 3), 3), (1, 2), (2, 1)], ∃ s u c, ∃ f : FmtA, ReadyFrom s c none (c.guard f.g) [.vs f.s1 24 1 q.2, .xd f.d] u ∧ f.md = q.1) := by
  let m := some ((ctxOf s0).guard 0)
  have h : ∀ md : BitVec 3,
      (issueB s0 && okB ((ctxOf s0).begin s0 m [.vs 4 24 (if md = 1 then 2 else 1) 3, .vd 2 (if md = 1 then 2 else 1)])) = true ∧
      (issueB s0 && okB ((ctxOf s0).begin s0 m [.xs 4 24 1, .vd 2 (if md = 1 then 2 else 1)])) = true ∧
      (issueB s0 && okB ((ctxOf s0).beginFrom s0 none (laneBit 0) [.vs 4 24 (if md = 2 then 2 else 1) 3, .xs 5 16 1, .xd 2])) = true ∧
      (issueB s0 && okB ((ctxOf s0).begin s0 m [.xs 4 24 1, .xs 5 16 1, .vd 2 (if md = 1 then 2 else 1)])) = true := by decide
  have i : issueB s0 = true := by decide
  have e1 : ∀ gr, ((ctxOf s0).feCheck s0 m (.vs 4 24 1 3 :: .vd 2 1 :: [.vs 6 16 1 gr])) = .ok () := fun gr => by rfl
  have e2 : ((ctxOf s0).feCheck s0 m (.vs 4 24 1 3 :: .vd 2 1 :: [])) = .ok () := by rfl
  have z : (ctxOf s0).w.sound = true := by decide
  refine ⟨⟨s0, _, _, fa 2 4 6 8 md, ready (h md).1, rfl⟩, ⟨s0, _, _, fa 2 4 6 8 md, ready (h md).2.1, rfl⟩,
    ⟨s0, _, _, fa 2 4 5 8 md, ready_from (h md).2.2.1, rfl⟩, ⟨s0, _, _, fa 2 4 5 8 md, ready (h md).2.2.2, rfl⟩,
    ⟨s0, s0, _, fa 2 4 6 8 md, _, ⟨issuing i, e1 _, if_pos z⟩, rfl, rfl⟩, fun src => ⟨s0, s0, _, fa 2 4 6 sh md, ⟨issuing i, e2, if_pos z⟩, rfl, rfl⟩, fun q hq => ?_⟩
  simp only [List.mem_cons, List.not_mem_nil, or_false] at hq
  rcases hq with rfl | rfl | rfl
  · exact ⟨s0, _, _, fa 2 4 6 8 0, ready_from (used := (ctxOf s0).guard 0) (ops := [.vs 4 24 1 3, .xd 2]) (by decide), rfl⟩
  · exact ⟨s0, _, _, fa 2 4 6 8 1, ready_from (used := (ctxOf s0).guard 0) (ops := [.vs 4 24 1 2, .xd 2]) (by decide), rfl⟩
  · exact ⟨s0, _, _, fa 2 4 6 8 2, ready_from (used := (ctxOf s0).guard 0) (ops := [.vs 4 24 1 1, .xd 2]) (by decide), rfl⟩

/-- The unit free; then no lane in a `scan`; then some lane, into a register and into x0. -/
theorem witness_TreeResults :
    (∀ d ∈ [(0 : BitVec 8), 9], ∃ s u c, ∃ f : FmtA, ReadyFrom s c none (c.guard f.g) [.vs f.s1 24 1 3, .xd f.d] u ∧
      sget 0 (u.core c.core).busy 1 ≤ c.vc ∧ f.d = d) ∧
    (∃ s u c, ∃ f : FmtA, Ready s c (some (c.guard f.g)) [.vs f.s1 24 1 3, .vd f.d 1] u ∧ c.guard f.g = 0) ∧
    (∃ s u c, ∃ f : FmtA, Ready s c (some (c.guard f.g)) [.vs f.s1 24 1 3, .vd f.d 1] u ∧ c.guard f.g ≠ 0 ∧
      sget 0 (u.core c.core).busy 1 ≤ c.vc) := by
  refine ⟨fun d hd => ?_, ⟨s0, _, _, fa 2 4 0 0 0 1, ready (by decide), by decide⟩, ⟨s0, _, _, fa 2 4 0 0 0, ready (by decide), by decide⟩⟩
  simp only [List.mem_cons, List.not_mem_nil, or_false] at hd
  rcases hd with rfl | rfl
  · exact ⟨s0, _, _, fa 0 4 0 0 0, ready_from (by decide), by decide⟩
  · exact ⟨s0, _, _, fa 9 4 0 0 0, ready_from (by decide), by decide⟩

/-- A special register of the warp and `fmt` (CSR 0), the guard on and off. -/
theorem witness_SpecialRegisterResults :
    (∀ n ∈ [0, 2], ∀ g ∈ [(0 : BitVec 5), 1], ∃ s u c, ∃ f : FmtI, f.imm.toNat % 4096 = n ∧ f.g = g ∧ (c.csrUnit s n).isSome = true ∧
      c.on f.g = (g == 0) ∧ Ready s c none [.xs f.s1 24 1, .xd f.d] u ∧ (csrReadLevel n).rank ≤ c.p.level.rank ∧
      (csrWriteLevel n).rank ≤ c.p.level.rank ∧ fmtBad ((c.xv f.s1).setWidth 32) = false ∧
      fmtBad ((c.csrValue u n ((c.csrUnit s n).getD 0) ||| c.xv f.s1).setWidth 32) = false) ∧
    (∃ s u c, ∃ f : FmtI, Ready s c none [.xd f.d] u ∧ c.on f.g = true) ∧
    (∃ s u c, ∃ f : FmtI, Ready s c none [.xs f.s1 24 1] u ∧ c.on f.g = true) ∧
    (∀ g ∈ [(0 : BitVec 5), 1], ∃ s u c, ∃ f : FmtI, Ready s c none [] u ∧ c.on f.g = (g == 0)) ∧
    (∀ g ∈ [(0 : BitVec 5), 1], ∃ s u c, ∃ f : FmtA, Ready s c none [.xs f.s1 24 1] u ∧ c.on f.g = (g == 0) ∧
      fmtBad ((c.xv f.s1).setWidth 32) = false) ∧
    (∀ g ∈ [(0 : BitVec 5), 1], ∃ s u c, ∃ f : FmtA, Ready s c none [.xs f.s1 24 1, .xs f.s2 16 1] u ∧ c.on f.g = (g == 0) ∧
      fmtBad ((c.p.fmt &&& ~~~(c.xv f.s2).setWidth 32) ||| ((c.xv f.s1).setWidth 32 &&& (c.xv f.s2).setWidth 32)) = false) := by
  let s := sw (fun w => { w with x := [(4, 0x707000)] })
  refine ⟨fun n hn g hg => ?_, ⟨s, _, _, fi 9 0 0, ready (by decide), by decide⟩, ⟨s, _, _, fi 9 4 0, ready (by decide), by decide⟩,
    fun g hg => ?_, fun g hg => ?_, fun g hg => ?_⟩ <;> simp only [List.mem_cons, List.not_mem_nil, or_false] at hg
  · simp only [List.mem_cons, List.not_mem_nil, or_false] at hn
    rcases hn with rfl | rfl <;> rcases hg with rfl | rfl
    · exact ⟨s, _, _, fi 9 4 0 0, by decide, by decide, by decide, by decide, ready (by decide), by decide⟩
    · exact ⟨s, _, _, fi 9 4 0 1, by decide, by decide, by decide, by decide, ready (by decide), by decide⟩
    · exact ⟨s, _, _, fi 9 4 2 0, by decide, by decide, by decide, by decide, ready (by decide), by decide⟩
    · exact ⟨s, _, _, fi 9 4 2 1, by decide, by decide, by decide, by decide, ready (by decide), by decide⟩
  · rcases hg with rfl | rfl
    · exact ⟨s, _, _, fi 0 0 63 0, ready (by decide), by decide⟩
    · exact ⟨s, _, _, fi 0 0 63 1, ready (by decide), by decide⟩
  · rcases hg with rfl | rfl
    · exact ⟨s, _, _, fa 7 4 0 0 0 0, ready (by decide), by decide⟩
    · exact ⟨s, _, _, fa 7 4 0 0 0 1, ready (by decide), by decide⟩
  · rcases hg with rfl | rfl
    · exact ⟨s, _, _, fa 0 4 5 0 0 0, ready (by decide), by decide⟩
    · exact ⟨s, _, _, fa 0 4 5 0 0 1, ready (by decide), by decide⟩

/-- Taken to the last block of the module, and not taken; the target of each form. -/
theorem witness_ControlTransferResults :
    (∀ d ∈ [([] : List Opnd), [.xd 63]], ∃ s u, ∃ c : Ctx, ∃ f : FmtJ, Ready s c none d u ∧ c.guard f.g ≠ 0 ∧
      ((c.p.pc &&& ~~~(63 : Word)) + (f.off.signExtend 64 <<< 6)).toNat % 64 = 0 ∧ ((c.p.pc &&& ~~~(63 : Word)) + (f.off.signExtend 64 <<< 6)).toNat + 64 = c.p.csize) ∧
    (∀ d ∈ [([] : List Opnd), [.xd 63]], ∃ s u, ∃ c : Ctx, ∃ f : FmtJ, Ready s c none d u ∧ ¬ c.guard f.g ≠ 0 ∧
      ¬ ∀ l, c.p.mask.getLsbD l = true → (c.guard f.g).getLsbD l = true) ∧
    (∃ s u c, ∃ f : FmtA, Ready s c none [.xs f.s1 24 1] u ∧ c.guard f.g ≠ 0 ∧ ((c.p.pc &&& ~~~(63 : Word)) + c.xv f.s1).toNat % 64 = 0 ∧
      ((c.p.pc &&& ~~~(63 : Word)) + c.xv f.s1).toNat + 64 = c.p.csize ∧ (c.xv f.s1).toNat % 64 = 0 ∧ (c.xv f.s1).toNat + 64 = c.p.csize) ∧
    (∃ s u c, ∃ f : FmtA, Ready s c none [.xs f.s1 24 1] u ∧ ¬ c.guard f.g ≠ 0) := by
  let s := sw (fun w => { w with x := [(4, 0xFFFFFFFFC0)] })
  have h : ∀ f : FmtJ, f.g = 1 → ¬ ∀ l, (ctxOf s0).p.mask.getLsbD l = true → ((ctxOf s0).guard f.g).getLsbD l = true :=
    fun f hf k => absurd (k 0 (by decide)) (by rw [hf]; decide)
  refine ⟨fun d hd => ?_, fun d hd => ?_, ⟨s, _, _, fa 0 4 0 0 0, ready (by decide), by decide⟩,
    ⟨s, _, _, fa 0 4 0 0 0 1, ready (by decide), by decide⟩⟩ <;> simp only [List.mem_cons, List.not_mem_nil, or_false] at hd <;>
    rcases hd with rfl | rfl
  · exact ⟨s0, _, _, { off := 0x3FFFFFFFF, g := 0 }, ready (by decide), by decide⟩
  · exact ⟨s0, _, _, { off := 0x3FFFFFFFF, g := 0 }, ready (by decide), by decide⟩
  · exact ⟨s0, _, _, { off := 0, g := 1 }, ready (by decide), by decide, h _ rfl⟩
  · exact ⟨s0, _, _, { off := 0, g := 1 }, ready (by decide), by decide, h _ rfl⟩

/-- A split with one place left, to the last block of the module; a `rejoin` with and without its entry; `exit` of the last lane. -/
theorem witness_DivergenceResults :
    (∃ s, ∃ c : Ctx, Issuing s c ∧ c.w.stack.length = 63 ∧ c.guard 0 ≠ 0 ∧ ((c.p.pc &&& ~~~(63 : Word)) + ((0x3FFFFFFFF : BitVec 35).signExtend 64 <<< 6)).toNat + 64 = c.p.csize) ∧
    (∃ s, ∃ c : Ctx, Issuing s c ∧ c.w.stack.length = 63 ∧ c.guard 1 = 0) ∧
    (∃ s c, Issuing s c ∧ c.p.entry.bind (fun i => c.w.stack.find? (fun e => e.id == i)) = none) ∧
    (∃ s c, ∃ f : FmtI, Issuing s c ∧
      ∃ e, c.p.entry.bind (fun i => c.w.stack.find? (fun e => e.id == i)) = some e ∧ e.token = f.imm.toNat) ∧
    (∃ s c, Issuing s c ∧ (c.lastOf s (c.guard 0)).isSome = true ∧
      (∀ p ∈ s.ports, ∀ t ∈ p.2.txns, t.write = true → t.core = c.core → t.slot ∉ ((c.lastOf s (c.guard 0)).map (·.slots)).getD []) ∧
      (∀ sl ∈ ((c.lastOf s (c.guard 0)).map (·.slots)).getD [], s.linkError c.core sl = false)) := by
  let e : Entry := { id := 7, tmask := 1, nmask := 2, fmt := 0, rrb := 0, token := 49 }
  let s := sw (fun w => { w with stack := List.replicate 63 e })
  exact ⟨⟨s, _, issuing (by decide), by decide⟩, ⟨s, _, issuing (by decide), by decide⟩, ⟨s0, _, issuing (by decide), by decide⟩,
    ⟨sw (fun w => { w with stack := [e], paths := w.paths.map (fun p => { p with entry := some 7 }) }), _, fi 0 0 49, issuing (by decide), some_of (by decide)⟩,
    ⟨s0, _, issuing (by decide), by decide⟩⟩

/-- Each case of `loop` (the pair is LC, EC), taken to the last block of the module; the guard off. -/
theorem witness_LoopAndTrapResults :
    (∀ q ∈ [(0, 0), (0, 1), (1, 0), (0, 2), (2, 0), (1, 1)], ∃ s, ∃ c : Ctx, Issuing s c ∧ c.on 0 = true ∧ (c.w.lc, c.w.ec) = q ∧
      ((c.p.pc &&& ~~~(63 : Word)) + ((0x3FFFFFFFF : BitVec 35).signExtend 64 <<< 6)).toNat + 64 = c.p.csize) ∧
    (∃ s c, Issuing s c ∧ c.on 1 = false) := by
  refine ⟨fun q hq => ?_, ⟨s0, _, issuing (by decide), by decide⟩⟩
  simp only [List.mem_cons, List.not_mem_nil, or_false] at hq
  rcases hq with rfl | rfl | rfl | rfl | rfl | rfl
  · exact ⟨sw (fun w => { w with lc := 0, ec := 0 }), _, issuing (by decide), by decide⟩
  · exact ⟨sw (fun w => { w with lc := 0, ec := 1 }), _, issuing (by decide), by decide⟩
  · exact ⟨sw (fun w => { w with lc := 1, ec := 0 }), _, issuing (by decide), by decide⟩
  · exact ⟨sw (fun w => { w with lc := 0, ec := 2 }), _, issuing (by decide), by decide⟩
  · exact ⟨sw (fun w => { w with lc := 2, ec := 0 }), _, issuing (by decide), by decide⟩
  · exact ⟨sw (fun w => { w with lc := 1, ec := 1 }), _, issuing (by decide), by decide⟩

/-- The whole launch as the group (256), for both guards. -/
theorem witness_TeamAndGroupResults :
    (∃ s c, Issuing s c ∧ c.on 0 = true ∧ c.on 1 = false ∧ c.w.fr 3 < 63) ∧
    (∃ s c, Issuing s c ∧ c.on 0 = true ∧ (∃ t, s.teamOf c.w = some t ∧ t.idx = 0) ∧ ∃ l, s.launch c.w.handle = some l ∧ l.member 256 0 = true) ∧
    (∀ g ∈ [(0 : BitVec 5), 1], ∃ s u c, ∃ f : FmtA, Ready s c none [.xs f.s1 24 1, .xs f.s2 16 1, .xd f.d] u ∧ c.on f.g = (g == 0) ∧
      (∃ t, u.teamOf c.w = some t ∧ t.idx = 0) ∧ (c.xv f.s2).toNat = 256 ∧
      ∃ l, u.launch c.w.handle = some l ∧ l.member (c.xv f.s2).toNat 0 = true) ∧
    (∀ g ∈ [(0 : BitVec 5), 1], ∃ s u c, ∃ f : FmtA, f.md ≠ 6 ∧ Ready s c none [.xd f.d] u ∧ f.g = g) ∧
    (∀ g ∈ [(0 : BitVec 5), 1], ∃ s u c, ∃ f : FmtA, f.md = 6 ∧ Ready s c none [.vd f.d 1] u ∧ c.on f.g = (g == 0)) := by
  let s := sw (fun w => { w with x := [(5, 256)] })
  refine ⟨⟨s0, _, issuing (by decide), by decide⟩, ⟨s0, _, issuing (by decide), by decide, some_of (by decide), some_of (by decide)⟩,
    fun g hg => ?_, fun g hg => ?_, fun g hg => ?_⟩ <;> simp only [List.mem_cons, List.not_mem_nil, or_false] at hg <;> rcases hg with rfl | rfl
  · exact ⟨s, _, _, fa 9 4 5 0 0 0, ready (by decide), by decide, some_of (by decide), by decide, some_of (by decide)⟩
  · exact ⟨s, _, _, fa 9 4 5 0 0 1, ready (by decide), by decide, some_of (by decide), by decide, some_of (by decide)⟩
  · exact ⟨s0, _, _, fa 9 0 0 0 5 0, by decide, ready (by decide), rfl⟩
  · exact ⟨s0, _, _, fa 9 0 0 0 5 1, by decide, ready (by decide), rfl⟩
  · exact ⟨s0, _, _, fa 9 0 0 0 6 0, by decide, ready (by decide), by decide⟩
  · exact ⟨s0, _, _, fa 9 0 0 0 6 1, by decide, ready (by decide), by decide⟩

/-- `clkreq.arm` of a launch without and with a clock flag. -/
theorem witness_LeaseAndClockResults :
    (∃ s u c, Ready s c none [] u ∧ c.on 0 = true ∧ c.on 1 = false) ∧
    (∃ s u c, ∃ f : FmtA, Ready s c none [.xs f.s1 24 1] u) ∧ (∃ s u c, ∃ f : FmtA, Ready s c none [.xs f.s1 24 1, .xs f.s2 16 1] u) ∧
    (∃ s u c, Ready s c none [] u ∧ c.on 0 = true ∧ ∃ l, u.launch c.w.handle = some l ∧ l.rsig = 15) ∧
    (∃ s u c, Ready s c none [] u ∧ c.on 0 = true ∧ ∃ l, u.launch c.w.handle = some l ∧ l.rsig ≠ 15 ∧ (u.warp c.core c.slot).fr l.rsig < 63) :=
  ⟨⟨s0, _, _, ready (by decide), by decide⟩, ⟨s0, _, _, fa 0 4 5 0 0, ready (by decide)⟩, ⟨s0, _, _, fa 0 4 5 0 0, ready (by decide)⟩,
   ⟨s0.modLaunch 1 (fun l => { l with lpb := List.replicate 256 15 }), _, _, ready (by decide), by decide, some_of (by decide)⟩,
   ⟨s0.modLaunch 1 (fun l => { l with lpb := List.replicate 256 3 }), _, _, ready (by decide), by decide, some_of (by decide)⟩⟩

/-- `s0` with page 0 of space 0 translated to frame 0 of memory, which VF 0 owns, and the last byte of line 0 written. -/
def sMem (f : Warp → Warp) : State :=
  { (sw f).modCore 0 (fun k => { k with tlb := [{ vf := 0, part := 0, space := 0, page := 0, log2 := 16, dpa := 0, r := true, w := true, x := false, u := true, cmp := false }] })
    with fot := [(0, 1)], mem := [(127, 5)] }

/-- A load of the last word of a line, the scalar form, with one request of the coalescer's last vc taken; with no lane; issued again for
lane 3; and as an acquire. -/
theorem witness_LoadResults :
    let hyp := fun (s u : State) (c k : Ctx) (f : FmtM) (vec : Option Mask) (lanes : List (Nat × Word)) (ops : List Opnd) =>
      let w := widBytes f.wid.toNat
      let r := u.locateLanes c.core 0 (k.acc u f.dom.toNat) 0 lanes
      Issuing s c ∧ k.begin s vec ops = .ok u ∧ (lanes ≠ [] → (∀ q ∈ lanes, q.2.toNat % w = 0) ∧ (u.core c.core).bstage = .idle ∧
        r.1.miss = false ∧ r.1.bad = [] ∧ r.2.flefinRoom (r.1.ok.map (fun q => (q.pa, w))) = true ∧ (r.2.core c.core).coal < 2 * c.vc + 2)
    (∀ ord ∈ [(0 : BitVec 2), 1], ∃ s u c f, f.ord = ord ∧ c.p.replay = none ∧ c.on f.g = true ∧
      hyp s u c c f none [(lowestLane c.p.mask, c.xv f.b + f.off.signExtend 64 * BitVec.ofNat 64 (widBytes f.wid.toNat))] [.xs f.b 24 1, .xd f.t]) ∧
    (∃ s u c f, c.p.replay = none ∧ c.guard f.g = 0 ∧ hyp s u c c f (some 0) [] [.xs f.b 24 1, .vd f.t 1]) ∧
    (∃ s u c f, c.p.replay = some (c.p.pc, 8, .v [c.phys 10]) ∧ hyp s u c { c with w := c.w.full (.v [c.phys 10]) } f (some (c.guard f.g))
      [(3, c.xv f.b + f.off.signExtend 64 * BitVec.ofNat 64 (widBytes f.wid.toNat) + BitVec.ofNat 64 (3 * widBytes f.wid.toNat))] [.xs f.b 24 1]) := by
  intro hyp
  let s := (sMem (fun w => { w with x := [(4, 128)] })).modCore 0 (fun k => { k with coal := 2 * k.vc + 1 })
  let f : BitVec 2 → FmtM := fun o => { t := 10, b := 4, dom := 0, scope := 3, ord := o, wid := 4, off := -1, g := 0 }
  let s2 := sMem (fun w => { w with x := [(4, 116)], ve := 1 <<< 10, paths := w.paths.map (fun p => { p with replay := some (p.pc, 8, .v [10]) }) })
  refine ⟨fun o ho => ?_, ⟨s, okOf s ((ctxOf s).begin s (some 0) [.xs 4 24 1, .vd 10 1]), ctxOf s, { f 0 with g := 1 }, by decide, by decide, issuing (by decide), ok_of (by decide), fun h => absurd rfl h⟩,
    ⟨s2, okOf s2 (({ ctxOf s2 with w := (ctxOf s2).w.full (.v [(ctxOf s2).phys 10]) } : Ctx).begin s2 (some ((ctxOf s2).guard 0)) [.xs 4 24 1]), ctxOf s2, { f 0 with off := 0 }, by decide, issuing (by decide), ok_of (by decide), fun _ => by decide⟩⟩
  simp only [List.mem_cons, List.not_mem_nil, or_false] at ho
  rcases ho with rfl | rfl
  · exact ⟨s, okOf s ((ctxOf s).begin s none [.xs 4 24 1, .xd 10]), ctxOf s, f 0, by decide, by decide, by decide, issuing (by decide), ok_of (by decide), fun _ => by decide⟩
  · exact ⟨s, okOf s ((ctxOf s).begin s none [.xs 4 24 1, .xd 10]), ctxOf s, f 1, by decide, by decide, by decide, issuing (by decide), ok_of (by decide), fun _ => by decide⟩

/-- A plain store to memory, a release store, and no lane. -/
theorem witness_StoreResults :
    (∀ ord ∈ [(0 : BitVec 2), 2], ∃ s u u1 c, ∃ f : FmtM, f.ord = ord ∧ Issuing s c ∧ c.begin s none [.xs f.b 24 1, .xs f.t 32 1] = .ok u ∧ c.on f.g = true ∧
      let w := widBytes f.wid.toNat
      let lanes := [(lowestLane c.p.mask, c.xv f.b + f.off.signExtend 64 * BitVec.ofNat 64 w)]
      let r := u1.locateLanes c.core 0 (c.acc u1 f.dom.toNat) 1 lanes
      (∀ q ∈ lanes, q.2.toNat % w = 0) ∧ (u.core c.core).bstage = .idle ∧
      (if decide (f.ord.toNat = 2 ∧ 3 ≤ f.scope.toNat) then c.releaseReady u (decide (f.scope = 5)) else .ok u) = .ok u1 ∧
      r.1.miss = false ∧ r.1.bad = [] ∧ r.2.flefinRoom (r.1.ok.map (fun q => (q.pa, w))) = true ∧ (r.2.core c.core).coal < 2 * c.vc + 2 ∧ ∀ q ∈ r.1.ok, isWindow q.pa = false) ∧
    (∃ s u c, ∃ f : FmtM, Issuing s c ∧ c.begin s none [.xs f.b 24 1, .xs f.t 32 1] = .ok u ∧ c.on f.g = false) := by
  let s := sMem (fun w => { w with x := [(4, 128), (10, 77)] })
  let u := okOf s ((ctxOf s).begin s none [.xs 4 24 1, .xs 10 32 1])
  let f : BitVec 2 → FmtM := fun o => { t := 10, b := 4, dom := 0, scope := 5, ord := o, wid := 5, off := -1, g := 0 }
  refine ⟨fun o ho => ?_, ⟨s, u, ctxOf s, { f 0 with g := 1 }, issuing (by decide), ok_of (by decide), by decide⟩⟩
  simp only [List.mem_cons, List.not_mem_nil, or_false] at ho
  rcases ho with rfl | rfl
  · exact ⟨s, u, u, ctxOf s, f 0, by decide, issuing (by decide), ok_of (by decide), by decide, by decide, by decide, rfl, by decide⟩
  · exact ⟨s, u, okOf u ((ctxOf s).releaseReady u true), ctxOf s, f 2, by decide, issuing (by decide), ok_of (by decide), by decide, by decide, by decide,
      ok_of (r := (ctxOf s).releaseReady u true) (by decide), by decide⟩

/-- A prefetch dropped and made; a fence; a wait at the home, then in the L1, whose condition holds and does not (code 0 and 1), and, with the last
code, at the first byte of the Flefin window and of the PCIe window; the guard off. -/
theorem witness_OrderingResults :
    (∃ s u c, ∃ f : FmtM, Ready s c none [.xs f.b 24 1] u ∧ c.on f.g = true ∧ u.prefetchAt (c.acc u f.dom.toNat) (c.xv f.b + f.off.signExtend 64) = none) ∧
    (∃ s u c, ∃ f : FmtM, Ready s c none [.xs f.b 24 1] u ∧ c.on f.g = true ∧
      ∃ q, u.prefetchAt (c.acc u f.dom.toNat) (c.xv f.b + f.off.signExtend 64) = some q ∧ q.1 = 63) ∧
    (∃ s u c, Issuing s c ∧ c.on 0 = true ∧ (s.core c.core).bstage = .idle ∧ c.releaseReady s true = .ok u) ∧
    (∀ n < 6, ∃ s u c, ∃ f : FmtM, Ready s c none [.xs f.b 24 1, .xs f.t 32 2] u ∧ c.on f.g = true ∧
      let w := widBytes f.wid.toNat
      let off := c.xv f.b + f.off.signExtend 64 * BitVec.ofNat 64 w
      let code := (c.w.xr (opIdx f.t + 1)).toNat
      let r := u.locateLanes c.core 0 (c.acc u f.dom.toNat) 0 [(lowestLane c.p.mask, off)]
      off.toNat % w = 0 ∧ code < 8 ∧ (u.core c.core).bstage = .idle ∧ r.1.miss = false ∧ r.1.ok.head?.any (fun q =>
        let m : MWait := { pa := q.pa, cmp := q.cmp, w := w, cond := code, val := c.xv f.t, acq := decide (f.ord = 1), home := decide (3 ≤ f.scope.toNat) }
        if n < 4 then !isWindow q.pa && !(r.2.core c.core).atomicOn (lineOf q.pa) (r.2.core c.core).nextId && !r.2.mwaitBad c.core m &&
          (m.home == decide (n < 2)) && (m.met (r.2.mwaitRead c.core c.slot m).1 == decide (n % 2 = 0))
        else isWindow q.pa && (isFlefin q.pa == (n == 4)) && r.2.flefinRoom [(q.pa, w)])) ∧
    (∃ s u c, ∃ f : FmtM, Ready s c none [.xs f.b 24 1, .xs f.t 32 2] u ∧ c.on f.g = false) := by
  let root : State := { s0 with cur := { s0.cur with core := 256 }, cores := [(256, { warps := [(0, { live := true, paths := [{ id := 0, mask := 1, csize := 2 ^ 40, level := .root }] })] })] }
  let sr := fun (a : Word) => root.modCore 256 (fun k => k.setWarp 0 { k.warp 0 with x := [(4, a), (10, 0), (11, 7)] })
  let s1 := sr 63
  let s := fun (code : Word) => sMem (fun w => { w with x := [(4, 120), (10, 0x0500000000000000), (11, code)] })
  let f : BitVec 3 → FmtM := fun scope => { t := 10, b := 4, dom := 0, scope := scope, ord := 1, wid := 5, off := 0, g := 0 }
  refine ⟨⟨s0, okOf s0 ((ctxOf s0).begin s0 none [.xs 4 24 1]), _, f 5, ready (by decide), by decide⟩,
    ⟨s1, okOf s1 ((ctxOf s1).begin s1 none [.xs 4 24 1]), _, f 5, ready (by decide), by decide, some_of (by decide)⟩,
    ⟨s0, okOf s0 ((ctxOf s0).releaseReady s0 true), _, issuing (by decide), by decide, by decide, ok_of (by decide)⟩, fun n h => ?_,
    ⟨s 0, okOf (s 0) ((ctxOf (s 0)).begin (s 0) none [.xs 4 24 1, .xs 10 32 2]), _, { f 5 with g := 1 }, ready (by decide), by decide⟩⟩
  have h2 : n = 0 ∨ n = 1 ∨ n = 2 ∨ n = 3 ∨ n = 4 ∨ n = 5 := by omega
  rcases h2 with rfl | rfl | rfl | rfl | rfl | rfl
  · exact ⟨s 0, okOf (s 0) ((ctxOf (s 0)).begin (s 0) none [.xs 4 24 1, .xs 10 32 2]), _, f 5, ready (by decide), by decide⟩
  · exact ⟨s 1, okOf (s 1) ((ctxOf (s 1)).begin (s 1) none [.xs 4 24 1, .xs 10 32 2]), _, f 5, ready (by decide), by decide⟩
  · exact ⟨s 0, okOf (s 0) ((ctxOf (s 0)).begin (s 0) none [.xs 4 24 1, .xs 10 32 2]), _, f 2, ready (by decide), by decide⟩
  · exact ⟨s 1, okOf (s 1) ((ctxOf (s 1)).begin (s 1) none [.xs 4 24 1, .xs 10 32 2]), _, f 2, ready (by decide), by decide⟩
  · exact ⟨sr (3 * 2 ^ 48), okOf (sr (3 * 2 ^ 48)) ((ctxOf (sr (3 * 2 ^ 48))).begin (sr (3 * 2 ^ 48)) none [.xs 4 24 1, .xs 10 32 2]), _, f 5, ready (by decide), by decide⟩
  · exact ⟨sr (2 ^ 49), okOf (sr (2 ^ 49)) ((ctxOf (sr (2 ^ 49))).begin (sr (2 ^ 49)) none [.xs 4 24 1, .xs 10 32 2]), _, f 5, ready (by decide), by decide⟩

/-- No lane; the last word of the scratchpad slice; the last word of a Loam region; a zeroed range that ends at the slice's end. -/
theorem witness_LocalStoreResults :
    (∃ s u c, ∃ f : FmtM, (s.teamOf c.w).isSome = true ∧ c.guard f.g = 0 ∧ Ready s c (some (c.guard f.g)) [.xs f.b 24 1, .vd f.t (if f.wid = 5 then 2 else 1)] u ∧
      Ready s c (some (c.guard f.g)) [.xs f.b 24 1, .vs f.t 32 (if f.wid = 5 then 2 else 1) (if f.wid.toNat ≤ 3 then 1 else 3)] u) ∧
    (∃ s u c, ∃ f : FmtM, Ready s c (some (c.guard f.g)) [.xs f.b 24 1, .vd f.t (if f.wid = 5 then 2 else 1)] u ∧
      Ready s c (some (c.guard f.g)) [.xs f.b 24 1, .vs f.t 32 (if f.wid = 5 then 2 else 1) (if f.wid.toNat ≤ 3 then 1 else 3)] u ∧ c.guard f.g ≠ 0 ∧
      ∃ t, u.teamOf c.w = some t ∧ let w := widBytes f.wid.toNat
        let a := c.xv f.b + f.off.signExtend 64 * BitVec.ofNat 64 w
        a.toNat % w = 0 ∧ (a + BitVec.ofNat 64 (w * 63)).toNat + w = t.spb ∧
        ∀ l ∈ lanesOf (c.guard f.g), (t.spPhys c.p.level (a.toNat + w * l) w).isSome = true) ∧
    (∃ s u c, ∃ f : FmtM, Ready s c (some (c.guard f.g)) [.xs f.b 24 1, .vd f.t (if f.wid = 5 then 2 else 1)] u ∧ c.guard f.g ≠ 0 ∧
      ∃ t, u.teamOf c.w = some t ∧ let w := widBytes f.wid.toNat
        let a := c.xv f.b + f.off.signExtend 64 * BitVec.ofNat 64 w
        a.toNat % w = 0 ∧ loamIn a.toNat (w * (lanesOf (c.guard f.g)).foldl max 0 + w) = true ∧
        ∀ l ∈ lanesOf (c.guard f.g), u.loamReadable t (a.toNat + w * l) = true) ∧
    (∃ s u c, ∃ f : FmtA, Ready s c none [.xs f.s1 24 1, .xs f.s2 16 1] u ∧ c.on f.g = true ∧ c.xv f.s2 = 0) ∧
    (∃ s u c, ∃ f : FmtA, Ready s c none [.xs f.s1 24 1, .xs f.s2 16 1] u ∧ c.on f.g = true ∧ c.xv f.s2 ≠ 0 ∧ (c.xv f.s1).toNat % 32 = 0 ∧
      (c.xv f.s2).toNat % 32 = 0 ∧ ∃ t, u.teamOf c.w = some t ∧ (c.xv f.s1).toNat + (c.xv f.s2).toNat = t.spb) := by
  let f : FmtM := { t := 10, b := 4, dom := 0, scope := 0, ord := 0, wid := 4, off := 0, g := 0 }
  let s := sw (fun w => { w with x := [(4, 768)] })
  let sl : State := { (s0.modLaunch 1 (fun l => { l with lpb := List.replicate 256 1 })) with loamFot := [(0, 0xE00)] }
  let z := fun (n : Word) => sw (fun w => { w with x := [(4, 992), (5, n)] })
  exact ⟨⟨s, s, ctxOf s, { f with g := 1 }, by decide, by decide, ready_self (by decide), ready_self (by decide)⟩,
    ⟨s, s, ctxOf s, f, ready_self (by decide), ready_self (by decide), by decide, some_of (by decide)⟩,
    ⟨sl, sl, ctxOf sl, f, ready_self (by decide), by decide, some_of (by decide)⟩,
    ⟨z 0, _, _, fa 0 4 5 0 0, ready (by decide), by decide⟩, ⟨z 32, _, _, fa 0 4 5 0 0, ready (by decide), by decide, by decide, by decide, by decide, some_of (by decide)⟩⟩

/-- A 64-bit atomic at its home, one below die scope, and no lane. -/
theorem witness_AtomicResults :
    (∀ scope ∈ [(2 : BitVec 3), 4], ∃ s u u1 c, ∃ f : FmtN, f.scope = scope ∧ Issuing s c ∧ c.begin s none [.xs f.b 24 1, .xs f.s 16 1, .xd f.d] = .ok u ∧
      c.onN f.g = true ∧ let r := u1.locateLanes c.core 0 (c.acc u1 f.dom.toNat) 2 [(lowestLane c.p.mask, c.xv f.b)]
      (c.xv f.b).toNat % 8 = 0 ∧ 8 ≤ f.aop.toNat ∧ (u.core c.core).bstage = .idle ∧
      (if 2 ≤ f.ord.toNat ∧ 3 ≤ f.scope.toNat then c.releaseReady u (decide (f.scope = 5)) else .ok u) = .ok u1 ∧
      r.1.miss = false ∧ r.1.bad = [] ∧ (∀ q ∈ r.1.ok, isWindow q.pa = false) ∧
      (∀ q ∈ r.1.ok, (!isWindow q.pa && (if decide (f.scope.toNat < 3) && ((r.2.core c.core).l1Byte q.pa).isSome then (r.2.core c.core).l1Bad q.pa
        else r.2.homeBad q.pa q.cmp)) = false) ∧
      r.2.flefinRoom (r.1.ok.map (fun q => (q.pa, 64))) = true ∧ (r.2.core c.core).coal < 2 * c.vc + 2 ∧
      ∀ q ∈ r.1.ok, (r.2.core c.core).atomicOn (lineOf q.pa) (r.2.core c.core).nextId = false) ∧
    (∃ s u c, ∃ f : FmtN, Issuing s c ∧ c.begin s none [.xs f.b 24 1, .xs f.s 16 1, .xd f.d] = .ok u ∧ c.onN f.g = false) := by
  let s := sMem (fun w => { w with x := [(4, 120)] })
  let u := okOf s ((ctxOf s).begin s none [.xs 4 24 1, .xs 6 16 1, .xd 9])
  let f : BitVec 3 → FmtN := fun sc => { d := 9, b := 4, s := 6, dom := 0, scope := sc, ord := 3, aop := 9, g := 0 }
  refine ⟨fun o ho => ?_, ⟨s, u, ctxOf s, { f 0 with g := 1 }, issuing (by decide), ok_of (by decide), by decide⟩⟩
  simp only [List.mem_cons, List.not_mem_nil, or_false] at ho
  rcases ho with rfl | rfl
  · exact ⟨s, u, u, ctxOf s, f 2, by decide, issuing (by decide), ok_of (by decide), by decide, by decide, by decide, by decide, rfl, by decide⟩
  · exact ⟨s, u, okOf u ((ctxOf s).releaseReady u false), ctxOf s, f 4, by decide, issuing (by decide), ok_of (by decide), by decide, by decide, by decide, by decide,
      ok_of (r := (ctxOf s).releaseReady u false) (by decide), by decide⟩

/-- The header of a `LINE` command (R46): f2, EMOD 1, four arguments, STEP 1024, REP 47. -/
def lineHead : Word := 0x200001140400002F

/-- A copy command whose header has been pushed. -/
def partCmd : Cmd := { seq := 3, eng := 1, slot := 0, handle := 1, team := 0, widx := 0, pay := .copy [lineHead] [], stage := .partly }

/-- A first word; the second and the last argument of a command; a whole command of `cpy`; each other queue with one place left. -/
theorem witness_QueueResults :
    (∃ s u c, ∃ f : FmtA, Ready s c none [.xs f.s1 24 1] u ∧ c.on f.g = true ∧ (u.core c.core).queued 2 < 64 ∧
      (u.core c.core).cmds.find? (fun x => x.eng == 1 && x.slot == c.slot && x.stage == .partly) = none ∧ badHeader (c.xv f.s1) = false ∧
      (u.core c.core).cmds.length < 512 ∧ c.flagRoom u (ewSig (c.xv f.s1)) = true) ∧
    (∀ n ∈ [1, 4], ∃ s u c, ∃ f : FmtA, Ready s c none [.xs f.s1 24 1] u ∧ c.on f.g = true ∧ (u.core c.core).queued 2 < 64 ∧
      ∃ x, (u.core c.core).cmds.find? (fun x => x.eng == 1 && x.slot == c.slot && x.stage == .partly) = some x ∧ x.words.length = n ∧ ewNarg lineHead = 4) ∧
    (∃ s u c, ∃ f : FmtA, Ready s c none [.xs f.s1 24 1] u ∧ c.on f.g = true ∧ badHeader (c.xv f.s1) = false ∧ ewOp (c.xv f.s1) = 1 ∧
      opIdx f.s1 + ewNarg (c.xv f.s1) = 63 ∧ okB (c.begin u none [.xs f.s1 24 (ewNarg (c.xv f.s1) + 1)]) = true ∧
      okB (c.pushWords none u ((List.range (ewNarg (c.xv f.s1) + 1)).map (fun j => c.w.xr (opIdx f.s1 + j)))) = true) ∧
    (∃ s u c, ∃ f : FmtA, Ready s c none [.xs f.s1 24 1] u ∧ c.on f.g = true ∧ (c.xv f.s1).toNat % 8 = 0 ∧ (u.core c.core).queued 6 < 16 ∧
      (u.core c.core).cmds.length < 512 ∧ c.flagRoom u (sigOf f.s3) = true ∧ ∃ t, u.teamOf c.w = some t ∧ (c.xv f.s1).toNat + 8 = t.spb) ∧
    (∃ s u t c, ∃ f : FmtA, Ready s c (some (c.guard f.g)) [.vs f.s1 24 2 3] u ∧ c.guard f.g ≠ 0 ∧
      c.pushWords (some (c.guard f.g)) u ((lanesOf (c.guard f.g)).map (fun l => c.vv2 f.s1 l)) = .ok t) ∧
    (∃ s u c, ∃ f : FmtA, Ready s c none [.xd f.d] u ∧ c.on f.g = true ∧ (u.core c.core).popsOf (opIdx f.s1) c.slot ≠ []) ∧
    (∃ s u c, ∃ f : FmtA, Ready s c (some (c.guard f.g)) [.vd f.d 2] u ∧ (lanesOf (c.guard f.g)).length = 1 ∧
      ((u.core c.core).popsOf (opIdx f.s1) c.slot).length = 1) ∧
    (∃ s u c, ∃ f : FmtI, Ready s c none [] u ∧ c.on f.g = true ∧ f.imm = 15 ∧
      ∀ b ∈ idxs 4 (fun i => f.imm.getLsbD i), (u.core c.core).queued (2 * b) < queueCap (2 * b)) ∧
    (∃ s u c, Ready s c none [] u ∧ c.on 0 = true ∧ (u.core c.core).markers.filter (fun m => m.slot == c.slot) ≠ [] ∧
      ∀ m ∈ (u.core c.core).markers.filter (fun m => m.slot == c.slot), m.arrived = true) ∧
    (∃ s u c, ∃ f : FmtA, Ready s c none [.xs f.s1 24 1] u ∧ c.on f.g = false) := by
  let s := sw (fun w => { w with x := [(59, lineHead)] })
  let p := fun (n : Nat) => sk (fun k => { k with cmds := [{ partCmd with pay := .copy (lineHead :: List.replicate n 0) [] }] })
  let q := sw (fun w => { w with x := [(4, 1016)] })
  let v := sw (fun w => { w with v := [(64 * 4, 0x0400002F), (64 * 5, 0x20000114)], paths := w.paths.map (fun p => { p with mask := 1 }) })
  let r := (ctxOf v).pushWords (some ((ctxOf v).guard 0)) v ((lanesOf ((ctxOf v).guard 0)).map (fun l => (ctxOf v).vv2 4 l))
  let one : State := (s0.modPath 0 0 0 (fun p => { p with mask := 1 })).modCore 0 (fun k =>
    { k with pops := [{ queue := 3, slot := 0, word := 7 }], markers := [{ slot := 0, queue := 1, covers := [], arrived := true }] })
  refine ⟨⟨s, _, _, fa 0 59 0 0 0, ready (by decide), by decide⟩, fun n hn => ?_,
    ⟨s, s, ctxOf s, fa 0 59 0 0 0, ready_self (by decide), by decide⟩,
    ⟨q, _, _, fa 0 4 0 3 0, ready (by decide), by decide, by decide, by decide, by decide, by decide, some_of (by decide)⟩,
    ⟨v, v, okOf v r, ctxOf v, fa 0 4 0 0 0, ready_self (by decide), by decide, ok_of (r := r) (by decide)⟩,
    ⟨one, _, _, fa 9 3 0 0 0, ready (by decide), by decide⟩, ⟨one, _, _, fa 10 3 0 0 0, ready (by decide), by decide⟩,
    ⟨one, _, _, fi 0 0 15, ready (by decide), by decide⟩, ⟨one, _, _, ready (by decide), by decide⟩, ⟨s, _, _, fa 0 4 0 0 0 1, ready (by decide), by decide⟩⟩
  simp only [List.mem_cons, List.not_mem_nil, or_false] at hn
  rcases hn with rfl | rfl
  · exact ⟨p 0, _, _, fa 0 4 0 0 0, ready (by decide), by decide, by decide, some_of (by decide)⟩
  · exact ⟨p 3, _, _, fa 0 4 0 0 0, ready (by decide), by decide, by decide, some_of (by decide)⟩

/-- The leader twin holds tile 0: layout words of eight planes, one chunk of one element, one row and one column. -/
def sMat (f : Warp → Warp) : State :=
  let s := (sw (fun w => f { w with x := [(20, 0x07000000), (24, 0x07000000)], mp := [(0, 0x01010001), (6, 0x100)] })).modTeam 1 0 (fun t => { t with half := some 0 })
  { s.modPair 0 (fun p => { p with tokens := [(0, .held 0 0)], twins := some (1, 0) }) with teams := s.teams ++
    [{ handle := 1, idx := 1, core := 1, state := .running, wpt := 1, slots := [0], half := some 1, base := 0, size := 1024, spb := 1024, vf := 0, part := 0 }] }

theorem witness_MatrixResults :
    (∃ s u c, ∃ f : FmtI, Ready s c none [.xs f.s1 24 1] u ∧ c.on f.g = true ∧ ∃ t, c.MayUseTile u t true false 0) ∧
    (∃ s u c, ∃ f : FmtA, Ready s c none [.xs f.s2 16 1] u ∧ c.on f.g = true ∧ c.xv f.s2 = BitVec.allOnes 64 ∧ ∃ t, c.MayUseTile u t false true (opIdx f.s1 % 8)) ∧
    (∀ who ∈ [(0 : Word), 0x100], ∃ s u c, ∃ f : FmtA, Ready s c none [.xs f.s2 16 1] u ∧ c.on f.g = true ∧ c.xv f.s2 = who ∧
      ∃ t, c.MayUseTile u t false true (opIdx f.s1 % 8) ∧ c.xv f.s2 &&& ~~~0x10F = 0 ∧ bits (c.xv f.s2) 3 0 < t.wpt ∧
      ((if (if bit (c.xv f.s2) 8 then 1 - c.half else c.half) = c.half then some t else u.team t.handle (if c.half = 0 then t.idx + 1 else t.idx - 1)).any
        (fun t2 => !t2.ended.contains (bits (c.xv f.s2) 3 0))) = true) ∧
    (∀ tok ∈ [Token.free, .held 0 0], ∃ s u c, Ready s c none [] u ∧ c.on 0 = true ∧ (∃ t, c.MayUseTile u t false false 0) ∧
      sget .free (u.pair (c.core / 2)).tokens 0 = tok ∧ c.holds u 0 = (tok != .free) ∧ ((u.pair (c.core / 2)).waiters.filter (fun q => q.1 == 0)) = []) ∧
    (∃ s u c, ∃ f : FmtA, Ready s c (some (c.guard f.g)) [.xs f.s2 16 1, .vd f.d 2] u ∧ c.guard f.g ≠ 0 ∧ (c.xv f.s2).toNat = 63 ∧
      ∃ t, c.MayUseTile u t false true (opIdx f.s1 % 8)) ∧
    (∃ s u c, ∃ f : FmtA, Ready s c (some (c.guard f.g)) [.xs f.s1 24 1, .vs f.s2 16 2 3] u ∧ c.guard f.g ≠ 0 ∧ (c.xv f.s1).toNat = 63 ∧
      ∃ t, c.MayUseTile u t false true (opIdx f.d % 8)) ∧
    (∀ k < 6, ∃ s u c, ∃ f : FmtA, Ready s c none [.xs f.s1 24 3, .xs f.s2 16 3] u ∧ c.on f.g = true ∧
      let m := c.capture k 0 0 (c.regs3 f.s1 3) (c.regs3 (if k = 4 then 28 else f.s2) (if k = 4 then 2 else 3))
      ∃ t, c.MayUseTile u t true true 0 ∧
        (match k with | 0 => mp0Check m | 4 => m.planeCheck t | 5 => m.outCheck t | _ => m.productCheck t) = .ok () ∧ c.matrixRoom u m 3 = true) := by
  have use : ∀ (s : State) (lead tok : Bool) (n : Nat), (((s.teamOf (ctxOf s).w).any (fun t => t.half.isSome)) && decide ((ctxOf s).half = 0) &&
      (!tok || (ctxOf s).holds s n)) = true → ∃ t, (ctxOf s).MayUseTile s t lead tok n := fun s lead tok n h => by
    simp only [Bool.and_eq_true, decide_eq_true_eq, Option.any_eq_true] at h
    obtain ⟨⟨⟨t, ht, hh⟩, h0⟩, hk⟩ := h
    exact ⟨t, ht, hh, fun _ => h0, fun h => by rw [h] at hk; simpa using hk⟩
  let s := sMat id
  let x := fun (v : Word) => sMat (fun w => { w with x := [(5, v)] })
  have sm : ∀ r : Try Unit, okB r = true → r = .ok () := fun r h => by cases r with | ok u => rfl | error e => cases h
  have tm : ∀ s : State, (s.teamOf (ctxOf s).w).isSome = true → s.teamOf (ctxOf s).w = some ((s.teamOf (ctxOf s).w).getD placedTeam) := fun s h => by
    cases hc : s.teamOf (ctxOf s).w with
    | some t => rfl
    | none => rw [hc] at h; cases h
  refine ⟨⟨s, s, ctxOf s, fi 0 4 0, ready_self (s := s) (by decide), by decide, use s _ _ _ (by decide)⟩, ⟨x (-1), x (-1), ctxOf (x (-1)), fa 0 0 5 0 0, ready_self (s := x (-1)) (by decide), by decide, by decide, use (x (-1)) _ _ _ (by decide)⟩,
    fun who hw => ?_, fun tok ht => ?_, ⟨x 63, x 63, ctxOf (x 63), fa 10 0 5 0 0, ready_self (s := x 63) (by decide), by decide, by decide, use (x 63) _ _ _ (by decide)⟩,
    ⟨x 63, x 63, ctxOf (x 63), fa 0 5 10 0 0, ready_self (s := x 63) (by decide), by decide, by decide, use (x 63) _ _ _ (by decide)⟩, fun k hk => ?_⟩
  · have tw := tm s (by decide)
    simp only [List.mem_cons, List.not_mem_nil, or_false] at hw
    rcases hw with rfl | rfl
    · have tw := tm (x 0) (by decide)
      exact ⟨x 0, x 0, ctxOf (x 0), fa 0 0 5 0 0, ready_self (s := x 0) (by decide), by decide, by decide, _, ⟨tw, by decide, fun _ => by decide, fun _ => by decide⟩, by decide⟩
    · have tw := tm (x 0x100) (by decide)
      exact ⟨x 0x100, x 0x100, ctxOf (x 0x100), fa 0 0 5 0 0, ready_self (s := x 0x100) (by decide), by decide, by decide, _, ⟨tw, by decide, fun _ => by decide, fun _ => by decide⟩, by decide⟩
  · simp only [List.mem_cons, List.not_mem_nil, or_false] at ht
    rcases ht with rfl | rfl
    · let z : State := s.modPair 0 (fun p => { p with tokens := [] })
      exact ⟨z, z, ctxOf z, ready_self (s := z) (by decide), by decide, use z _ _ _ (by decide), by decide⟩
    · exact ⟨s, s, ctxOf s, ready_self (s := s) (by decide), by decide, use s _ _ _ (by decide), by decide⟩
  · have tw := tm s (by decide)
    have hk : k = 0 ∨ k = 1 ∨ k = 2 ∨ k = 3 ∨ k = 4 ∨ k = 5 := by omega
    rcases hk with rfl | rfl | rfl | rfl | rfl | rfl <;>
      exact ⟨s, s, ctxOf s, fa 0 20 24 3 0, ready_self (s := s) (by decide), by decide, _, ⟨tw, by decide, fun _ => by decide, fun _ => by decide⟩, sm _ (by decide), by decide⟩

/-- `s0` at a level, with both stages of translation mapping the low offsets of space 0 to the same addresses (stage 2 at 1 MiB, the space
table at 512 KiB), frames 0 to 31 owned by VF 0, space 1 ending at a first-touch entry, its pool's ring holding page `page`, and these registers. -/
def sPt (lv : Level) (page : Nat) (x : SMap Word) : State :=
  let s := (sw (fun w => { w with x := x, paths := w.paths.map (fun p => { p with level := lv }) })).modPart 0 (fun p => { p with s2base := 0x100000 })
  let s := s.modVf 0 (fun v => { v with spbase := 0x80001, fpool := 0xC0000 })
  let s : State := { s with fot := (List.range 32).map (fun i => (i, 1)) }
  [(0x100000, 0x1F), (0x80000, 0x88001), (0x88000, 0x90001), (0x90000, 0x3F), (0x80008, 0x98001), (0x98000, 0xA0001), (0xA0000, 0xA8001),
    (0xA8000, 0xB0001), (0xB0000, 0xBC), (0xC0000, 0xD0000), (0xC0018, 1), (0xD0000, page)].foldl (fun s q => s.setNum q.1 8 q.2) s

def mapOk (r : MapRes) : Bool := match r with | .ok _ _ => true | _ => false
def mapBad (r : MapRes) : Bool := match r with | .bad _ _ => true | _ => false

theorem readyAt_self {s : State} {lv : Level} {ops : List Opnd} (h : (issueB s && okB ((ctxOf s).feCheck s none ops) && (ctxOf s).w.sound) = true)
    (hl : lv.rank ≤ (ctxOf s).p.level.rank) : ReadyAt s (ctxOf s) lv ops s := ⟨ready_self h, hl⟩

/-- Each invalidation; `mapfp` of a frame it gives and of one it refuses; a frame scrubbed, given an owner and a way mask at its last bit. -/
theorem witness_TranslationResults :
    (∃ s u u1 c, ∃ f : FmtA, ReadyAt s c .hypervisor [.xs f.s1 24 1] u ∧ ReadyAt s c .supervisor [] u ∧ c.on f.g = true ∧ (c.vfOf u).isSome = true ∧ (c.part u).isSome = true ∧
      c.releaseReady u false = .ok u1 ∧ ∀ p ∈ u1.ports, p.2.txns = []) ∧
    (∃ s u c, ∃ f : FmtA, ReadyAt s c .supervisor [.xs f.s1 24 1, .xd f.d] u ∧ c.on f.g = false) ∧
    (∃ s u c, ∃ f : FmtA, ReadyAt s c .supervisor [.xs f.s1 24 1, .xd f.d] u ∧ c.on f.g = true ∧ c.part u = some 0 ∧ c.vfOf u = some 0 ∧
      mapOk (u.mapFirstTouch 0 0 1 (c.xv f.s1)) = true) ∧
    (∃ s u c, ∃ f : FmtA, ReadyAt s c .supervisor [.xs f.s1 24 1, .xd f.d] u ∧ c.on f.g = true ∧ c.part u = some 0 ∧ c.vfOf u = some 0 ∧
      mapBad (u.mapFirstTouch 0 0 1 (c.xv f.s1)) = true) ∧
    (∀ own ∈ [(1 : BitVec 32), 0x4000], ∃ s u c, ∃ f : FmtA, ReadyAt s c .hypervisor [.xs f.s1 24 1, .xs f.s2 16 1] u ∧ c.on f.g = true ∧ frameOk false (c.xv f.s1) = true ∧
      u.frameEntry false (c.xv f.s1).toNat = own ∧ c.part u = some 0 ∧ bit own 13 = false ∧
      (own = 1 → u.ownerPart (bits own 11 0) = some 0 ∧ (c.xv f.s2).toNat = 0 ∧ u.scrubbing false (c.xv f.s1).toNat = false ∧
        u.cores.any (fun q => q.2.longs.any (fun o => o.readsLoam (c.xv f.s1).toNat)) = false) ∧
      (own ≠ 1 → bits own 20 16 = 0 ∧ u.ownerPart (bits ((c.xv f.s2).setWidth 32 : BitVec 32) 11 0) = some 0 ∧
        u.fotBad false own ((c.xv f.s2).setWidth 32) (c.p.level == .root) = false)) ∧
    (∃ s u c, ∃ f : FmtA, ReadyAt s c .hypervisor [.xs f.s1 24 1, .xs f.s2 16 1] u ∧ c.on f.g = true ∧ (c.xv f.s1).toNat ≤ 511 ∧
      c.part u = some 0 ∧ (u.part 0).hasVf (c.xv f.s1).toNat = true ∧ bits (c.xv f.s2) 63 24 = 0 ∧
      ∀ i < 24, (c.xv f.s2).getLsbD i = true → Nat.testBit (match u.partOfVf (c.xv f.s1).toNat with | some p => (u.part p).ways | none => 0) i = true) := by
  let s := sPt .hypervisor 0x20000 [(4, 0x50000)]
  let o : BitVec 32 → Word → State := fun e v => { sPt .hypervisor 0 [(4, 0x50000), (5, v)] with fot := [(5, e)] }
  let m := (sPt .hypervisor 0 [(4, 511), (5, 0xFFFFFF)]).modPart 0 (fun p =>
    { p with desc := leBytes 0x101 8 ++ List.replicate 0x30 0 ++ leBytes 0xFFFFFF 8 ++ leBytes (512 * 512) 4 ++ List.replicate (256 - 0x44) 0 })
  refine ⟨⟨s, s, okOf s ((ctxOf s).releaseReady s false), ctxOf s, fa 9 4 0 0 0, readyAt_self (by decide) (by decide), readyAt_self (by decide) (by decide), by decide, by decide, by decide,
      ok_of (r := (ctxOf s).releaseReady s false) (by decide), by decide⟩,
    ⟨s, s, ctxOf s, fa 9 4 0 0 0 1, readyAt_self (by decide) (by decide), by decide⟩,
    ⟨sPt .supervisor 0x20000 [], _, ctxOf (sPt .supervisor 0x20000 []), fa 9 4 0 0 0, readyAt_self (by decide) (by decide), by decide⟩,
    ⟨sPt .supervisor 0x300000 [], _, ctxOf (sPt .supervisor 0x300000 []), fa 9 4 0 0 0, readyAt_self (by decide) (by decide), by decide⟩, fun own ho => ?_,
    ⟨m, m, ctxOf m, fa 0 4 5 0 0, readyAt_self (by decide) (by decide), by decide⟩⟩
  simp only [List.mem_cons, List.not_mem_nil, or_false] at ho
  rcases ho with rfl | rfl
  · exact ⟨o 1 0, o 1 0, ctxOf (o 1 0), fa 0 4 5 0 0, readyAt_self (by decide) (by decide), by decide⟩
  · exact ⟨o 0x4000 1, o 0x4000 1, ctxOf (o 0x4000 1), fa 0 4 5 0 0, readyAt_self (by decide) (by decide), by decide⟩

/-- `sPt` with the header of a module image at 256 KiB: ID 5, one block of code. -/
def sMod (st : Nat) (x : SMap Word) : State := ((sPt .hypervisor 0 x).setBytes 0x40000
  ([0x43, 0x47, 0x4D, 0x49, 1, 0, 5, 0] ++ leBytes 64 8 ++ leBytes 0 8 ++ leBytes 0 8 ++ leBytes 64 8)).setNum 160 1 st

/-- The guard off; a module image not at a page and not found; found in an entry in use; with a segment missing; with its code free and locked; a module
not loaded, in use as the handler module, and free to release; the two invalidations, the one of a range of the code's last block. -/
theorem witness_ModuleResults :
    (∃ s u c, ∃ f : FmtA, ReadyAt s c .hypervisor [.xs f.s1 24 1, .xd f.d] u ∧ ReadyAt s c .hypervisor [.xs f.s1 24 1] u ∧
      ReadyAt s c .hypervisor [.xs f.s1 24 1, .xs f.s2 16 1, .xs f.s3 8 1] u ∧ c.on f.g = false) ∧
    (∀ a ∈ [(0x40020 : Word), 0], ∃ s u c, ∃ f : FmtA, ReadyAt s c .hypervisor [.xs f.s1 24 1, .xd f.d] u ∧ c.on f.g = true ∧ c.part u = some 0 ∧ c.xv f.s1 = a ∧
      (a.toNat % 65536 ≠ 0 ∨ u.readHeader (c.acc u 0) a = none)) ∧
    (∀ q ∈ [(0, some false), (2, some false), (0, some true), (0, none)], ∃ s u c, ∃ f : FmtA, ReadyAt s c .hypervisor [.xs f.s1 24 1, .xd f.d] u ∧ c.on f.g = true ∧ c.part u = some 0 ∧
      (c.xv f.s1).toNat % 65536 = 0 ∧ ∃ h, u.readHeader (c.acc u 0) (c.xv f.s1) = some h ∧ (u.modEntry 0 h.id).state = q.1 ∧
        (u.segment (c.acc u 0) (c.xv f.s1 + 65536) h.csize true).map (fun code => code.any (fun pa => bit (u.fotOf pa) 13)) = q.2 ∧
        (u.segment (c.acc u 0) (c.xv f.s1 + BitVec.ofNat 64 (65536 + up64k h.csize)) h.dsize false).isSome = true) ∧
    (∀ q ∈ [(1, 0), (2, 0x1005), (2, 0)], ∃ s u c, ∃ f : FmtA, ReadyAt s c .hypervisor [.xs f.s1 24 1, .xd f.d] u ∧ c.on f.g = true ∧ c.part u = some 0 ∧
      bits (c.xv f.s1) 11 0 = 5 ∧ (u.modEntry 0 5).state = q.1 ∧ (u.part 0).hmod = q.2) ∧
    (∃ s u c, ∃ f : FmtA, ReadyAt s c .hypervisor [.xs f.s1 24 1] u ∧ ReadyAt s c .hypervisor [.xs f.s1 24 1, .xs f.s2 16 1, .xs f.s3 8 1] u ∧ c.on f.g = true ∧
      c.part u = some 0 ∧ (c.xv f.s2).toNat + 64 = (u.modEntry 0 5).csize) := by
  let g := sMod 0 [(4, 0x40000), (5, 0), (6, 2)]
  let m := fun st => sMod st [(4, 5)]
  let h := (m 2).modPart 0 (fun p => { p with hmod := 0x1005 })
  refine ⟨⟨g, g, ctxOf g, fa 9 4 5 6 0 1, readyAt_self (by decide) (by decide), readyAt_self (by decide) (by decide), readyAt_self (by decide) (by decide), by decide⟩,
    fun a ha => ?_, fun q hq => ?_, fun q hq => ?_,
    ⟨g.putModule 0 5 2 0 0 0 64 0, _, ctxOf (g.putModule 0 5 2 0 0 0 64 0), fa 9 4 5 6 0, readyAt_self (by decide) (by decide), readyAt_self (by decide) (by decide), by decide⟩⟩ <;>
    simp only [List.mem_cons, List.not_mem_nil, or_false] at *
  · rcases ha with rfl | rfl
    · exact ⟨sMod 0 [(4, 0x40020)], _, ctxOf (sMod 0 [(4, 0x40020)]), fa 9 4 0 0 0, readyAt_self (by decide) (by decide), by decide⟩
    · exact ⟨g, g, ctxOf g, fa 9 0 0 0 0, readyAt_self (by decide) (by decide), by decide⟩
  · rcases hq with rfl | rfl | rfl | rfl
    · exact ⟨g, g, ctxOf g, fa 9 4 0 0 0, readyAt_self (by decide) (by decide), by decide, by decide, by decide, some_of (by decide)⟩
    · let s := sMod 2 [(4, 0x40000)]
      exact ⟨s, s, ctxOf s, fa 9 4 0 0 0, readyAt_self (by decide) (by decide), by decide, by decide, by decide, some_of (by decide)⟩
    · let s : State := { g with fot := (List.range 32).map (fun i => (i, if i = 5 then 0x2001 else 1)) }
      exact ⟨s, s, ctxOf s, fa 9 4 0 0 0, readyAt_self (by decide) (by decide), by decide, by decide, by decide, some_of (by decide)⟩
    · let s : State := { g with fot := (List.range 32).map (fun i => (i, if i = 5 then 0 else 1)) }
      exact ⟨s, s, ctxOf s, fa 9 4 0 0 0, readyAt_self (by decide) (by decide), by decide, by decide, by decide, some_of (by decide)⟩
  · rcases hq with rfl | rfl | rfl
    · exact ⟨m 1, m 1, ctxOf (m 1), fa 9 4 0 0 0, readyAt_self (by decide) (by decide), by decide⟩
    · exact ⟨h, h, ctxOf h, fa 9 4 0 0 0, readyAt_self (by decide) (by decide), by decide⟩
    · exact ⟨m 2, m 2, ctxOf (m 2), fa 9 4 0 0 0, readyAt_self (by decide) (by decide), by decide⟩

/-- The guard off; no team and no VF named; a team that may be saved, is in a handler, is saved and is retiring; a VF whose area is not given, is
free to save, is being saved, and whose image is in place or another VF's. -/
theorem witness_ContextResults :
    (∃ s u c, ∃ f : FmtA, ReadyAt s c .hypervisor [.xs f.s1 24 1, .xd f.d] u ∧ ReadyAt s c .hypervisor [.xs f.s1 24 1, .xs f.s2 16 1, .xd f.d] u ∧ c.on f.g = false) ∧
    (∃ s u c, ∃ f : FmtA, ReadyAt s c .hypervisor [.xs f.s1 24 1, .xd f.d] u ∧ ReadyAt s c .hypervisor [.xs f.s1 24 1, .xs f.s2 16 1, .xd f.d] u ∧ c.on f.g = true ∧
      c.teamNamed u (c.xv f.s1) = none ∧ c.vfNamed u (c.xv f.s1) = none) ∧
    (∀ ts ∈ [TeamState.running, .inHandler, .checkpointed, .retiring], ∃ s u c, ∃ f : FmtA, ReadyAt s c .hypervisor [.xs f.s1 24 1, .xd f.d] u ∧ c.on f.g = true ∧
      ∃ t, c.teamNamed u (c.xv f.s1) = some t ∧ t.state = ts ∧ t.out = (ts == .checkpointed) ∧ (u.haltSet t).any (fun v => v.saveFor.isSome) = false ∧
        (u.haltSet t).any (fun v => v.state == .inHandler) = (ts == .inHandler)) ∧
    (∀ q ∈ [(0, false, none), (0, true, none), (0, true, some (0, 0, 0)), (1, false, none)], ∃ s u c, ∃ f : FmtA, ReadyAt s c .hypervisor [.xs f.s1 24 1, .xs f.s2 16 1, .xd f.d] u ∧
      c.on f.g = true ∧ c.vfNamed u (c.xv f.s1) = some (0, 0) ∧ u.areaOk 0 (c.xv f.s2) = true ∧ u.num (c.xv f.s2).toNat 8 = q.1 ∧ (u.vf 0).saving = q.2.1 ∧ (u.vf 0).saveOp = q.2.2) ∧
    (∃ s u c, ∃ f : FmtA, ReadyAt s c .hypervisor [.xs f.s1 24 1, .xs f.s2 16 1, .xd f.d] u ∧ c.on f.g = true ∧ c.vfNamed u (c.xv f.s1) = some (0, 0) ∧
      u.areaOk 0 (c.xv f.s2) = false) := by
  let g := sMod 0 [(4, 0x40000), (5, 64), (6, 2)]
  let t := fun st => (sPt .hypervisor 0 [(4, 1)]).modTeam 1 0 (fun t => { t with state := st })
  let v : Bool → Option (Nat × Nat × Nat) → State := fun a b => (sPt .hypervisor 0 []).modVf 0 (fun v => { v with saving := a, saveOp := b })
  let w := (v false none).setNum 0 8 1
  refine ⟨⟨g, g, ctxOf g, fa 9 4 5 6 0 1, readyAt_self (by decide) (by decide), readyAt_self (by decide) (by decide), by decide⟩,
    ⟨g, g, ctxOf g, fa 9 4 5 6 0, readyAt_self (by decide) (by decide), readyAt_self (by decide) (by decide), by decide⟩, fun ts hts => ?_, fun q hq => ?_,
    ⟨g.modPart 0 id, _, ctxOf (g.modPart 0 id), fa 9 0 5 0 0, readyAt_self (by decide) (by decide), by decide⟩⟩ <;> simp only [List.mem_cons, List.not_mem_nil, or_false] at *
  · rcases hts with rfl | rfl | rfl | rfl
    · exact ⟨t .running, _, ctxOf (t .running), fa 9 4 0 0 0, readyAt_self (by decide) (by decide), by decide, some_of (by decide)⟩
    · exact ⟨t .inHandler, _, ctxOf (t .inHandler), fa 9 4 0 0 0, readyAt_self (by decide) (by decide), by decide, some_of (by decide)⟩
    · exact ⟨t .checkpointed, _, ctxOf (t .checkpointed), fa 9 4 0 0 0, readyAt_self (by decide) (by decide), by decide, some_of (by decide)⟩
    · exact ⟨t .retiring, _, ctxOf (t .retiring), fa 9 4 0 0 0, readyAt_self (by decide) (by decide), by decide, some_of (by decide)⟩
  · rcases hq with rfl | rfl | rfl | rfl
    · exact ⟨v false none, _, ctxOf (v false none), fa 9 0 0 0 0, readyAt_self (by decide) (by decide), by decide⟩
    · exact ⟨v true none, _, ctxOf (v true none), fa 9 0 0 0 0, readyAt_self (by decide) (by decide), by decide⟩
    · exact ⟨v true (some (0, 0, 0)), _, ctxOf (v true (some (0, 0, 0))), fa 9 0 0 0 0, readyAt_self (by decide) (by decide), by decide⟩
    · exact ⟨w, w, ctxOf w, fa 9 0 0 0 0, readyAt_self (by decide) (by decide), by decide⟩


/-- The guard on and off; a launch from a block of memory; calls of two lanes; a fence with and without batches; `eret` in a handler and out
of one; a call of a hypervisor; each answer of a reply. -/
theorem witness_CallAndReturnResults :
    (∃ s u c, ∃ f : FmtA, Ready s c none [.xs f.s1 24 1, .xs f.s3 8 1, .xd f.d] u ∧ c.on f.g = false ∧ c.on 0 = true) ∧
    (∃ s u c, ∃ f : FmtA, Ready s c none [.xs f.s1 24 1, .xs f.s3 8 1, .xd f.d] u ∧ c.on f.g = true ∧ Level.hypervisor.rank ≤ c.p.level.rank ∧
      c.part u = some 0 ∧ (c.xv f.s3).toNat = 0 ∧ (u.part 0).hasVf (c.xv f.s3).toNat = true ∧ (c.xv f.s1).toNat % 64 = 0 ∧ u.launchFull (dieOf c.core) 0 = false ∧
      let r := u.locateLanes c.core 0 (c.acc u f.md.toNat) 0 [(lowestLane c.p.mask, c.xv f.s1 + 0x58)]
      r.1.miss = false ∧ ∃ q, r.1.ok.head? = some q ∧ (r.2.flushNow c.core).homeBad q.pa q.cmp = false ∧
        c.flagRoom (r.2.flushNow c.core) (ofBytes ((r.2.flushNow c.core).homeBytes q.pa 1 q.cmp)) = true) ∧
    (∀ n ∈ [0, 2], ∃ s u c, ∃ f : FmtA, Ready s c (some (c.guard f.g)) [.vs f.s1 24 8 3, .vs f.s2 16 2 3] u ∧ (lanesOf (c.guard f.g)).length = n ∧
      (∃ t, u.teamOf c.w = some t ∧ t.part = 0) ∧ n ≤ 2 ^ bits (u.part 0).callq 7 0 ∧ u.callBatches = [] ∧ (u.core c.core).popUsed 7 < 16 ∧
      u.ringFree (u.part 0).callq (u.part 0).callTail n = true ∧ okB (c.releaseReady u true) = true ∧ c.flagRoom u (f.s3.toNat % 16) = true) ∧
    (∃ s u c, Ready s c none [] u ∧ c.on 0 = true ∧ c.on 1 = false) ∧
    (∀ n < 2, ∃ s c, Issuing s c ∧ c.on 0 = true ∧
      (s.callBatches.filter (fun b => b.handle == c.w.handle && b.team == c.w.team && b.widx == c.w.widx)).length = n) ∧
    (∀ h ∈ [false, true], ∃ s c, Issuing s c ∧ c.on 0 = true ∧ Level.supervisor.rank ≤ c.p.level.rank ∧ c.svc = false ∧ c.p.handler = h) ∧
    (∃ s u c, ∃ f : FmtA, ReadyAt s c .hypervisor [.xs f.s1 24 4] u ∧ c.p.level ≠ .root ∧ c.on f.g = true ∧
      u.ringFree u.pkg.rcallq u.pkg.rcallTail 1 = true ∧ okB (c.releaseReady u true) = true ∧ c.flagRoom u (f.s3.toNat % 16) = true) ∧
    (∀ q ∈ [((4 : Word), false, false), (3, false, false), (3, true, false), (3, true, true)], ∃ s u c, ∃ f : FmtA, ReadyAt s c .hypervisor [.xs f.s1 24 1, .xs f.s2 16 1, .xd f.d] u ∧
      c.on f.g = true ∧ c.part u = some 0 ∧ bits (u.part 0).callq 7 0 = 2 ∧ c.xv f.s1 = q.1 ∧
      (q.1 = 3 → u.ringValid (ringSlot (u.part 0).callq 64 (c.xv f.s1).toNat) 64 = q.2.1) ∧ okB (c.releaseReady u true) = true ∧
      (u.callBatch 1 0 0).isSome = q.2.2) := by
  let s1 := sw (fun w => { w with x := [(4, 0)] })
  let l := (sMem (fun w => { w with paths := w.paths.map (fun p => { p with level := .hypervisor }) })).modLaunch 1 id
  let k : Nat → State := fun _ => (sp (fun p => { p with mask := 3 })).modPart 0 (fun p => { p with callq := 0x110001 })
  let b : CallBatch := { handle := 1, team := 0, batch := 0, widx := 0, sig := 15, epoch := 0, left := 1 }
  let cb : State := s0.addBatch 0 b
  let h := fun hd => sp (fun p => { p with level := .supervisor, handler := hd })
  let hy := sp (fun p => { p with level := .hypervisor })
  let r : Word → Nat → State := fun x v => (((sw (fun w => { w with x := [(4, x)], paths := w.paths.map (fun p => { p with level := .hypervisor }) })).modPart 0
    (fun p => { p with callq := 0x110002 })).setNum (0x110000 + 192 + 56) 8 (v * 2 ^ 63)).setNum (0x110000 + 192) 8 1
  refine ⟨⟨s1, s1, ctxOf s1, fa 9 4 0 5 0 1, ready_self (by decide), by decide⟩,
    ⟨l, l, ctxOf l, fa 9 4 0 5 0, ready_self (by decide), by decide, by decide, by decide, by decide, by decide, by decide, by decide, by decide, some_of (by decide)⟩,
    fun n hn => ?_, ⟨s0, s0, ctxOf s0, ready_self (by decide), by decide⟩, fun n hn => ?_, fun hd hh => ?_,
    ⟨hy, hy, ctxOf hy, fa 3 4 0 5 0, ⟨ready_self (by decide), by decide⟩, by decide⟩, fun q hq => ?_⟩
  · simp only [List.mem_cons, List.not_mem_nil, or_false] at hn
    rcases hn with rfl | rfl
    · exact ⟨k 0, k 0, ctxOf (k 0), fa 0 8 16 5 0 1, ready_self (by decide), by decide, some_of (by decide), by decide⟩
    · exact ⟨k 0, k 0, ctxOf (k 0), fa 0 8 16 5 0, ready_self (by decide), by decide, some_of (by decide), by decide⟩
  · have hn : n = 0 ∨ n = 1 := by omega
    rcases hn with rfl | rfl
    · exact ⟨s0, ctxOf s0, issuing (by decide), by decide⟩
    · exact ⟨cb, ctxOf cb, issuing (by decide), by decide⟩
  · simp only [List.mem_cons, List.not_mem_nil, or_false] at hh
    rcases hh with rfl | rfl
    · exact ⟨h false, ctxOf (h false), issuing (by decide), by decide⟩
    · exact ⟨h true, ctxOf (h true), issuing (by decide), by decide⟩
  · simp only [List.mem_cons, List.not_mem_nil, or_false] at hq
    rcases hq with rfl | rfl | rfl | rfl
    · exact ⟨r 4 0, _, ctxOf (r 4 0), fa 9 4 5 0 0, ⟨ready_self (by decide), by decide⟩, by decide⟩
    · exact ⟨r 3 0, _, ctxOf (r 3 0), fa 9 4 5 0 0, ⟨ready_self (by decide), by decide⟩, by decide⟩
    · exact ⟨r 3 1, _, ctxOf (r 3 1), fa 9 4 5 0 0, ⟨ready_self (by decide), by decide⟩, by decide⟩
    · exact ⟨(r 3 1).addBatch 0 b, _, ctxOf ((r 3 1).addBatch 0 b), fa 9 4 5 0 0, ⟨ready_self (by decide), by decide⟩, by decide⟩

/-- A draw; the guard off; the last lanes discarded; an attribute and an output of a lane of a footprint; a texel read, with the descriptor at address 0, first and issued again; a ray
batch with one place left; a batch of hits. -/
theorem witness_GraphicsResults :
    (∃ s u c, ∃ f : FmtA, Ready s c none [.xs f.s1 24 1] u ∧ c.on f.g = true ∧ (c.xv f.s1).toNat % 64 = 0 ∧ (u.die (dieOf c.core)).drawQueue.length < 64 ∧
      c.flagRoom u (f.s3.toNat % 16) = true) ∧
    (∃ s u c, ∃ f : FmtA, Ready s c none [.xs f.s1 24 1] u ∧ Ready s c (some (c.guard f.g)) [.vd f.d 1] u ∧ Ready s c (some (c.guard f.g)) [.vd f.d 4] u ∧
      Ready s c (some (c.guard f.g)) ([.vs f.s1 24 4 3] ++ (if f.md.getLsbD 0 then [.vs f.s2 16 1 3] else [])) u ∧ c.on f.g = false ∧ c.guard f.g = 0) ∧
    (∃ s, ∃ c : Ctx, Issuing s c ∧ c.guard 0 ≠ 0 ∧ (c.lastOf s (c.guard 0)).isSome = true ∧
      (∀ p ∈ s.ports, ∀ t ∈ p.2.txns, t.write = true → t.core = c.core → t.slot ∉ ((c.lastOf s (c.guard 0)).map (·.slots)).getD []) ∧
      (∀ sl ∈ ((c.lastOf s (c.guard 0)).map (·.slots)).getD [], s.linkError c.core sl = false)) ∧
    (∃ s u c, ∃ f : FmtA, Ready s c (some (c.guard f.g)) [.vd f.d 1] u ∧ Ready s c (some (c.guard f.g)) [.vs f.s1 24 4 3, .vs f.s2 16 1 3] u ∧ c.guard f.g ≠ 0 ∧
      f.md.getLsbD 0 = true ∧ ∃ t, c.foot u = some t ∧ f.s3.toNat % 16 + 1 = (t.attrs.headD []).length ∧ lanesOf (t.sent &&& c.guard f.g) = [] ∧
      u.mergerFull t.handle t.team (lanesOf (c.guard f.g)).length = false) ∧
    (∀ rep ∈ [false, true], ∃ s u c, ∃ f : FmtA, Issuing s c ∧ c.p.replay.isSome = rep ∧
      let k : Ctx := if rep then { c with w := c.w.full (.v [10, 11, 12, 13]) } else c
      k.begin s (some (c.guard f.g)) ([.vs f.s1 24 2 3, .xs f.s2 16 1] ++ (if rep then [] else [.vd f.d 4])) = .ok u ∧ c.guard f.g ≠ 0 ∧
      (rep = true → c.p.replay = some (c.p.pc, 1, .v [10, 11, 12, 13])) ∧ okB (k.descriptor u (c.guard f.g) (k.xv f.s2)) = true ∧ (u.core c.core).bstage = .idle ∧
      let r := u.locateLanes c.core 0 (k.acc u 0) 0 [(0, 0)]
      r.1.miss = false ∧ r.1.bad = [] ∧ r.2.flefinRoom (r.1.ok.map (fun q => (q.pa, 4))) = true) ∧
    (∃ s u c, ∃ f : FmtA, Ready s c (some (c.guard f.g)) [.vs f.s1 24 8 3, .xs f.s2 16 2] u ∧ c.guard f.g ≠ 0 ∧ (c.xv f.s2).toNat % 128 = 0 ∧
      (c.w.xr (opIdx f.s2 + 1)).toNat = 7 ∧ (u.core c.core).queued 4 = 7 ∧ (u.core c.core).hits.length + (u.core c.core).popUsed 5 = 7 ∧
      (u.core c.core).cmds.length < 512 ∧ c.flagRoom u (f.s3.toNat % 16) = true) ∧
    (∃ s u c, ∃ f : FmtA, Ready s c (some (c.guard f.g)) [.vd f.d 4] u ∧ c.guard f.g ≠ 0 ∧ ∃ b, (u.core c.core).hits.find? (fun h => h.slot == c.slot) = some b ∧
      b.hits.filter (fun q => (c.guard f.g).getLsbD q.1) ≠ []) := by
  let ft : State := { s0 with foots := [{ handle := 1, team := 0, tri := 0, ox := 0, oy := 0, front := true, mask := 1, xs := [0, 256, 0], ys := [0, 0, 256], qs := [1, 1, 1], attrs := [[0], [0], [0]] }] }
  let tx := sMem (fun w => { w with paths := w.paths.map (fun p => { p with mask := 1 }) })
  let rx := sMem (fun w => { w with ve := 1 <<< 10, paths := w.paths.map (fun p => { p with mask := 1, replay := some (p.pc, 1, .v [10, 11, 12, 13]) }) })
  let kx : Ctx := { ctxOf rx with w := (ctxOf rx).w.full (.v [10, 11, 12, 13]) }
  let c : Nat → Cmd := fun n => { seq := n, eng := 2, slot := 1, handle := 1, team := 0, widx := 0, pay := .ray { lanes := [], root := 0, flags := 0, space := 0 }, rec_ := true }
  let ry := (sw (fun w => { w with x := [(5, 7)] })).modCore 0 (fun k => { k with cmds := (List.range 7).map c })
  let h := sk (fun k => { k with hits := [{ seq := 0, slot := 0, hits := [(3, [1, 2, 3, 4])] }] })
  refine ⟨⟨s0, s0, ctxOf s0, fa 0 4 0 3 0, ready_self (by decide), by decide⟩, ⟨s0, s0, ctxOf s0, fa 9 4 0 3 0 1, ready_self (by decide), ready_self (by decide), ready_self (by decide), ready_self (by decide), by decide⟩,
    ⟨s0, ctxOf s0, issuing (by decide), by decide⟩,
    ⟨ft, ft, ctxOf ft, fa 9 4 8 0 1, ready_self (by decide), ready_self (by decide), by decide, by decide, some_of (by decide)⟩, fun rep hr => ?_,
    ⟨ry, ry, ctxOf ry, fa 0 8 4 3 0, ready_self (by decide), by decide⟩, ⟨h, h, ctxOf h, fa 8 0 0 0 0, ready_self (by decide), by decide, some_of (by decide)⟩⟩
  simp only [List.mem_cons, List.not_mem_nil, or_false] at hr
  rcases hr with rfl | rfl
  · exact ⟨tx, tx, ctxOf tx, fa 10 4 5 0 0, issuing (by decide), by decide, (ready_self (s := tx) (m := some ((ctxOf tx).guard 0)) (ops := [.vs 4 24 2 3, .xs 5 16 1, .vd 10 4]) (by decide)).operands, by decide⟩
  · exact ⟨rx, okOf rx (kx.begin rx (some ((ctxOf rx).guard 0)) [.vs 4 24 2 3, .xs 5 16 1]), ctxOf rx, fa 10 4 5 0 0, issuing (by decide), by decide,
      ok_of (r := kx.begin rx (some ((ctxOf rx).guard 0)) [.vs 4 24 2 3, .xs 5 16 1]) (by decide), by decide⟩

/-- A copy command 3 of the team, with this header and these arguments. -/
def copyCmd (h : Word) (args : List Word) (stage : CmdStage) : Cmd :=
  { seq := 3, eng := 1, slot := 0, handle := 1, team := 0, widx := 0, pay := .copy (h :: args) [], stage := stage }

/-- `s0` with this command in core 0. -/
def sc (c : Cmd) : State := sk (fun k => { k with cmds := [c] })

/-- The header of a copy command of operation `op` from kind to kind (EMOD `m`) with `n` arguments. -/
def head (op m n : Nat) : Word := BitVec.ofNat 64 (op * 2 ^ 40 + m * 2 ^ 36 + n * 2 ^ 32)

theorem witness_EngineEventResults :
    (∃ s : State, ∃ c, (s.core s.ev.a).cmd s.ev.b = some c ∧ c.forkOver (s.core s.ev.a) = true) ∧
    (∀ e ∈ [0, 1], ∃ s : State, ∃ c, (s.core s.ev.a).cmd s.ev.b = some c ∧ c.forkOver (s.core s.ev.a) = false ∧
      ((s.core s.ev.a).nextQueued c.eng).map (fun x => x.seq) = some c.seq ∧ s.waitOver s.ev.a c = true ∧ (s.core s.ev.a).inFlight c.eng < 512 ∧ c.eng = e ∧
      (s.team c.handle c.team).isSome = true) ∧
    (∀ mem ∈ [false, true], ∃ s : State, ∃ c, (s.core s.ev.a).cmd s.ev.b = some c ∧ c.eng = 1 ∧ c.stage = .queued ∧
      c.loamDests.any (fun a => s.loamLocked 0 a) = false ∧ decide (c.src.kind = 0 ∨ c.dst.kind = 0) = mem) ∧
    (∃ s : State, ∃ c, (s.core s.ev.a).cmd s.ev.b = some c ∧ c.eng = 1 ∧ c.stage = .queued ∧ c.loamDests.any (fun a => s.loamLocked 0 a) = true) ∧
    (∀ e ∈ [1, 3], ∃ s : State, ∃ c, (s.core s.ev.a).cmd s.ev.b = some c ∧ c.stage = .finished ∧ c.eng = e) ∧
    (∃ s : State, ∃ c, (s.core s.ev.a).cmd s.ev.b = some c ∧ c.fault.isSome = true ∧ c.abnd = false) ∧
    (∃ s : State, ∃ c, (s.core s.ev.a).cmd s.ev.b = some c ∧ s.serves s.ev.a c = true ∧ (s.launch c.handle).isSome = true) ∧
    (∃ s : State, ∃ c r, (s.core s.ev.a).cmd s.ev.b = some c ∧ c.pay = .ray r ∧ (s.team c.handle c.team).isSome = true ∧ c.stage = .running ∧ c.abnd = false ∧ c.fault = none ∧
      ((s.core s.ev.a).cmds.find? (fun x => x.eng == 2 && x.slot == c.slot && x.handle == c.handle && x.team == c.team && !x.abnd)).map (fun x => x.seq) = some c.seq ∧
      ∃ l v, s.traceRays s.ev.a (engAcc placedTeam c r.space) r.root.toNat r.flags r.lanes = .ok (l, v)) ∧
    (∀ op ∈ [0x01, 0x02, 0x03, 0x10, 0x11], ∃ s : State, ∃ c t, s.runningCopy s.ev.a s.ev.b op = some (c, t)) ∧
    (∃ s : State, ∃ t, s.team s.ev.a s.ev.b = some t ∧ t.heldAsync ≠ [] ∧ t.state = .running) := by
  let z : Cmd := copyCmd (head 1 1 4) [0, 0, 0, 0] .queued
  refine ⟨⟨at_ (sc { z with stage := .fork [] }) 0 3, some_of (by decide)⟩, fun e he => ?_, fun mem hm => ?_, ?_, fun e he => ?_,
    ⟨at_ (sc { z with fault := some { seq := 3, widx := 0, cause := 0x11, info := 0 } }) 0 3, some_of (by decide)⟩,
    ⟨at_ (sc { z with eng := 3, pay := .query 0 }) 0 3, some_of (by decide)⟩, ?_, fun op ho => ?_,
    ⟨at_ (st (fun t => { t with heldAsync := [{ seq := 3, widx := 0, cause := 0x11, info := 0 }] })) 1, some_of (by decide)⟩⟩
  · simp only [List.mem_cons, List.not_mem_nil, or_false] at he
    rcases he with rfl | rfl
    · exact ⟨at_ (sc { z with eng := 0 }) 0 3, some_of (by decide)⟩
    · exact ⟨at_ (sc z) 0 3, some_of (by decide)⟩
  · simp only [List.mem_cons, List.not_mem_nil, or_false] at hm
    rcases hm with rfl | rfl
    · exact ⟨at_ (sc { z with pay := .copy [head 1 3 4, 0, 0, 0, 0] [] }) 0 3, some_of (by decide)⟩
    · exact ⟨at_ (sc { z with pay := .copy [head 1 0 4, 0, 0, 0, 0] [] }) 0 3, some_of (by decide)⟩
  · exact ⟨at_ ((sc { z with pay := .copy [head 1 5 4, 0, 0, 0, 64] [] }).modLaunch 1 (fun l => { l with lpb := List.replicate 256 1 })) 0 3, some_of (by decide)⟩
  · simp only [List.mem_cons, List.not_mem_nil, or_false] at he
    rcases he with rfl | rfl
    · exact ⟨at_ (sc { z with stage := .finished }) 0 3, some_of (by decide)⟩
    · exact ⟨at_ (sc { z with eng := 3, stage := .finished }) 0 3, some_of (by decide)⟩
  · let r : RayCmd := { lanes := [], root := 0, flags := 0, space := 0 }
    let s := at_ (sc { z with eng := 2, pay := .ray r, stage := .running }) 0 3
    exact ⟨s, { z with eng := 2, pay := .ray r, stage := .running }, r, by decide, rfl, by decide, rfl, rfl, rfl, by decide, [], s, rfl⟩
  · have h : (at_ (sc (copyCmd (head op 0 0) [] .running)) 0 3).runningCopy 0 3 op = some (copyCmd (head op 0 0) [] .running, placedTeam) := by
      simp only [List.mem_cons, List.not_mem_nil, or_false] at ho
      rcases ho with rfl | rfl | rfl | rfl | rfl <;> decide
    exact ⟨_, _, _, h⟩

/-- What fetching the next chunk of a pair comes to: 0 fetched, 1 a fault, 2 a walk, 3 a permission miss, 4 later, 5 in the buffers. -/
def chunkCode (s : State) (pr : Nat) : Option Nat :=
  (s.nextChunk pr).bind (fun n => (s.matCmd pr n.seq).bind (fun q =>
    if ((s.pair pr).buffered n).isSome then some 5 else
    let product := decide (1 ≤ q.2.kind ∧ q.2.kind ≤ 3)
    let acc : Mat (SMap Lane) := if product && decide (n.chunk = 0) then s.startAcc pr n.seq q.2 else .ok n.run.acc
    let r : Mat (MatRun × State) := match acc with
      | .error e => .error e
      | .ok acc =>
        let r := { n.run with chunk := n.chunk, acc := acc, len := q.2.chunkLen, eu := 75 * cdiv q.2.vrow 32 }
        if product then s.productChunk pr q.1 q.2 r n.chunk else .ok (r, s)
    some (match r with | .ok _ => 0 | .error (.fault _ _ _) => 1 | .error (.walk _ _) => 2 | .error (.perm _) => 3 | .error (.late _) => 4)))

/-- The pair of the twins with a matrix command of a kind (that clears its tile) at its array. -/
def sArr (kind : Nat) (mp : SMap Word) (f : Pair → Pair) : State :=
  let s := sMat (fun w => { w with mp := mp })
  let m := { (ctxOf s).capture kind 0 1 [0x07000000] [0x07000000] with md := if kind = 0 then 0 else 1 }
  let c : Cmd := { seq := 3, eng := 0, slot := 0, handle := 1, team := 0, widx := 0, pay := .matrix m }
  at_ ((s.modCore 0 (fun k => { k with cmds := [c] })).modPair 0 (fun p => f { p with q0 := [(3, 0)], order := [(0, .cmd 3)], mc := 4 })) 0

theorem witness_MatrixEventResults :
    (∀ k < 6, ∃ s : State, chunkCode s s.ev.a = some k) ∧
    (∃ s : State, ∃ r, s.dueRun s.ev.a = some r ∧ (s.matCmd s.ev.a r.seq).isSome = true ∧ r.endsAt = (s.pair s.ev.a).mc) ∧
    (∃ s : State, ∃ z, (s.pair s.ev.a).freeze = some z ∧ z.failed = none ∧ z.loam = false ∧ ∃ t q, s.twinOf s.ev.a 0 = some t ∧ s.matCmd s.ev.a z.seq = some q ∧
      ∃ pa cmp v, s.locate t.core 4 (t.acc q.2.space q.1.level) z.off 4 = (.ok pa cmp, v)) ∧
    (∃ s : State, ∃ z, (s.pair s.ev.a).freeze = some z ∧ z.failed = none ∧ z.loam = true ∧ z.since = 0 ∧ 65536 * ncPeriod (s.die (s.ev.a / 64)).an + 1 = s.pkg.now - z.since) ∧
    (∃ s : State, ∃ z, (s.pair s.ev.a).freeze = some z ∧ z.failed.isSome = true) ∧
    (∀ n < 3, ∃ s : State, ∃ z, (s.pair s.ev.a).freeze = some z ∧ z.failed = none ∧
      (if n = 2 then s.freezeHeld s.ev.a z else !z.loam && (s.twinOf s.ev.a 0).any (fun t => (s.matCmd s.ev.a z.seq).any (fun q =>
        match (s.locate t.core 4 (t.acc q.2.space q.1.level) z.off 4).1 with | .miss => n == 0 | .fault k _ => n == 1 && k != 1 | _ => false))) = true) := by
  let base : SMap Word := [(0, 0x01010001)]
  let fr : Freeze → State := fun z => sArr 3 base (fun p => { p with freeze := some z })
  let tl := (fr { since := 0, seq := 3, loam := false, off := 64 }).modCore 0 (fun k =>
    { k with streams := [(4, { vf := 0, part := 0, space := 0, page := 0, log2 := 16, dpa := 0, r := true, w := true, x := false, u := true, cmp := false })] })
  let tl2 : State := { tl with fot := [(0, 1)] }
  refine ⟨fun k hk => ?_, ⟨sArr 0 base (fun p => { p with q0 := [], run := some { seq := 3, endsAt := 4 }, mc := 9 }), some_of (by decide)⟩, ?_,
    ⟨let s := fr { since := 0, seq := 3, loam := true, off := 0 }; { s with pkg := { s.pkg with now := 65536 * ncPeriod 0 + 1 } }, some_of (by decide)⟩,
    ⟨fr { since := 0, seq := 3, loam := true, off := 0, failed := some (0x11, 0) }, some_of (by decide)⟩, fun n hn => ?_⟩
  · have hk : k = 0 ∨ k = 1 ∨ k = 2 ∨ k = 3 ∨ k = 4 ∨ k = 5 := by omega
    rcases hk with rfl | rfl | rfl | rfl | rfl | rfl
    · exact ⟨sArr 0 base id, by decide⟩
    · exact ⟨(sArr 1 base id).modCore 0 (fun k => { k with spoison := [(0, true)] }), by decide⟩
    · exact ⟨sArr 3 base id, by decide⟩
    · exact ⟨sArr 2 base id, by decide⟩
    · exact ⟨{ (sArr 2 base (fun p => { p with permCache := [0] })).modLaunch 1 (fun l => { l with lpb := List.replicate 256 1 }) with loamFot := [(0, 0xE00)] }, by decide⟩
    · exact ⟨sArr 0 base (fun p => { p with buffer := some ({ seq := 3 }, 0) }), by decide⟩
  · obtain ⟨z, hz, h1⟩ := some_of (o := (tl2.pair 0).freeze) (P := fun z => z.failed = none ∧ z.loam = false ∧ z.seq = 3 ∧ z.off = 64) (by decide)
    obtain ⟨t, ht, h2⟩ := some_of (o := tl2.twinOf 0 0) (P := fun t => t = { placedTeam with half := some 0 }) (by decide)
    obtain ⟨q, hq, h3⟩ := some_of (o := tl2.matCmd 0 3) (P := fun q => q.2.space = 0 ∧ q.1.level = .user) (by decide)
    have hl : (tl2.locate 0 4 (({ placedTeam with half := some 0 } : Team).acc 0 .user) 64 4).1 = .ok 64 false := by decide
    refine ⟨tl2, z, hz, h1.1, h1.2.1, t, q, ht, by rw [h1.2.2.1]; exact hq, 64, false, (tl2.locate 0 4 (({ placedTeam with half := some 0 } : Team).acc 0 .user) 64 4).2, ?_⟩
    rw [h2, h3.1, h3.2, h1.2.2.2]
    exact Prod.ext hl rfl
  · let zf : Freeze := { since := 0, seq := 3, loam := false, off := 64 }
    let zh := (fr zf).modDie 0 (fun d => { d with walks := [{ id := 0, vf := 0, part := 0, space := 0, off := 64, acc := 4, level := .user, core := 0, held := some 0 }] })
    have hn : n = 0 ∨ n = 1 ∨ n = 2 := by omega
    rcases hn with rfl | rfl | rfl
    · exact ⟨fr zf, some_of (by decide)⟩
    · exact ⟨tl, some_of (by decide)⟩
    · exact ⟨zh, some_of (by decide)⟩

/-- A long-latency producer 3 of path 0 that waits for lane 3 of v10. -/
def long3 (kind : Pending) : LongOp :=
  { id := 3, slot := 0, path := 0, issued := 0, pc := 0, word := 0, mask := 8, lanes := 8, dest := .v [10], kind := kind }

/-- `s0` with this producer in core 0. -/
def sl (o : LongOp) (f : Warp → Warp := id) : State := at_ ((sw f).modCore 0 (fun k => { k with longs := [o] })) 0 3

/-- A write-back 3 of line 128. -/
def wb3 (arrived : Bool) : Writeback := { id := 3, line := 128, dirty := 1, valid := 1, data := [(128, 7)], bad := 0, arrived := arrived }

theorem witness_MemoryEventResults :
    (∃ s : State, ∃ w, (s.core s.ev.a).wbs.find? (fun w => w.id == s.ev.b && !w.arrived) = some w ∧
      w.after.any (fun i => (s.core s.ev.a).wbs.any (fun x => x.id == i)) = false ∧ (s.core s.ev.a).wbPending w.line w.id = false) ∧
    (∃ s : State, (s.core s.ev.a).wbs.any (fun w => w.id == s.ev.b && w.arrived) = true) ∧
    (∃ s : State, (s.core s.ev.a).reqs.find? (fun r => r.line == s.ev.b) = none) ∧
    (∃ s : State, ∃ r, (s.core s.ev.a).reqs.find? (fun r => r.line == s.ev.b) = some r ∧ (s.core s.ev.a).wbPending s.ev.b (s.core s.ev.a).nextId = false ∧
      (r.cmp && (s.core s.ev.a).atomicOn (s.ev.b ^^^ 1) (s.core s.ev.a).nextId) = false ∧ ((s.core s.ev.a).atomics.filter (fun a => a.lanes.any (fun q => lineOf q.pa == s.ev.b))) = []) ∧
    (∃ s : State, ∃ a, (s.core s.ev.a).atomics.find? (fun a => a.id == s.ev.b) = some a ∧ a.wbs.any (fun i => (s.core s.ev.a).wbs.any (fun w => w.id == i)) = false ∧
      a.lanes.any (fun q => (s.core s.ev.a).atomicOn (lineOf q.pa) a.id) = false) ∧
    (∃ s : State, ∃ o, (s.core s.ev.a).longs.find? (fun o => o.id == s.ev.b) = some o ∧ s.arrived s.ev.a o = none ∧ o.kind.loads.any (fun x => x.todo) = true) ∧
    (∀ live ∈ [false, true], ∃ s : State, ∃ o, (s.core s.ev.a).longs.find? (fun o => o.id == s.ev.b) = some o ∧ ((s.core s.ev.a).warp o.slot).live = live ∧
      ((s.core s.ev.a).warp o.slot).heldBy o = false ∧ ∃ a, s.arrived s.ev.a o = some a ∧ a.bad = 0) ∧
    (∀ late ∈ [false, true], ∃ s : State, ∃ o, (s.core s.ev.a).longs.find? (fun o => o.id == s.ev.b) = some o ∧ ((s.core s.ev.a).warp o.slot).live = true ∧
      ((s.core s.ev.a).warp o.slot).heldBy o = false ∧ (∃ a, s.arrived s.ev.a o = some a ∧ a.bad = 8) ∧
      ∃ p, ((s.core s.ev.a).warp o.slot).pathOf o 8 = some p ∧ s.lateNow s.ev.a o p = late) ∧
    (∃ s : State, ∃ p m t, (s.warp s.ev.a s.ev.b).path s.ev.c = some p ∧ p.wait = .mwait m ∧ m.poll = some t ∧ t = s.pkg.now) ∧
    (∃ s : State, s.refreshing s.ev.a = s.ev.b) ∧ (∃ s : State, s.refreshing s.ev.a ≠ s.ev.b) := by
  let mw : MWait := { pa := 64, w := 8, cond := 0, val := 0, home := true, poll := some 0 }
  let ld : Pending := .load 5 [{ lane := 3, off := 128, pa := 128, got := List.replicate 8 none, todo := true }] false
  refine ⟨⟨at_ (sk (fun k => { k with wbs := [wb3 false] })) 0 3, some_of (by decide)⟩, ⟨at_ (sk (fun k => { k with wbs := [wb3 true] })) 0 3, by decide⟩,
    ⟨at_ s0 0 128, by decide⟩, ⟨at_ (sk (fun k => { k with reqs := [{ line := 128, slot := 0 }] })) 0 128, some_of (by decide)⟩,
    ⟨at_ (sk (fun k => { k with atomics := [{ id := 3, slot := 0, path := 0, lanes := [], aop := 0, wide := true, cas := false, dest := .none, wbs := [2], acq := false }] })) 0 3, some_of (by decide)⟩,
    ⟨sl (long3 ld), some_of (by decide)⟩, fun live hl => ?_, fun late hl => ?_,
    ⟨at_ (sp (fun p => { p with wait := .mwait mw })) 0, by
      obtain ⟨p, h, h'⟩ := some_of (o := ((at_ (sp (fun p => { p with wait := .mwait mw })) 0).warp 0 0).path 0)
        (P := fun p => p.wait = .mwait mw) (by decide)
      exact ⟨p, mw, 0, h, h', rfl, by decide⟩⟩,
    ⟨at_ s0 0 0, by decide⟩, ⟨at_ s0 0 1, by decide⟩⟩
  · simp only [List.mem_cons, List.not_mem_nil, or_false] at hl
    rcases hl with rfl | rfl
    · exact ⟨sl (long3 (.done [] 0)) (fun w => { w with live := false }), long3 (.done [] 0), by decide, by decide, by decide, { ws := [], flags := 0 }, by decide⟩
    · exact ⟨sl (long3 (.done [] 0)), long3 (.done [] 0), by decide, by decide, by decide, { ws := [], flags := 0 }, by decide⟩
  · simp only [List.mem_cons, List.not_mem_nil, or_false] at hl
    rcases hl with rfl | rfl
    · exact ⟨(sl (long3 (.bad [] 8 0 .atomic))).modTeam 1 0 (fun t => { t with state := .halted }), long3 (.bad [] 8 0 .atomic), by decide, by decide, by decide,
        ⟨_, rfl, rfl⟩, some_of (by decide)⟩
    · exact ⟨sl (long3 (.bad [] 8 0 .atomic)), long3 (.bad [] 8 0 .atomic), by decide, by decide, by decide, ⟨_, rfl, rfl⟩, some_of (by decide)⟩

/-- `s0` with VF 0 taking launches, and a second launch of one warp (handle 9) whose LPB has these fields set, waiting on die 0. -/
def sLaunch (flds : List (Nat × Byte)) (f : Launch → Launch) (pools : List Pool) : State :=
  let b := flds.foldl (fun l q => l.set q.1 q.2) ((List.replicate 256 (0 : Byte)).set 8 1)
  let l := f { handle := 9, die := 0, vf := 0, part := 0, level := .root, space := 0, addr := 0, doms := [], csig := 15, lpb := b, state := .accepted, count := 1 }
  let s : State := { s0.modVf 0 (fun v => { v with vfq := 2 }) with launches := [placedLaunch, l], fot := (List.range 64).map (fun i => (i, 0xE00)) }
  at_ ((s.modDie 0 (fun d => { d with pools := pools })).modPart 0 (fun p => { p with ctxpool := 4 })) 9

/-- A state with the page tables of `sPt`. -/
def pt (s : State) : State :=
  let u := sPt .user 0 []
  let s := (s.modPart 0 (fun p => { p with s2base := 0x100000 })).modVf 0 (fun v => { v with spbase := 0x80001 })
  { s with fot := u.fot, mem := u.mem }

def pool0 : Pool := { num := 0, part := 0, ocstep := 0, ocwt := 0, clusters := [0] }

def gotOk {α : Type} (r : Got α) : Bool := match r with | .ok _ _ => true | _ => false

theorem got_ok {α : Type} {r : Got α} (h : gotOk r = true) : ∃ b t, r = .ok b t := by
  cases r with
  | ok b t => exact ⟨b, t, rfl⟩
  | wait t => cases h
  | bad q => cases h

def gotBad {α : Type} (r : Got α) : Bool := match r with | .bad _ => true | _ => false

theorem got_bad {α : Type} {r : Got α} (h : gotBad r = true) : ∃ q, r = .bad q := by
  cases r with
  | ok b t => cases h
  | wait t => cases h
  | bad q => exact ⟨q, rfl⟩

theorem witness_LaunchEventResults :
    (∃ s : State, ∃ l, s.launch s.ev.a = some l ∧ l.state = .queued ∧ (s.vf l.vf).saving = false ∧ l.batch.isSome = true) ∧
    (∃ s : State, ∃ l, s.launch s.ev.a = some l ∧ l.state = .queued ∧ (s.vf l.vf).saving = false ∧ l.batch = none ∧
      gotOk (s.unitRead l.unit (17 + 2 * l.vf) (l.acc l.space.toNat) l.addr 256) = true) ∧
    (∃ s : State, ∃ l, s.launch s.ev.a = some l ∧ l.state = .queued ∧ (s.vf l.vf).saving = false ∧ l.batch = none ∧
      gotBad (s.unitRead l.unit (17 + 2 * l.vf) (l.acc l.space.toNat) l.addr 256) = true) ∧
    (∃ s : State, ∃ l, s.launch s.ev.a = some l ∧ s.ev.c = 1 ∧ (s.nextLaunch l.die).map (fun x => x.handle) = some l.handle ∧ s.withQueued.canTake l s.ev.b = true ∧
      (s.pushCore l l.next).map dieOf = some (dieOf s.ev.b) ∧ (sget [] (s.die (clusterOf s.ev.b / 16)).clusterQ (clusterOf s.ev.b % 16)).length < 64) ∧
    (∃ s : State, ∃ l q, s.launch s.ev.a = some l ∧ s.ev.c = 2 ∧ (List.range 32).find? (fun q => s.stuckEntry q == some (l.handle, s.ev.b)) = some q) ∧
    (∃ s : State, ∃ l core, s.launch s.ev.a = some l ∧ s.ev.c ≠ 1 ∧ s.ev.c ≠ 2 ∧ s.nextEntry (clusterOf s.ev.b) = some (s.ev.a, core) ∧ s.canTake l s.ev.b = true ∧
      clusterOf core = clusterOf s.ev.b ∧ (s.placeOn l s.ev.b).isSome = true) ∧
    (∃ s : State, ∃ l, s.launch s.ev.a = some l ∧ l.due = some 0 ∧ l.crec = 0) ∧
    (∃ s : State, ∃ l, s.launch s.ev.a = some l ∧ l.due = some 2 ∧ l.crec ≠ 0 ∧ l.crec % 16 = 0 ∧
      gotOk (s.unitWrite l.unit (l.acc l.space.toNat) (BitVec.ofNat 64 l.crec) (s.recordOf l 2)) = true) ∧
    (∃ s : State, ∃ l, s.launch s.ev.a = some l ∧ l.due = some 2 ∧ l.crec ≠ 0 ∧ l.crec % 16 = 0 ∧
      gotBad (s.unitWrite l.unit (l.acc l.space.toNat) (BitVec.ofNat 64 l.crec) (s.recordOf l 2)) = true) ∧
    (∃ s : State, ∃ t, s.team s.ev.a s.ev.b = some t ∧ t.state = .placed ∧ t.startAt ≤ (s.core t.core).vc) ∧
    (∃ s : State, ∃ t, s.team s.ev.a s.ev.b = some t ∧ (s.haltSet t).all s.spent = true) ∧
    (∃ s : State, (s.die s.ev.a).balAt ≤ s.pkg.now) ∧
    (∀ c < 2, ∃ s : State, s.ev.c = c ∧ (s.modEntry s.ev.a s.ev.b).state = 1) ∧
    (∃ s : State, (s.modEntry s.ev.a s.ev.b).state = 3 ∧ (s.modEntry s.ev.a s.ev.b).res = 0) ∧
    (∃ s : State, ∃ o, (s.core s.ev.a).ops.find? (fun o => o.2.1 == 3) = some o ∧ o.1 = 5) ∧
    (∃ s : State, ∃ q, (s.core s.ev.a).ops.find? (fun o => decide (o.2.1 = 1 ∨ o.2.1 = 2) &&
        ((s.core s.ev.a).warp s.ev.b).paths.any (fun p => match p.wait with | .op i _ => i == o.1 | _ => false)) = some q ∧ q.1 = 5) ∧
    (∃ s : State, ∃ b, s.callBatch s.ev.a s.ev.b s.ev.c = some b ∧ b.left = 0 ∧ s.ev.a = 0) ∧
    (∀ out ∈ [false, true], ∃ s : State, ∃ b t, s.callBatch s.ev.a s.ev.b s.ev.c = some b ∧ b.left = 0 ∧ s.ev.a ≠ 0 ∧
      (s.dropBatch s.ev.a s.ev.b s.ev.c).team s.ev.a s.ev.b = some t ∧ t.out = out) := by
  let q : Launch → Launch := fun l => { l with state := .queued }
  let w : State → State := fun s => { s with ev := { s.ev with b := 1, c := 0 } }
  let b : CallBatch := { handle := 1, team := 0, batch := 0, widx := 0, sig := 15, epoch := 0, left := 0 }
  let m : Nat → Nat → State := fun c v => at_ (s0.setNum 160 1 v) 0 5 c
  refine ⟨⟨sLaunch [] (fun l => { l with state := .queued, batch := some (0, 0) }) [], some_of (by decide)⟩, ⟨pt (sLaunch [] q []), some_of (by decide)⟩,
    ⟨sLaunch [] (fun l => { q l with addr := 0xB400000000 }) [], some_of (by decide)⟩,
    ⟨at_ (sLaunch [] id [pool0]) 9 1 1, some_of (by decide)⟩, ?_, ?_,
    ⟨sLaunch [] (fun l => { l with retired := 1 }) [], some_of (by decide)⟩, ⟨pt (sLaunch [(0x50, 0x40)] (fun l => { l with state := .refused 2 }) []), some_of (by decide)⟩,
    ⟨sLaunch [(0x50, 0x40), (0x57, 1)] (fun l => { l with state := .refused 2 }) [], some_of (by decide)⟩,
    ⟨at_ (st (fun t => { t with state := .placed, startAt := 0 })) 1, some_of (by decide)⟩, ⟨at_ (sw (fun w => { w with live := false })) 1, some_of (by decide)⟩,
    ⟨s0, by decide⟩, fun c hc => ⟨m c 1, rfl, ?_⟩, ⟨m 0 3, by decide⟩, ⟨sk (fun k => { k with ops := [(5, 3, 0)] }), some_of (by decide)⟩,
    ⟨(sp (fun p => { p with wait := .op 5 .waiting })).modCore 0 (fun k => { k with ops := [(5, 1, 0)] }), some_of (by decide)⟩,
    ⟨at_ (s0.addBatch 0 { b with handle := 0 }) 0, some_of (by decide)⟩, fun out ho => ?_⟩
  · let s := (at_ (sLaunch [] (fun l => { l with next := 1 }) [pool0]) 9 0 2).modQueue 1 (fun _ => [(9, 0)])
    obtain ⟨l, hl, h1⟩ := some_of (o := s.launch 9) (P := fun l => l.handle = 9) (by decide)
    exact ⟨s, l, 1, hl, rfl, by rw [h1]; decide⟩
  · let s := (w (sLaunch [] (fun l => { l with next := 1 }) [pool0])).modQueue 0 (fun _ => [(9, 0)])
    obtain ⟨l, hl, h1, h2⟩ := some_of (o := s.launch 9) (P := fun l => s.canTake l 1 = true ∧ (s.placeOn l 1).isSome = true) (by decide)
    exact ⟨s, l, 0, hl, by decide, by decide, by decide, h1, by decide, h2⟩
  · have hc : c = 0 ∨ c = 1 := by omega
    rcases hc with rfl | rfl <;> decide
  · simp only [List.mem_cons, List.not_mem_nil, or_false] at ho
    rcases ho with rfl | rfl
    · exact ⟨at_ (s0.addBatch 0 b) 1, b, placedTeam, by decide⟩
    · exact ⟨at_ ((st (fun t => { t with state := .checkpointed })).addBatch 0 b) 1, b, { placedTeam with state := .checkpointed }, by decide⟩

def grp (home : Bool) (memb arr op : Nat) : GroupCtr := { handle := 1, group := 3, home := home, memb := memb, arr := arr, op := op }

/-- `s0` with these counters of group 3 of the team's launch on die 0 and die 1. -/
def sg (a b : List GroupCtr) : State := at_ ((s0.modDie 0 (fun d => { d with groups := a })).modDie 1 (fun d => { d with groups := b })) 1 1 3

theorem witness_BoundaryEventResults :
    (∃ s : State, (s.core s.ev.a).bstage = .idle ∧ (s.core s.ev.a).bnext ≠ []) ∧
    (∃ s : State, (s.core s.ev.a).bstage = .drain ∧ (s.core s.ev.a).accessing = false) ∧
    (∀ g ∈ [false, true], ∃ s : State, ∃ l, (s.core s.ev.a).bstage = .writeback l ∧ (s.core s.ev.a).writtenBack = true ∧ (s.core s.ev.a).bserve.any Boundary.isGroup = g) ∧
    (∃ s : State, ∃ t, s.team s.ev.a s.ev.b = some t ∧ s.barFull t = true) ∧
    (∀ op ∈ [0, 1], ∃ s : State, ∃ c home, (s.die s.ev.a).group s.ev.b s.ev.c = some c ∧ s.groupHome s.ev.b s.ev.c = some home ∧ c.home = false ∧ c.complete = true ∧
      c.forwarded = false ∧ c.op = op) ∧
    (∃ s : State, s.groupReady s.ev.a s.ev.b = true) ∧
    (∃ s : State, ∃ c, (s.die s.ev.a).group s.ev.b s.ev.c = some c ∧ c.memb = 1) ∧
    (∃ s : State, ∃ q l, (s.warp s.ev.a s.ev.b).active = q :: l ∧ l ≠ [] ∧ (s.warp s.ev.a s.ev.b).mismatched = true) := by
  refine ⟨⟨sk (fun k => { k with bnext := [.bar 1 0] }), by decide⟩, ⟨sk (fun k => { k with bstage := .drain }), by decide⟩, fun g hg => ?_,
    ⟨at_ (st (fun t => { t with barMask := 1 })) 1, some_of (by decide)⟩, fun op ho => ?_, ⟨{ sg [grp true 1 1 0] [] with ev := { s0.ev with a := 1, b := 3 } }, by decide⟩,
    ⟨sg [] [grp false 1 1 0], some_of (by decide)⟩,
    ⟨at_ (sw (fun w => { w with paths := w.paths.map (fun p => { p with wait := .point 1 }) ++ w.paths.map (fun p => { p with id := 1, wait := .rejoin 0 }) })) 0 0, _, _, rfl, by decide, by decide⟩⟩
  · simp only [List.mem_cons, List.not_mem_nil, or_false] at hg
    rcases hg with rfl | rfl
    · exact ⟨sk (fun k => { k with bstage := .writeback [3], bserve := [.bar 1 0] }), [3], by decide⟩
    · exact ⟨sk (fun k => { k with bstage := .writeback [3], bserve := [.bar 1 0, .group 1 3] }), [3], by decide⟩
  · simp only [List.mem_cons, List.not_mem_nil, or_false] at ho
    rcases ho with rfl | rfl
    · exact ⟨sg [grp true 1 0 0] [grp false 1 1 0], grp false 1 1 0, 0, by decide⟩
    · exact ⟨sg [grp true 1 0 0] [grp false 1 1 1], grp false 1 1 1, 0, by decide⟩

/-- A halted warp. -/
def halt0 : Halt := { cause := 9, async := false, info := 0, pc := 0, path := 0, lanes := 0 }

/-- The team of `sLaunch`'s launch (of `wpt` warps) that has been checkpointed. -/
def outTeam (i : Nat) (half : Option Nat) : Team :=
  { handle := 9, idx := i, core := 0, state := .checkpointed, wpt := 1, slots := [], base := 0, size := 0, spb := 0, vf := 0, part := 0, half := half, placeable := true, saved := some {} }

theorem witness_HandlerAndSaveEventResults :
    (∃ s : State, ∃ t, s.team s.ev.a s.ev.b = some t ∧ t.broadcastAt = some 0 ∧ 0 ≤ (s.core t.core).vc) ∧
    (∃ s : State, ∃ t, s.team s.ev.a s.ev.b = some t ∧ s.entering t = true) ∧
    (∃ s : State, ∃ t, s.team s.ev.a s.ev.b = some t ∧ t.out = false ∧ s.teamBlocked t = false) ∧
    (∀ v ∈ [none, some 0], ∃ s : State, ∃ t, s.team s.ev.a s.ev.b = some t ∧ t.out = false ∧ s.teamBlocked t = true ∧ t.blockedSince = v) ∧
    (∀ q ∈ [(true, none), (false, none), (false, some 0)], ∃ s : State, ∃ t, s.team s.ev.a s.ev.b = some t ∧ t.saveFor = some { kill := q.1 } ∧ t.state ≠ .saving ∧
      t.state ≠ .checkpointed ∧ t.state ≠ .retiring ∧ s.teamStopped t = true ∧ s.haltWaits t = false ∧ t.drainUntil = q.2 ∧ 0 ≤ s.pkg.now ∧ (s.haltSet t).all s.drainable = true) ∧
    (∃ s : State, ∃ t l v, s.team s.ev.a s.ev.b = some t ∧ s.launch s.ev.a = some l ∧ t.state = .checkpointed ∧ t.placeable = true ∧ t.half ≠ some 1 ∧
      s.canTake l s.ev.c = true ∧ t.saved = some v ∧ l.twin = false ∧ (s.restoreOne l t v s.ev.c).isSome = true) ∧
    (∃ s : State, ∃ t l v u v', s.team s.ev.a s.ev.b = some t ∧ s.launch s.ev.a = some l ∧ t.state = .checkpointed ∧ t.placeable = true ∧ t.half ≠ some 1 ∧
      s.canTake l s.ev.c = true ∧ t.saved = some v ∧ l.twin = true ∧ s.team s.ev.a (s.ev.b + 1) = some u ∧ u.saved = some v' ∧
      ((s.restorePair t v s.ev.c).restoreOne l t v s.ev.c).any (fun r => (r.restoreOne l u v' (s.ev.c + 1)).isSome) = true) ∧
    (∃ s : State, ∃ t, s.teamOf (s.warp s.ev.a s.ev.b) = some t ∧ s.watchdogDue s.ev.a s.ev.b = true) ∧
    (∃ s : State, ∃ l, s.launch s.ev.a = some l ∧ s.wantsRoom l = false) ∧
    (∃ s : State, ∃ l, s.launch s.ev.a = some l ∧ s.wantsRoom l = true ∧ l.waitSince = none) ∧
    (∀ q ∈ [(true, true, false), (false, true, true), (true, false, true)], ∃ s : State, ∃ l, s.launch s.ev.a = some l ∧ s.wantsRoom l = true ∧ l.waitSince = some 0 ∧
      decide (0 + micros (bits (s.part l.part).pmctl 63 48) ≤ s.pkg.now) = q.1 ∧
      (s.teams.any (fun t => t.part == l.part && !t.slots.isEmpty && decide (s.prioOf t.handle < l.prio))) = q.2.1 ∧
      (s.teams.any (fun t => t.part == l.part && t.eligible && !t.slots.isEmpty)) = q.2.2) := by
  let idle := at_ (sp (fun p => { p with wait := .mwait { pa := 64, w := 8, cond := 0, val := 0, home := true } })) 1
  let sv : Bool → Option Nat → State := fun k d => at_ ((sw (fun w => { w with stopped := true })).modTeam 1 0 (fun t => { t with saveFor := some { kill := k }, drainUntil := d })) 1
  let one := at_ { sLaunch [] (fun l => { l with next := 1, started := 1 }) [pool0] with teams := [placedTeam, outTeam 0 none] } 9 0 1
  let two := at_ { sLaunch [(0x0A, 2)] (fun l => { l with next := 2, started := 2, count := 2 }) [pool0] with teams := [placedTeam, outTeam 0 (some 0), outTeam 1 (some 1)] } 9 0 2
  let wants : Option Nat → Word → Bool → Nat → State := fun w p e n =>
    let s := ((sLaunch [(0x0A, 0x10)] (fun l => { l with waitSince := w }) []).modPart 0 (fun q => { q with pmctl := p })).modTeam 1 0 (fun t => { t with eligible := e })
    { s with pkg := { s.pkg with now := n } }
  refine ⟨⟨at_ (st (fun t => { t with broadcastAt := some 0 })) 1, some_of (by decide)⟩,
    ⟨at_ ((sw (fun w => { w with stopped := true, halt := some halt0 })).modTeam 1 0 (fun t => { t with state := .halted, haltWarp := some 0 })) 1, some_of (by decide)⟩,
    ⟨at_ s0 1, some_of (by decide)⟩, fun v hv => ?_, fun q hq => ?_, ⟨one, outTeam 0 none, ?_⟩, ⟨two, outTeam 0 (some 0), ?_⟩,
    ⟨at_ ((sw (fun w => { w with handler := some { halt := halt0, depth := 0, hpc := 0, due := 0 } })).modTeam 1 0 id) 0 0, some_of (by decide)⟩,
    ⟨at_ s0 1, some_of (by decide)⟩, ⟨wants none 0 false 0, some_of (by decide)⟩, fun q hq => ?_⟩
  · simp only [List.mem_cons, List.not_mem_nil, or_false] at hv
    rcases hv with rfl | rfl
    · exact ⟨idle, some_of (by decide)⟩
    · exact ⟨idle.modTeam 1 0 (fun t => { t with blockedSince := some 0 }), some_of (by decide)⟩
  · simp only [List.mem_cons, List.not_mem_nil, or_false] at hq
    rcases hq with rfl | rfl | rfl
    · exact ⟨sv true none, some_of (by decide)⟩
    · exact ⟨sv false none, some_of (by decide)⟩
    · exact ⟨sv false (some 0), some_of (by decide)⟩
  · obtain ⟨l, hl, h⟩ := some_of (o := one.launch 9) (P := fun l => one.canTake l 1 = true ∧ l.twin = false ∧ (one.restoreOne l (outTeam 0 none) {} 1).isSome = true) (by decide)
    exact ⟨l, {}, by decide, hl, rfl, rfl, by decide, h.1, rfl, h.2⟩
  · obtain ⟨l, hl, h⟩ := some_of (o := two.launch 9) (P := fun l => two.canTake l 2 = true ∧ l.twin = true) (by decide)
    refine ⟨l, {}, outTeam 1 (some 1), {}, by decide, hl, rfl, rfl, by decide, h.1, rfl, h.2, by decide, rfl, ?_⟩
    have e : two.launch 9 = some l := hl
    have e' : (two.launch 9).any (fun l => ((two.restorePair (outTeam 0 (some 0)) {} 2).restoreOne l (outTeam 0 (some 0)) {} 2).any
      (fun r => (r.restoreOne l (outTeam 1 (some 1)) {} 3).isSome)) = true := by decide
    rw [e] at e'; exact e'
  · simp only [List.mem_cons, List.not_mem_nil, or_false] at hq
    rcases hq with rfl | rfl | rfl
    · exact ⟨wants (some 0) 0 false 0, some_of (by decide)⟩
    · exact ⟨wants (some 0) (1 <<< 48) true 0, some_of (by decide)⟩
    · let s := (wants (some 0) 0 true 0).modLaunch 1 (fun l => { l with lpb := (List.replicate 256 (0 : Byte)).set 0x0A 0x10 })
      exact ⟨s, some_of (by decide)⟩

/-- The time of a state. -/
def after (s : State) (n : Nat) : State := { s with pkg := { s.pkg with now := n } }

theorem witness_PowerEventResults :
    (∃ s : State, (s.warp s.ev.a s.ev.b).parked = 65536) ∧
    (∀ hit ∈ [[], [0, 1]], ∃ s : State, ((railClusters s.ev.a).filter (fun cl => (s.partsOfCluster cl).any (fun p => decide ((s.part p).d0 + (s.part p).slew / 2 < (s.part p).d1)))) = hit) ∧
    (∃ s : State, ∃ t, (s.rail s.ev.a).halfUntil = some t ∧ t = s.pkg.now) := by
  refine ⟨⟨at_ (sw (fun w => { w with parked := 65536 })) 0, by decide⟩, fun hit hh => ?_, ⟨at_ (s0.modRail 0 (fun r => { r with halfUntil := some 0 })) 0, 0, by decide⟩⟩
  simp only [List.mem_cons, List.not_mem_nil, or_false] at hh
  rcases hh with rfl | rfl
  · exact ⟨at_ (s0.modPart 0 (fun p => { p with d0 := 3, d1 := 5, slew := 4 })) 0, by decide⟩
  · exact ⟨at_ (s0.modPart 0 (fun p => { p with d0 := 3, d1 := 6, slew := 4 })) 0, by decide⟩

/-- Cluster 0 with this grant on the way. -/
def sGrant (f : Cluster → Cluster) (n : Nat) (run : Option MatRun) : State := at_ (after ((s0.modCluster 0 f).modPair 0 (fun p => { p with run := run })) n) 0

theorem witness_GrantEventResults :
    (∃ s : State, s.idleDue s.ev.a = true) ∧
    (∀ m ∈ [0, 1], ∃ s : State, ∃ v t, (s.cluster s.ev.a).pending = some (m, v, t) ∧ s.quiet s.ev.a = true ∧ (s.cluster s.ev.a).relockUntil = none ∧
      decide ((s.rail (s.ev.a / 2)).volt < max m v) = (m == 1)) ∧
    (∃ s : State, ∃ m v t, (s.cluster s.ev.a).pending = some (m, v, t) ∧ t + micros 50 = s.pkg.now ∧ s.quiet s.ev.a = false) ∧
    (∃ s : State, ∃ t, (s.cluster s.ev.a).relockUntil = some t ∧ t = s.pkg.now) := by
  refine ⟨⟨at_ (after ((st (fun t => { t with slots := [] })).modDie 0 (fun d => { d with pools := [{ num := 0, part := 0, ocstep := 0, ocwt := 0, clusters := [0] }] })) (micros 50)) 0, by decide⟩,
    fun m hm => ?_, ⟨sGrant (fun k => { k with pending := some (1, 0, 0) }) (micros 50) (some { seq := 0, endsAt := 9 }), 1, 0, 0, by decide⟩,
    ⟨sGrant (fun k => { k with relockUntil := some 0 }) 0 none, 0, by decide⟩⟩
  simp only [List.mem_cons, List.not_mem_nil, or_false] at hm
  rcases hm with rfl | rfl
  · exact ⟨sGrant (fun k => { k with pending := some (0, 0, 0) }) 0 none, 0, 0, by decide⟩
  · exact ⟨sGrant (fun k => { k with pending := some (1, 0, 0) }) 0 none, 0, 0, by decide⟩

/-- A draw batch 2 of the team's warp with its record at `off`. -/
def batch2 (off : Word) : Batch :=
  { home := 0, num := 2, core := 0, handle := 1, team := 0, widx := 0, sig := 15, vf := 0, part := 0, space := 0, level := .user, off := off, record := List.replicate 128 0 }

def sb (b : Batch) (fr : List Frag := []) : State := at_ (pt (s0.modDie 0 (fun d => { d with batches := [b], frags := fr }))) 0 2

def frag5 : Frag := { id := 2, home := 0, batch := 2, px := 0, py := 0, handle := 1, team := 0, lane := 0, z := 0, out := some ([0, 0, 0, 0], 0) }

theorem witness_DisplayEventResults :
    (∃ s : State, ∃ b, s.drawReady s.ev.a = some b ∧ s.launchFull s.ev.a b.part = false ∧ gotBad (s.unitRead b.core 1 b.acc b.off 128) = true) ∧
    (∃ s : State, ∃ b, s.drawReady s.ev.a = some b ∧ s.launchFull s.ev.a b.part = false ∧ gotOk (s.unitRead b.core 1 b.acc b.off 128) = true) ∧
    (∃ s : State, ∃ b, s.toForward s.ev.a = some b ∧ b.num = 2) ∧
    (∃ s : State, ∃ f, (s.die s.ev.a).frags.find? (fun f => f.id == s.ev.b) = some f ∧ s.dead f = true) ∧
    (∀ bad ∈ [false, true], ∃ s : State, ∃ f src zf b, (s.die s.ev.a).frags.find? (fun f => f.id == s.ev.b) = some f ∧ s.dead f = false ∧ f.out = some (src, zf) ∧
      (s.die s.ev.a).batchOf f = some b ∧ (s.die s.ev.a).first f = true ∧ (match s.output b f src zf with | .ok e _ => e == bad | _ => false) = true) ∧
    (∃ s : State, ∃ f src zf b, (s.die s.ev.a).frags.find? (fun f => f.id == s.ev.b) = some f ∧ s.dead f = false ∧ f.out = some (src, zf) ∧
      (s.die s.ev.a).batchOf f = some b ∧ (s.die s.ev.a).first f = true ∧ (match s.output b f src zf with | .wait _ => true | _ => false) = true) ∧
    (∃ s : State, ∃ b, (s.die s.ev.a).batches.find? (fun b => b.home == s.ev.a && b.num == s.ev.b) = some b ∧ s.batchDone b = true ∧
      gotOk (s.unitWrite b.core b.acc (b.off + 0x50) (leBytes (lowerStatus b.status
        (match (s.die (1 - s.ev.a)).batches.find? (fun x => x.home == s.ev.a && x.num == b.num) with | some o => o.status | none => 0)) 8)) = true) := by
  let far : Batch := { batch2 0 with record := (List.replicate 128 0).set 0x2F 1, accepted := true }
  refine ⟨⟨at_ (s0.modDie 0 (fun d => { d with batches := [batch2 0] })) 0 2, some_of (by decide)⟩, ⟨sb (batch2 0), some_of (by decide)⟩, ⟨sb { batch2 0 with accepted := true, split := true }, some_of (by decide)⟩,
    ⟨sb (batch2 0) [{ frag5 with out := none }], some_of (by decide)⟩, fun bad hb => ?_,
    ⟨(sb { batch2 0 with accepted := true } [frag5]).setNum 0x100000 8 0, frag5, [0, 0, 0, 0], 0, { batch2 0 with accepted := true }, by decide⟩,
    ⟨sb { batch2 0 with accepted := true, ended := true }, some_of (by decide)⟩⟩
  simp only [List.mem_cons, List.not_mem_nil, or_false] at hb
  rcases hb with rfl | rfl
  · exact ⟨sb { batch2 0 with accepted := true } [frag5], frag5, [0, 0, 0, 0], 0, { batch2 0 with accepted := true }, by decide⟩
  · exact ⟨sb far [frag5], frag5, [0, 0, 0, 0], 0, far, by decide⟩

theorem witness_RegisterEventResults :
    (∃ s : State, ∃ p, s.partOfVf s.ev.a = some p ∧ p = 0) ∧ (∃ s : State, (s.taskRecords s.ev.a).isEmpty = false) ∧
    (∃ s : State, bits s.ev.w 63 14 = 0 ∧ (bit s.ev.w 12 = true → (s.modEntry s.ev.a (bits s.ev.w 11 0)).state = 2)) := by
  exact ⟨⟨at_ s0 0, some_of (by decide)⟩, ⟨at_ (s0.modLaunch 1 (fun l => { l with next := 0 })) 0, by decide⟩, ⟨at_ s0 0 0 0 0x2000, by decide⟩⟩

/-- A read of 4 bytes of VF 0 at an offset of space 0. -/
def req0 (off : Word) : InboundReq := { vf := 0, space := 0, off := off, wr := none, len := 4 }

/-- `s0` with VF 0 bound as `b` says, port 0 the partition's, and this request. -/
def sLink (b : Word) (off : Word) : State :=
  let s := (pt (s0.modVf 0 (fun v => { v with vfq := 1 + 4 * b }))).modPart 0 (fun p => { p with desc := p.desc.set 0x49 1 })
  { s with ev := { s.ev with a := 0, b := 0, c := 0, w := 64, req := some (req0 off) } }

def txn0 : FleTxn := { id := 3, core := 0, slot := 0, long_ := none, write := false, off := 0, size := 4, sentAt := 0 }

/-- A doorbell's SPACE; its address with room, with the queue full and misaligned; a request over PCIe and over a port, done and refused; a
transaction at its last moment. -/
theorem witness_LinkEventResults :
    (∀ c < 2, ∃ s : State, s.partOfVf s.ev.a = some 0 ∧ (s.vf s.ev.a).enabled = true ∧ (s.vf s.ev.a).bind = 1 ∧ (s.vf s.ev.a).saving = false ∧ s.ev.c = c ∧
      (c = 0 → s.launchFull (s.ev.a / 256) 0 = false ∧ s.ev.w.toNat % 64 = 0)) ∧
    (∃ s : State, s.partOfVf s.ev.a = some 0 ∧ (s.vf s.ev.a).enabled = true ∧ (s.vf s.ev.a).bind = 1 ∧ (s.vf s.ev.a).saving = false ∧ s.ev.c ≠ 1 ∧
      s.launchFull (s.ev.a / 256) 0 = true) ∧
    (∃ s : State, s.partOfVf s.ev.a = some 0 ∧ (s.vf s.ev.a).enabled = true ∧ (s.vf s.ev.a).bind = 1 ∧ (s.vf s.ev.a).saving = false ∧ s.ev.c ≠ 1 ∧
      s.launchFull (s.ev.a / 256) 0 = false ∧ s.ev.w.toNat % 64 = 1) ∧
    (∃ s : State, ∃ r, s.ev.req = some r ∧ (s.vf r.vf).enabled = true ∧ (s.vf r.vf).bind = 1) ∧
    (∀ got ∈ [false, true], ∃ s : State, ∃ r, s.ev.req = some r ∧ (s.vf r.vf).enabled = true ∧ (s.vf r.vf).bind = s.ev.a + 2 ∧
      s.partOfVf r.vf = some 0 ∧ Nat.testBit (s.part 0).portMask s.ev.a = true ∧ (s.port s.ev.a).down = false ∧
      (s.inbound s.ev.a s.ev.b r (128 * portDie s.ev.a) 3 r.space).1.isSome = got) ∧
    (∃ s : State, ∃ t, (s.port s.ev.a).txns.find? (fun t => t.id == s.ev.b) = some t ∧ t.sentAt + micros 100 = s.pkg.now) := by
  let full : State := { (sLink 1 0).modVf 0 (fun v => { v with vfq := 7 }) with launches := List.replicate 256 { placedLaunch with next := 0 } }
  let odd := sLink 1 0
  let far := { sLink 2 0 with mem := [] }
  refine ⟨fun c hc => ?_, ⟨full, by decide⟩, ⟨{ odd with ev := { odd.ev with w := 65 } }, by decide⟩, ⟨odd, some_of (by decide)⟩, fun got hg => ?_,
    ⟨at_ (after (s0.modPort 0 (fun k => { k with txns := [txn0] })) (micros 100)) 0 3, some_of (by decide)⟩⟩
  · have h : c = 0 ∨ c = 1 := by omega
    rcases h with rfl | rfl
    · exact ⟨odd, by decide⟩
    · exact ⟨{ odd with ev := { odd.ev with c := 1 } }, by decide⟩
  · simp only [List.mem_cons, List.not_mem_nil, or_false] at hg
    rcases hg with rfl | rfl
    · exact ⟨far, req0 0, by decide⟩
    · exact ⟨sLink 2 0, req0 0, by decide⟩

/-- `s0` with a descriptor for partition 1 that gives it pair 7 of die 1, service core 11 and VF 300, and with its kernel image at 64 KiB a
header of type `ty`. Partition 0 keeps to die 0. -/
def sDesc (ty : Byte) : State :=
  let d := leBytes 0xB00 8 ++ leBytes 0 8 ++ leBytes 0x80 8 ++ List.replicate 0x28 (0 : Byte) ++ leBytes (300 + 512) 4 ++ List.replicate 12 0 ++ leBytes 0x10000 8 ++ leBytes 0x40 8
  let s := s0.modPart 0 (fun p => { p with desc := leBytes 0x101 8 ++ leBytes 1 8 ++ List.replicate 0x30 0 ++ leBytes (512 * 4) 4 ++ List.replicate (256 - 0x44) 0 })
  at_ ((s.setBytes 0x100 d).setBytes 0x10000 [0x54, 0x4B, 0x46, 0x57, ty]) 1

theorem witness_BootEventResults :
    (∃ s : State, s.pkg.powered = false) ∧ (∃ s : State, s.pkg.powered = true ∧ s.pkg.bootStage = 0) ∧
    (∃ s : State, s.pkg.standby = false ∧ s.launches = [] ∧ s.teams = []) ∧
    (∃ s : State, (s.part s.ev.a).valid = true) ∧
    (∀ q ∈ [true, false], ∃ s : State, (s.part s.ev.a).valid = false ∧ badDesc (s.bytes (s.descAt s.ev.a) 256) = q ∧
      s.descTaken s.ev.a { valid := true, desc := leBytes (fieldAt (s.bytes (s.descAt s.ev.a) 256) 0 8 / 2 * 2 + 1) 8 ++ (s.bytes (s.descAt s.ev.a) 256).drop 8, keyed := true } = !q) ∧
    (∀ q ∈ [true, false], ∃ s : State, let b := s.bytes (s.descAt s.ev.a) 256
      let n : Part := { valid := true, desc := leBytes (fieldAt b 0 8 / 2 * 2 + 1) 8 ++ b.drop 8, keyed := true }
      (s.part s.ev.a).valid = false ∧ (badDesc b || s.descTaken s.ev.a n) = false ∧
      s.teams.any (fun t => !t.slots.isEmpty && Nat.testBit (n.pairs (dieOf t.core)) (t.core % 128 / 2)) = q ∧ s.fwCode (s.kernelImage b) 2 = 3) ∧
    (∃ s : State, let b := s.bytes (s.descAt s.ev.a) 256
      let n : Part := { valid := true, desc := leBytes (fieldAt b 0 8 / 2 * 2 + 1) 8 ++ b.drop 8, keyed := true }
      let img := s.kernelImage b
      (s.part s.ev.a).valid = false ∧ (badDesc b || s.descTaken s.ev.a n) = false ∧
      s.teams.any (fun t => !t.slots.isEmpty && Nat.testBit (n.pairs (dieOf t.core)) (t.core % 128 / 2)) = false ∧
      (Config.sha384 [] = (img.drop 0x10).take 48 → Config.ecdsaOk s.pkg.keyBlock (Config.sha384 (img.take 0x40)) [] = true →
        Config.lmsOk s.pkg.keyBlock (img.take 0x40) [] = true → s.fwCode img 2 = 0)) ∧
    (∃ s : State, (s.part s.ev.a).valid = false) ∧
    (∀ q ∈ [true, false], ∃ s : State, (s.part s.ev.a).valid = true ∧
      (s.launches.any (fun l => l.part == s.ev.a) || (List.range (s.part s.ev.a).vfCount).any (fun i => bit (s.vf ((s.part s.ev.a).vfBase + i)).vfq 0)) = q) := by
  let one : State := sDesc 0
  refine ⟨⟨{ s0 with pkg := { s0.pkg with powered := false } }, rfl⟩, ⟨{ s0 with pkg := { s0.pkg with bootStage := 0 } }, by decide⟩, ⟨State.reset, by decide⟩, ⟨at_ s0 0, by decide⟩,
    fun q hq => ?_, fun q hq => ?_, ⟨sDesc 2, ?_⟩, ⟨at_ s0 1, by decide⟩, fun q hq => ?_⟩
  · simp only [List.mem_cons, List.not_mem_nil, or_false] at hq
    rcases hq with rfl | rfl
    · exact ⟨one.setBytes 0x100 [2, 0xB], by decide⟩
    · exact ⟨one.modPart 0 (fun p => { p with desc := p.desc.set 1 0xB }), by decide⟩
  · simp only [List.mem_cons, List.not_mem_nil, or_false] at hq
    rcases hq with rfl | rfl
    · exact ⟨one.modTeam 1 0 (fun t => { t with core := 142 }), by decide⟩
    · exact ⟨one, by decide⟩
  · have e : (let s := sDesc 2; let b := s.bytes (s.descAt s.ev.a) 256; s.kernelImage b) = [0x54, 0x4B, 0x46, 0x57, 2] ++ List.replicate 59 0 := by decide
    refine ⟨by decide, by decide, by decide, ?_⟩
    intro h1 h2 h3
    show (sDesc 2).fwCode ((sDesc 2).kernelImage ((sDesc 2).bytes ((sDesc 2).descAt (sDesc 2).ev.a) 256)) 2 = 0
    simp only [show (sDesc 2).kernelImage ((sDesc 2).bytes ((sDesc 2).descAt (sDesc 2).ev.a) 256) = [0x54, 0x4B, 0x46, 0x57, 2] ++ List.replicate 59 0 from e] at h1 h2 h3 ⊢
    unfold State.fwCode
    rw [if_neg (by decide), if_neg (by decide), if_neg (fun h => h.elim (by decide) (fun h => h h1)),
      if_neg (by
        show ¬ (!Config.ecdsaOk (sDesc 2).pkg.keyBlock (Config.sha384 (([0x54, 0x4B, 0x46, 0x57, 2] ++ List.replicate 59 (0 : Byte)).take 0x40)) [] ||
          !Config.lmsOk (sDesc 2).pkg.keyBlock (([0x54, 0x4B, 0x46, 0x57, 2] ++ List.replicate 59 (0 : Byte)).take 0x40) []) = true
        rw [h2, h3]; decide)]
  · simp only [List.mem_cons, List.not_mem_nil, or_false] at hq
    rcases hq with rfl | rfl
    · exact ⟨at_ s0 0, by decide⟩
    · exact ⟨{ at_ s0 0 with launches := [] }, by decide⟩

/-- A path before `w`, chosen to issue. -/
def start (w : Nat) : State := State.reset.withFetchWord 64 w

def goB (p : Prep) : Bool := match p with | .go _ _ => true | _ => false
def trapB (p : Prep) : Bool := match p with | .trap _ _ _ _ _ => true | _ => false
def noneB (p : Prep) : Bool := match p with | .none _ _ => true | _ => false
theorem prep_go {p : Prep} (h : goB p = true) : ∃ i u, p = .go i u := by cases p <;> first | exact ⟨_, _, rfl⟩ | cases h
def goOf (p : Prep) : Instr × State := match p with | .go i u => (i, u) | _ => (.nop { d := 0, s1 := 0, s2 := 0, s3 := 0, md := 0, g := 0 }, State.reset)
theorem go_of {p : Prep} (h : goB p = true) : p = .go (goOf p).1 (goOf p).2 := by cases p <;> first | rfl | cases h
def nextB (o : Host.Outcome State Fault Refusal) : Bool := match o with | .next _ => true | _ => false
theorem next_of {o : Host.Outcome State Fault Refusal} (h : nextB o = true) : ∃ v, o = .next v := by cases o <;> first | exact ⟨_, rfl⟩ | cases h
theorem prep_trap {p : Prep} (h : trapB p = true) : ∃ u c n i l, p = .trap u c n i l := by cases p <;> first | exact ⟨_, _, _, _, _, rfl⟩ | cases h
theorem prep_none {p : Prep} (h : noneB p = true) : ∃ k u, p = .none k u := by cases p <;> first | exact ⟨_, _, rfl⟩ | cases h

/-- A path may be attempted (the premises common to the two statements of a step). -/
abbrev attempt (s : State) (t : Turn) (p : Path) : Prop :=
  (s.core t.core |>.warp t.slot).path t.path = some p ∧ (s.core t.core |>.warp t.slot).live = true ∧ (s.core t.core |>.warp t.slot).admitted = true ∧
  ((s.core t.core |>.warp t.slot).stopped = false ∨ p.handler = true) ∧ p.wait = .none ∧
  (s.core t.core |>.warp t.slot).holdUntil ≤ (s.core t.core).vc ∧ p.ready ≤ (s.core t.core).vc

/-- ... and the fetch block that it reads has come. -/
abbrev fetched (s : State) (t : Turn) (r : List Turn) (p q : Path) (bytes : List Byte) : Prop :=
  p.pc.toNat < p.csize ∧ ((({ s with chosen := r } : State).enterBlock t.core t.slot t.path (blockBase p.pc).toNat (decide (p.ready = 0))).warp t.core t.slot).path t.path = some q ∧
  q.buf.find? (fun b => b.1 == (blockBase p.pc).toNat) = some ((blockBase p.pc).toNat, .ready bytes)

def turn0 : Turn := { core := 0, slot := 0, path := 0 }

/-- `start w` with another warp. -/
def starting (w : Nat) (f : Warp → Warp) : State := (start w).modWarp 0 0 f

/-- The path and block of `start w`. -/
def path0 (w : Nat) : Path := placedPath (leBytes w 64)

/-- A step on the agenda; a tick; a trial; a chosen path that runs `nop` and a literal of two words, traps, and waits. -/
theorem witness_StepRunsTheDecodedInstruction :
    (∃ s : State, s.pkg.powered = true ∧ ∃ e r, s.agenda = e :: r ∧ r = []) ∧
    (∃ s : State, s.pkg.powered = true ∧ s.agenda = [] ∧ s.turns = [] ∧ s.chosen = []) ∧
    (∃ s : State, ∃ t r i u v, s.pkg.powered = true ∧ s.agenda = [] ∧ s.turns = t :: r ∧ ({ s with turns := r } : State).prepare t.core t.slot t.path = .go i u ∧ exec i u = .next v) ∧
    (∃ s : State, ∃ t r i u, s.pkg.powered = true ∧ s.agenda = [] ∧ s.turns = [] ∧ s.chosen = t :: r ∧ ({ s with chosen := r } : State).prepare t.core t.slot t.path = .go i u) ∧
    (∃ s : State, ∃ t r u c n i l, s.pkg.powered = true ∧ s.agenda = [] ∧ s.turns = [] ∧ s.chosen = t :: r ∧ ({ s with chosen := r } : State).prepare t.core t.slot t.path = .trap u c n i l) ∧
    (∃ s : State, ∃ t r k u, s.pkg.powered = true ∧ s.agenda = [] ∧ s.turns = [] ∧ s.chosen = t :: r ∧ ({ s with chosen := r } : State).prepare t.core t.slot t.path = .none k u) ∧
    (∀ w ∈ [0, 0x0000250900000000], ∃ s : State, ∃ t r p q bytes x, s.pkg.powered = true ∧ s.agenda = [] ∧ s.turns = [] ∧ s.chosen = t :: r ∧ attempt s t p ∧ fetched s t r p q bytes ∧
      wordOfBytes (bytes.drop (8 * (p.pc.toNat % 64 / 8))) = w ∧ gapMet (s.core t.core).vc p.lastIssue (ctlOf w).gap = true ∧
      waitMet (s.core t.core |>.warp t.slot).fprev (ctlOf w).wait = true ∧ decode (isSvc t.core) (p.pc.toNat % 64 / 8) (bytes.drop (8 * (p.pc.toNat % 64 / 8))) = .ok x) := by
  let nop : Nat := 0
  let s : State := { start nop with chosen := [], turns := [turn0] }
  let g := goOf (({ start nop with chosen := [] } : State).prepare 0 0 0)
  have h1 : ({ start nop with chosen := [] } : State).prepare 0 0 0 = .go g.1 g.2 := go_of (by decide)
  obtain ⟨v, h2⟩ : ∃ v, exec g.1 g.2 = .next v := next_of (by decide)
  obtain ⟨u', c, n, i', l, h3⟩ := prep_trap (p := ({ start 0x0000FF0000000000 with chosen := [] } : State).prepare 0 0 0) (by decide)
  obtain ⟨k, u'', h4⟩ := prep_none (p := ({ starting nop (fun w => { w with paths := w.paths.map (fun p => { p with ready := 1 }) }) with chosen := [] } : State).prepare 0 0 0) (by decide)
  refine ⟨⟨{ s with agenda := [{ step := .standbyWake, a := 0 }] }, rfl, _, _, rfl, rfl⟩, ⟨{ s with turns := [] }, by decide⟩, ⟨s, turn0, [], g.1, g.2, v, by decide, by decide, rfl, h1, h2⟩,
    ⟨start nop, turn0, [], g.1, g.2, by decide, by decide, by decide, rfl, h1⟩, ⟨start 0x0000FF0000000000, turn0, [], u', c, n, i', l, by decide, by decide, by decide, rfl, h3⟩,
    ⟨starting nop (fun w => { w with paths := w.paths.map (fun p => { p with ready := 1 }) }), turn0, [], k, u'', by decide, by decide, by decide, rfl, h4⟩, fun w hw => ?_⟩
  simp only [List.mem_cons, List.not_mem_nil, or_false] at hw
  rcases hw with rfl | rfl
  · exact ⟨start 0, turn0, [], path0 0, path0 0, leBytes 0 64, _, by decide, by decide, by decide, rfl, by decide, by decide, by decide, by decide, by decide, rfl⟩
  · exact ⟨start 0x0000250900000000, turn0, [], path0 0x0000250900000000, path0 0x0000250900000000, leBytes 0x0000250900000000 64, _, by decide, by decide, by decide, rfl, by decide, by decide, by decide, by decide, by decide, rfl⟩

def illegalB (r : Except DecodeError (Ctl × Instr × List Byte)) : Bool := match r with | .error (.illegal _ _) => true | _ => false
theorem illegal_of {r : Except DecodeError (Ctl × Instr × List Byte)} (h : illegalB r = true) : ∃ n p, r = .error (.illegal n p) := by
  match r, h with
  | .error (.illegal n p), _ => exact ⟨n, p, rfl⟩

/-- The program counter at the end of the module; GAP 1 one vc after the last issue, WAIT on a raised flag, and a word of no opcode. -/
theorem witness_WhatHoldsAPathBack :
    (∃ s : State, ∃ t r p, s.pkg.powered = true ∧ s.agenda = [] ∧ s.turns = [] ∧ s.chosen = t :: r ∧ attempt s t p ∧ p.csize = p.pc.toNat) ∧
    (∃ s : State, ∃ t r p q bytes, s.pkg.powered = true ∧ s.agenda = [] ∧ s.turns = [] ∧ s.chosen = t :: r ∧ attempt s t p ∧ fetched s t r p q bytes ∧
      gapMet (s.core t.core).vc p.lastIssue (ctlOf (wordOfBytes (bytes.drop (8 * (p.pc.toNat % 64 / 8))))).gap = false) ∧
    (∃ s : State, ∃ t r p q bytes, s.pkg.powered = true ∧ s.agenda = [] ∧ s.turns = [] ∧ s.chosen = t :: r ∧ attempt s t p ∧ fetched s t r p q bytes ∧
      gapMet (s.core t.core).vc p.lastIssue (ctlOf (wordOfBytes (bytes.drop (8 * (p.pc.toNat % 64 / 8))))).gap = true ∧
      waitMet (s.core t.core |>.warp t.slot).fprev (ctlOf (wordOfBytes (bytes.drop (8 * (p.pc.toNat % 64 / 8))))).wait = false) ∧
    (∃ s : State, ∃ t r p q bytes, s.pkg.powered = true ∧ s.agenda = [] ∧ s.turns = [] ∧ s.chosen = t :: r ∧ attempt s t p ∧ fetched s t r p q bytes ∧
      gapMet (s.core t.core).vc p.lastIssue (ctlOf (wordOfBytes (bytes.drop (8 * (p.pc.toNat % 64 / 8))))).gap = true ∧
      waitMet (s.core t.core |>.warp t.slot).fprev (ctlOf (wordOfBytes (bytes.drop (8 * (p.pc.toNat % 64 / 8))))).wait = true ∧
      ∃ n a, decode (isSvc t.core) (p.pc.toNat % 64 / 8) (bytes.drop (8 * (p.pc.toNat % 64 / 8))) = .error (.illegal n a)) := by
  let gap : Nat := 1 * 2 ^ 60
  let wait : Nat := 2 ^ 52
  let bad : Nat := 0x0000FF0000000000
  refine ⟨⟨starting 0 (fun w => { w with paths := w.paths.map (fun p => { p with pc := 2 ^ 40 }) }), turn0, [], { path0 0 with pc := 2 ^ 40 }, by decide, by decide, by decide, rfl, by decide, by decide⟩,
    ⟨starting gap (fun w => { w with paths := w.paths.map (fun p => { p with lastIssue := some 0 }) }), turn0, [], { path0 gap with lastIssue := some 0 }, { path0 gap with lastIssue := some 0 },
      leBytes gap 64, by decide, by decide, by decide, rfl, by decide, by decide, by decide⟩,
    ⟨starting wait (fun w => { w with fprev := [(4, 1)] }), turn0, [], path0 wait, path0 wait, leBytes wait 64, by decide, by decide, by decide, rfl, by decide, by decide, by decide, by decide⟩,
    ⟨start bad, turn0, [], path0 bad, path0 bad, leBytes bad 64, by decide, by decide, by decide, rfl, by decide, by decide, by decide, by decide, illegal_of (by decide)⟩⟩

/-- One word in the last slot, two words in the slot before it, and an instruction of a service core alone. -/
theorem witness_DecodeOfEncode :
    (∃ (c : Ctl) (i : Instr) (slot : Nat) (rest : List Byte), wf i = true ∧ (encode c i).length = 1 ∧ slot = 7 ∧ rest = [] ∧ isSvcForm i = false) ∧
    (∃ (c : Ctl) (i : Instr) (slot : Nat), wf i = true ∧ (encode c i).length = 2 ∧ slot % 8 = 6) ∧
    (∃ (c : Ctl) (i : Instr), wf i = true ∧ encode c i ≠ [] ∧ isSvcForm i = true) :=
  ⟨⟨ctlOf 0, .add (fa 9 4 5 0 0), 7, [], by decide⟩, ⟨ctlOf 0, .lim { d := 9, s1 := 0, imm := 0, g := 0 } 7, 6, by decide⟩, ⟨ctlOf 0, .scallReply (fa 9 4 5 0 1), by decide⟩⟩

theorem witness_EncodeOfDecode :
    (∃ svc slot bytes rest c i, decode svc slot bytes = .ok (c, i, rest) ∧ bytes.length = 8 ∧ slot = 7) ∧
    (∃ svc slot bytes rest c i, decode svc slot bytes = .ok (c, i, rest) ∧ rest.length + 16 = bytes.length ∧ slot = 6) :=
  ⟨⟨true, 7, leBytes 0x0000100904050000 8, [], _, _, rfl, rfl, rfl⟩, ⟨false, 6, leBytes 0x0000250900000000 24, leBytes 0 8, _, _, rfl, rfl, rfl⟩⟩

theorem witness_EveryInstructionAnswers :
    (∃ s : State, s.pkg.powered = true) ∧ (∃ s : State, s.pkg.powered = false ∧ ∃ r e, s.agenda = e :: r ∧ e.step = .powerOnReset) ∧
    (∃ s : State, s.pkg.powered = false ∧ ∀ r e, s.agenda = e :: r → e.step ≠ .powerOnReset) :=
  ⟨⟨s0, by decide⟩, ⟨{ s0 with pkg := { s0.pkg with powered := false }, agenda := [{ step := .powerOnReset, a := 0 }] }, by decide, _, _, rfl, rfl⟩,
    ⟨{ s0 with pkg := { s0.pkg with powered := false }, agenda := [] }, by decide, fun _ _ h => by cases h⟩⟩

theorem witness_MemoryReadsWhatWasWritten :
    (∃ s : State, Memory.wf s.mem ∧ s.mem = [(64, 1), (65, 2)]) ∧
    (∃ s t : State, Memory.wf s.mem ∧ Memory.wf t.mem ∧ (∀ a, s.byte a = t.byte a) ∧ s.mem ≠ []) :=
  ⟨⟨{ s0 with mem := [(64, 1), (65, 2)] }, by decide, rfl⟩, ⟨{ s0 with mem := [(64, 1)] }, { State.reset with mem := [(64, 1)] }, by decide, by decide, fun _ => rfl, by decide⟩⟩

/-- A thread of service core 0 before `w`. -/
def svc (w : Nat) : State :=
  { s0.modCore 256 (fun k => k.setWarp 0 { live := true, paths := [{ path0 w with mask := 1, level := .hypervisor }], sr := srSeeded 1 }) with chosen := [{ core := 256, slot := 0, path := 0 }], turns := [], agenda := [] }

/-- An instruction of the profile and one outside it, which a thread of a service core meets. -/
theorem witness_ServiceProfile :
    (∃ c i w r, encode c i = w :: r ∧ wf i = true ∧ i = .add (fa 9 4 5 0 0)) ∧
    (∃ c i w r, encode c i = w :: r ∧ wf i = true ∧ i = .vadd (fa 9 4 5 0 0) ∧ ∃ s t l p q bytes, s.pkg.powered = true ∧ s.agenda = [] ∧ s.turns = [] ∧ s.chosen = t :: l ∧ 256 ≤ t.core ∧
      attempt s t p ∧ fetched s t l p q bytes ∧ 8 ≤ (bytes.drop (8 * (p.pc.toNat % 64 / 8))).length ∧ wordOfBytes (bytes.drop (8 * (p.pc.toNat % 64 / 8))) = w ∧
      gapMet (s.core t.core).vc p.lastIssue c.gap = true ∧ waitMet (s.core t.core |>.warp t.slot).fprev c.wait = true) := by
  let w : Nat := 0x0000400904050000
  exact ⟨⟨ctlOf 0, .add (fa 9 4 5 0 0), _, _, rfl, by decide, rfl⟩, ctlOf 0, .vadd (fa 9 4 5 0 0), 0x0000400904050000, [], by decide, by decide, rfl, svc w, { core := 256, slot := 0, path := 0 }, [],
    { path0 w with mask := 1, level := .hypervisor }, { path0 w with mask := 1, level := .hypervisor }, leBytes w 64, by decide, by decide, by decide, rfl, by decide, by decide, by decide, by decide, by decide, by decide, by decide⟩

theorem witness_PrivilegedRow : ∀ lv ∈ [Level.user, .supervisor], ∃ s : State, ∃ c : Ctx, s.ctx = some c ∧ c.blocked = false ∧ c.p.level = lv := by
  intro lv h
  simp only [List.mem_cons, List.not_mem_nil, or_false] at h
  rcases h with rfl | rfl
  · exact ⟨s0, some_of (by decide)⟩
  · exact ⟨sp (fun p => { p with level := .supervisor }), some_of (by decide)⟩

theorem witness_VectorAddImmediate : ∃ s u c, ∃ f : FmtI, Ready s c (some (c.guard f.g)) [.vs f.s1 24 1 3, .vd f.d 1] u ∧ f.imm.toInt = -1 ∧ f.s1 = f.d :=
  ⟨s0, s0, ctxOf s0, fi 2 2 0x7FFFF, ready_self (by decide), by decide, rfl⟩

theorem witness_ElectOneLane :
    (∃ (s : State) (c : Ctx), Issuing s c) ∧ (∀ k < 4, ∃ f : FmtA, (1 ≤ f.d.toNat ∧ f.d.toNat ≤ 15) ∧
      ((f.s3 ≠ 0) ↔ k = 0) ∧ ((f.s2 ≠ 0) ↔ k = 1) ∧ ((f.s1 ≠ 0) ↔ k = 2) ∧ ((f.md ≠ 0) ↔ k = 3)) ∧
    (∃ f : FmtA, f.d = 0 ∧ f.s1 = 0 ∧ f.s2 = 0 ∧ f.s3 = 0 ∧ f.md = 0) :=
  ⟨⟨s0, ctxOf s0, issuing (by decide)⟩, fun k hk => by
    have h : k = 0 ∨ k = 1 ∨ k = 2 ∨ k = 3 := by omega
    rcases h with rfl | rfl | rfl | rfl
    · exact ⟨fa 1 0 0 1 0, by decide⟩
    · exact ⟨fa 15 0 1 0 0, by decide⟩
    · exact ⟨fa 15 1 0 0 0, by decide⟩
    · exact ⟨fa 15 0 0 0 1, by decide⟩, ⟨fa 0 0 0 0 0, by decide⟩⟩

theorem witness_TrapEntry : ∃ (s : State) (c : Ctx) (t : Team), ∃ fl : List (Nat × Word × Word), s.ctx = some c ∧ c.svc = false ∧ s.teamOf c.w = some t ∧ c.p.handler = false ∧ c.w.skidUntil = none ∧ (∀ v ∈ s.haltSet t, v.state ≠ .halted) ∧ fl ≠ [] :=
  ⟨s0, ctxOf s0, placedTeam, [(63, 0, 0)], ctx_of (by decide), by decide⟩

/-- `s0` with its warp in a handler that took this cause, with module 5 loaded and its entry table at its code's start. -/
def sHand (f : Handler) (g : Warp → Warp) : State :=
  sw (fun w => g { w with stopped := true, handler := some f, paths := w.paths ++ [{ (path0 0) with id := 7, mask := 1, handler := true }], nextPath := 8 })

def hand0 : Handler := { halt := { halt0 with lanes := 1 }, depth := 0, hpc := 8, due := 2 ^ 20 }

/-- No handler module, and module 5 as the handler with the entry at 0. -/
theorem witness_HandlerEntry :
    (∃ s : State, ∃ (t : Team) (wi : Nat) (h : Halt), t.haltWarp = some wi ∧ (s.warp t.core (t.slots.getD wi 32)).halt = some h ∧ (s.warp t.core (t.slots.getD wi 32)).paths ≠ [] ∧ s.handlerModule t.part = none) ∧
    (∃ s : State, ∃ (t : Team) (wi : Nat) (h : Halt), t.haltWarp = some wi ∧ (s.warp t.core (t.slots.getD wi 32)).halt = some h ∧ (s.warp t.core (t.slots.getD wi 32)).paths ≠ [] ∧
      (s.handlerModule t.part).isSome = true ∧ (s.core t.core).savedFull (t.slots.getD wi 32) (s.warp t.core (t.slots.getD wi 32)) = true ∧
      (s.warp t.core (t.slots.getD wi 32)).land.any (fun e => e.w.inSaved) = false ∧ ((s.warp t.core (t.slots.getD wi 32)).path h.path).isSome = true) := by
  let t : Team := { placedTeam with state := .halted, haltWarp := some 0 }
  let s := sw (fun w => { w with stopped := true, halt := some halt0 })
  let m := ((((pt (s.modPart 0 (fun p => { p with hmod := 0x1005, modVf := sput 0 p.modVf 5 1 }))).setNum 160 1 2).setNum 176 1 64).setNum 168 8 0x20000).setNum 0x10018 1 1
  exact ⟨⟨s, t, 0, halt0, by decide⟩, ⟨m, t, 0, halt0, by decide⟩⟩

theorem witness_HandlerReturn :
    (∀ q ∈ [((1 : Mask), (8 : Word), false), (1, 64, false), (3, 8, false), (1, 8, true)], ∃ (s : State) (c : Ctx) (t : Team) (h : Handler), c.w.handler = some h ∧ s.teamOf c.w = some t ∧ s.ctx = some c ∧ c.w.live = true ∧
      h.halt.lanes = 1 ∧ c.p.mask = q.1 ∧ h.hpc = 8 ∧ c.w.hpc = q.2.1 ∧ (c.w.stack.drop (h.depth + 1) ≠ [] ↔ q.2.2 = true)) ∧
    (∃ (s : State) (c : Ctx) (t : Team) (h : Handler), c.w.handler = some h ∧ s.teamOf c.w = some t ∧ s.ctx = some c ∧ c.w.live = true ∧ c.p.mask = h.halt.lanes ∧ c.w.stack.drop (h.depth + 1) = [] ∧ c.w.hpc.toNat % 64 ≠ 0 ∧ c.w.hpc ≠ h.hpc) ∧
    (∃ w w' : Warp, w.fflags < 32 ∧ swf 0 w'.x = true ∧ swf 0 w'.p = true ∧ swf 0 w'.d = true ∧ w.xr 1 = 5 ∧ w'.xr 1 = 6) := by
  let e0 : Entry := { id := 0, token := 0, fmt := 0, rrb := 0, tmask := 0, nmask := 0, hnd := true }
  let s : Mask → Word → List Entry → State := fun m pc l =>
    let s := sHand hand0 (fun w => { w with hpc := pc, stack := l, paths := w.paths.map (fun p => if p.handler then { p with mask := m } else p) })
    { s with cur := { s.cur with path := 7 } }
  refine ⟨fun q hq => ?_, ⟨s 1 9 [], ctxOf (s 1 9 []), placedTeam, hand0, by decide⟩, ⟨{ x := [(1, 5)] }, { x := [(1, 6)] }, by decide⟩⟩
  simp only [List.mem_cons, List.not_mem_nil, or_false] at hq
  rcases hq with rfl | rfl | rfl | rfl
  · exact ⟨s 1 8 [], ctxOf (s 1 8 []), placedTeam, hand0, by decide⟩
  · exact ⟨s 1 64 [e0], ctxOf (s 1 64 [e0]), placedTeam, hand0, by decide⟩
  · exact ⟨s 3 8 [], ctxOf (s 3 8 []), placedTeam, hand0, by decide⟩
  · exact ⟨s 1 8 [e0, e0], ctxOf (s 1 8 [e0, e0]), placedTeam, hand0, by decide⟩

/-- In a handler and out of one, with the event ring free, full and with a record that waits. -/
theorem witness_Escalation :
    (∀ q ∈ [(false, ([] : List (List Word))), (true, []), (false, [[0]])], ∃ s : State, ∃ t, s.team t.handle t.idx = some t ∧ (s.warp 0 0).live = true ∧ (s.warp 0 0).handler = some hand0 ∧
      s.ringValid (ringSlot (s.part t.part).tevq 64 (s.part t.part).tevTail) 64 = q.1 ∧ (s.part t.part).tevWait = q.2) ∧
    (∃ s : State, ∃ t, s.team t.handle t.idx = some t ∧ (s.warp 0 0).live = true ∧ (s.warp 0 0).handler = none ∧ (s.warp 0 0).halt = some halt0 ∧ halt0.pc = 0) := by
  let s := (sHand hand0 id).modPart 0 (fun p => { p with tevq := 0x110001 })
  refine ⟨fun q hq => ?_, ⟨sw (fun w => { w with halt := some halt0 }), placedTeam, by decide⟩⟩
  simp only [List.mem_cons, List.not_mem_nil, or_false] at hq
  rcases hq with rfl | rfl | rfl
  · exact ⟨s, placedTeam, by decide⟩
  · exact ⟨s.setNum (0x110000 + 56) 8 (2 ^ 63), placedTeam, by decide⟩
  · exact ⟨s.modPart 0 (fun p => { p with tevWait := [[0]] }), placedTeam, by decide⟩

/-- x4 empty with and without FE in each place; nothing empty; x0; and x4 emptied by another path in this vc. -/
theorem witness_OperandReadiness :
    (∀ q ∈ [((4 : BitVec 8), (5 : BitVec 8), (9 : BitVec 8)), (5, 4, 9), (5, 6, 4), (5, 0x84, 9), (0x84, 5, 9), (5, 6, 9)], ∃ (s : State) (c : Ctx), ∃ f : FmtA, s.ctx = some c ∧ c.blocked = false ∧ (f.s1, f.s2, f.d) = q ∧
      c.w.xe = 16 ∧ c.w.sound = true ∧ s.powerOk c = true ∧ c.justEmptied (fun d => match d with | .x m => m == 4 | _ => false) = false) ∧ (∃ d : BitVec 8, opIdx d = 0) ∧
    (∃ (s : State) (c : Ctx), ∃ f : FmtA, s.ctx = some c ∧ c.blocked = false ∧ opIdx f.s1 ≠ 0 ∧ c.w.xe.getLsbD (opIdx f.s1) = true ∧
      c.justEmptied (fun d => match d with | .x m => m == opIdx f.s1 | _ => false) = true ∧ c.w.sound = true ∧ s.powerOk c = true) := by
  let s := sw (fun w => { w with xe := 16 })
  let j := s.modCore 0 (fun k => { k with longs := [{ long3 (.done [] 0) with path := 1, issued := k.vc, dest := .x 4 }] })
  exact ⟨fun q hq => ⟨s, ctxOf s, fa q.2.2 q.1 q.2.1 0 0, ctx_of (by decide), by decide, rfl, by decide⟩, ⟨0, by decide⟩,
    ⟨j, ctxOf j, fa 9 4 5 0 0, ctx_of (by decide), by decide⟩⟩

end Sys2Proof.Tests
end

section
/-!
PROOFS. Memory at its home: what a write changes and leaves, and that the canonical form is one form per content (R12, R225).
-/

namespace Sys2Proof.Proofs

open Sys2Proof Sys2Proof.Machine

/-- The number that a run of bytes spells after a little-endian write of that many bytes. -/
theorem num_setNum (s : State) (h : Memory.wf s.mem) (a n v : Nat) : (s.setNum a n v).num a n = v % 256 ^ n := by
  have back : (s.setNum a n v).bytes a n = leBytes v n := by
    simpa [State.setNum] using bytes_setBytes s h a (leBytes v n)
  rw [State.num, back, Laws.ofBytes_leBytes]

/-- States whose memories are in canonical form and read alike hold the same memory. -/
theorem mem_eq_of_byte_eq {s t : State} (hs : Memory.wf s.mem) (ht : Memory.wf t.mem) (h : ∀ a, s.byte a = t.byte a) :
    s.mem = t.mem := swf_ext hs ht h

/-- Settles O50: a write through the rules of sparse tables, a number through the bytes that spell it, equality through extensionality
of the canonical form. -/
theorem memoryReadsWhatWasWritten : Obligations.MemoryReadsWhatWasWritten :=
  ⟨fun s h =>
    ⟨fun a l => ⟨wf_setBytes s h a l, bytes_setBytes s h a l, byte_setBytes s h a l⟩,
     num_setNum s h⟩,
   fun _ _ => mem_eq_of_byte_eq⟩

end Sys2Proof.Proofs
end

section
/-!
PROOFS. The instruction word: what decodes is exactly what a well-formed instruction encodes to (R32, R36, R41, R47).
-/

namespace Sys2Proof.Proofs

open Sys2Proof Sys2Proof.Machine

open Laws.RoundTrip in
/-- The first word of every instruction's encoding names that instruction again: the family of round trips, by constructor. -/
theorem instrOf_encode (i : Instr) : Laws.RoundTrip.Statement i :=
  match i with
  | .nop f => nop f | .br f => br f | .brc f => brc f | .brany f => brany f | .brall f => brall f | .brx f => brx f | .jmpx f => jmpx f
  | .call f => call f | .ret f => ret f | .rejoin f => rejoin f | .loop f => loop f | .exit f => exit f | .trap f => trap f
  | .ipref f => ipref f | .elect f => elect f | .yield f => yield f | .add f => add f | .sub f => sub f | .mul f => mul f
  | .mulh f => mulh f | .div f => div f | .rem f => rem f | .and f => and f | .or f => or f | .xor f => xor f | .shl f => shl f
  | .shr f => shr f | .sar f => sar f | .min f => min f | .max f => max f | .bitc f => bitc f | .sel f => sel f | .addi f => addi f
  | .andi f => andi f | .ori f => ori f | .xori f => xori f | .shi f => shi f | .lim f l => lim f l | .mov f => mov f
  | .movDomain f => movDomain f | .lea f => lea f | .cmp f => cmp f | .cmpi f => cmpi f | .csrr f => csrr f | .csrw f => csrw f
  | .csrs f => csrs f | .fmtset f => fmtset f | .fmtsetM f => fmtsetM f | .dset f => dset f | .rdtime f => rdtime f | .pand f => pand f
  | .por f => por f | .pxor f => pxor f | .pnot f => pnot f | .pmov f => pmov f | .pcount f => pcount f | .pfirst f => pfirst f
  | .vcmp f => vcmp f | .vfcmp f => vfcmp f | .pset f => pset f | .pget f => pget f | .vadd f => vadd f | .vsub f => vsub f
  | .vmul f => vmul f | .vmulh f => vmulh f | .vmad f => vmad f | .vand f => vand f | .vor f => vor f | .vxor f => vxor f
  | .vshl f => vshl f | .vshr f => vshr f | .vsar f => vsar f | .vmin f => vmin f | .vmax f => vmax f | .vabn f => vabn f
  | .vsel f => vsel f | .vaddi f => vaddi f | .fadd f => fadd f | .fsub f => fsub f | .fmul f => fmul f | .fma f => fma f
  | .fmin f => fmin f | .fmax f => fmax f | .fabn f => fabn f | .fdiv f => fdiv f | .fsqrt f => fsqrt f | .fdot2 f => fdot2 f
  | .fdot4 f => fdot4 f | .vdot4 f => vdot4 f | .fclass f => fclass f | .frnd f => frnd f | .cvt f => cvt f | .cvtsr f => cvtsr f
  | .vrcp f => vrcp f | .vrsq f => vrsq f | .vexp2 f => vexp2 f | .vlog2 f => vlog2 f | .vsin f => vsin f | .vcos f => vcos f
  | .vtanh f => vtanh f | .vqnt f => vqnt f | .vdeq f => vdeq f | .vpack f => vpack f | .vunpack f => vunpack f | .vmov f => vmov f
  | .vbcast f => vbcast f | .vext f => vext f | .vins f => vins f | .vperm f => vperm f | .vshfl f => vshfl f | .vlane f => vlane f
  | .vballot f => vballot f | .red f => red f | .scan f => scan f | .rrbset f => rrbset f | .ld f => ld f | .st f => st f
  | .vld f => vld f | .vst f => vst f | .vldg f => vldg f | .vstg f => vstg f | .vlds f => vlds f | .vsts f => vsts f
  | .spld f => spld f | .spst f => spst f | .dprf f => dprf f | .ldl f => ldl f | .atom f => atom f | .vatom f => vatom f
  | .cas f => cas f | .vcas f => vcas f | .fence f => fence f | .phase f => phase f | .mfence f => mfence f | .mjoin f => mjoin f
  | .sstep f => sstep f | .mwait f => mwait f | .mzero f => mzero f | .mmul f => mmul f | .mmull f => mmull f | .mmulm f => mmulm f
  | .mplane f => mplane f | .mout f => mout f | .mcfg f => mcfg f | .tgive f => tgive f | .ttake f => ttake f | .trow f => trow f
  | .twrow f => twrow f | .spzero f => spzero f | .qpush f => qpush f | .qpushv f => qpushv f | .qpop f => qpop f | .qpopv f => qpopv f
  | .qpeek f => qpeek f | .cpy f => cpy f | .cpyz f => cpyz f | .wdq f => wdq f | .launch f => launch f | .scall f => scall f
  | .scallUp f => scallUp f | .scallReply f => scallReply f | .scallLaunch f => scallLaunch f | .fcall f => fcall f
  | .fcallDone f => fcallDone f | .bar f => bar f | .gbar f => gbar f | .gred f => gred f | .ident f => ident f | .lease f => lease f
  | .leaseMeas f => leaseMeas f | .tleft f => tleft f | .clkreq f => clkreq f | .clkreqArm f => clkreqArm f | .sleep f => sleep f
  | .eret f => eret f | .eretSkip f => eretSkip f | .mapfp f => mapfp f | .tlbinvAll f => tlbinvAll f | .tlbinvSpace f => tlbinvSpace f
  | .tlbinvPage f => tlbinvPage f | .tlbinvS2all f => tlbinvS2all f | .tlbinvS2page f => tlbinvS2page f | .icinvMod f => icinvMod f
  | .icinvRange f => icinvRange f | .modreg f => modreg f | .modrel f => modrel f | .modrelNb f => modrelNb f | .frscrub f => frscrub f
  | .fotset f => fotset f | .wmset f => wmset f | .vfsave f => vfsave f | .vfrest f => vfrest f | .ctxsave f => ctxsave f
  | .ctxsaveKill f => ctxsaveKill f | .ctxrest f => ctxrest f | .rdraw f => rdraw f | .pxout f => pxout f | .tsample f => tsample f
  | .tfetch f => tfetch f | .rtrace f => rtrace f | .rhit f => rhit f | .disc f => disc f | .attr f => attr f
  | .engineWordStart => engineWordStart | .line => line | .box => box | .fill => fill | .zpack => zpack | .zunpack => zunpack
  | .copyCommandComplete => copyCommandComplete | .engineCommandFault => engineCommandFault | .matrixChunkStart => matrixChunkStart
  | .matrixCommandComplete => matrixCommandComplete | .freezeResume => freezeResume | .freezeConversion => freezeConversion
  | .rayBatchComplete => rayBatchComplete | .wdqService => wdqService | .wdqAnswer => wdqAnswer | .markerArrival => markerArrival
  | .longLatencyWriteComplete => longLatencyWriteComplete | .fetchBlockArrival => fetchBlockArrival
  | .launchValidation => launchValidation | .teamPlacement => teamPlacement | .teamStart => teamStart
  | .neighbourBalancing => neighbourBalancing | .teamRetirement => teamRetirement | .launchCompletion => launchCompletion
  | .moduleVerificationComplete => moduleVerificationComplete | .moduleReleaseComplete => moduleReleaseComplete
  | .phaseBoundaryStart => phaseBoundaryStart | .phaseBoundaryComplete => phaseBoundaryComplete | .barrierRelease => barrierRelease
  | .pisteArrivalForward => pisteArrivalForward | .groupRelease => groupRelease | .groupReleaseMessage => groupReleaseMessage
  | .barrierRefresh => barrierRefresh | .refusionMismatch => refusionMismatch | .lineEviction => lineEviction
  | .writebackArrival => writebackArrival | .writebackAck => writebackAck | .loadRequestArrival => loadRequestArrival
  | .atomicAtHome => atomicAtHome | .loamRefreshWindowStart => loamRefreshWindowStart | .loamRefreshWindowEnd => loamRefreshWindowEnd
  | .pageWalkStart => pageWalkStart | .pageWalkComplete => pageWalkComplete | .haltBroadcast => haltBroadcast
  | .handlerEntry => handlerEntry | .asyncFaultDelivery => asyncFaultDelivery | .handlerWatchdogExpiry => handlerWatchdogExpiry
  | .blockedTeamEligible => blockedTeamEligible | .preemptionDecision => preemptionDecision | .drainWindowEnd => drainWindowEnd
  | .restore => restore | .measuringIntervalEnd => measuringIntervalEnd | .warpRotation => warpRotation | .pathBoost => pathBoost
  | .greedyLimit => greedyLimit | .powerForcedIssue => powerForcedIssue | .slewWindowEnd => slewWindowEnd | .droopTrip => droopTrip
  | .quantRestore => quantRestore | .sleepEnd => sleepEnd | .arbiterRun => arbiterRun | .clusterIdleRelease => clusterIdleRelease
  | .grantApply => grantApply | .quiescenceTimeout => quiescenceTimeout | .railSettled => railSettled
  | .relockComplete => relockComplete | .railLower => railLower | .mwaitWake => mwaitWake | .mwaitPoll => mwaitPoll
  | .rasterBatchAccept => rasterBatchAccept | .splitFrameForward => splitFrameForward | .mergerPerform => mergerPerform
  | .drawBatchComplete => drawBatchComplete | .scallBatchComplete => scallBatchComplete | .regulatorTick => regulatorTick
  | .verticalBlank => verticalBlank | .dhbaseWrite => dhbaseWrite | .dhselClr => dhselClr | .scselClr => scselClr
  | .rferrClear => rferrClear | .sperrClear => sperrClear | .l1errClear => l1errClear | .srseedWrite => srseedWrite
  | .hmodWrite => hmodWrite | .gkindWrite => gkindWrite | .partitionCreate => partitionCreate | .partitionDestroy => partitionDestroy
  | .vfqEnable => vfqEnable | .vfqRunSet => vfqRunSet | .vfqRunClear => vfqRunClear | .skclkWrite => skclkWrite
  | .registerWrite => registerWrite | .doorbell => doorbell | .pcieInboundRequest => pcieInboundRequest
  | .flefinInboundRequest => flefinInboundRequest | .flefinResponse => flefinResponse | .flefinTimeout => flefinTimeout
  | .flefinPortFailure => flefinPortFailure | .ucieRetryFailure => ucieRetryFailure | .standbyWake => standbyWake
  | .powerOnReset => powerOnReset | .temperatureReading => temperatureReading | .thermalTrip => thermalTrip
  | .scanOutLine => scanOutLine | .droopWithholdEnd => droopWithholdEnd | .standbyEntry => standbyEntry
  | .flefinPortTraining => flefinPortTraining | .frscrubComplete => frscrubComplete | .icinvComplete => icinvComplete

/-- The two words of an encoding: its first word, and the literal where OP is that of format L. -/
theorem encode_shape {c : Ctl} {i : Instr} {w : Word} {r : List Word} (hw : wf i = true) (he : encode c i = w :: r) :
    r = if (opOf w).toNat = 0x25 then [r.headD 0] else [] := by
  obtain ⟨hi, hc⟩ := instrOf_encode i c w r hw he
  exact (List.cons.inj (he.symm.trans (Laws.encode_of_instrOf hi c hc))).2

/-- Decoding a word succeeds exactly where it names an instruction that is well formed and may stand there (R41). -/
theorem decodeWord_ok_iff {svc : Bool} {slot : Nat} {w lit : Word} {c : Ctl} {i : Instr} :
    decodeWord svc slot w lit = .ok (c, i) ↔ instrOf svc w lit = some i ∧ ctlOf w = c ∧ wf i = true ∧
      ¬ ((opOf w).toNat = 0x25 ∧ slot % 8 = 7) ∧ ¬ (svc = true ∧ inProfile (opOf w).toNat = false) := by
  have place : ∀ j, reportOf (checks j ++ placeChks svc slot w) = none ↔ wf j = true ∧
      ¬ ((opOf w).toNat = 0x25 ∧ slot % 8 = 7) ∧ ¬ (svc = true ∧ inProfile (opOf w).toNat = false) := by
    intro j
    simp [Laws.reportOf_none, wf, legality, placeChks, ck, or_imp, forall_and]
  unfold decodeWord
  cases instrOf svc w lit with
  | none => simp
  | some j =>
    cases hr : reportOf (checks j ++ placeChks svc slot w) with
    | none =>
      simp only [hr]
      constructor
      · rintro ⟨⟩
        exact ⟨rfl, rfl, (place _).1 hr⟩
      · rintro ⟨⟨⟩, rfl, -⟩
        rfl
    | some q =>
      simp only [hr]
      constructor
      · rintro ⟨⟩
      · rintro ⟨⟨⟩, -, hp⟩
        rw [(place _).2 hp] at hr
        cases hr

theorem inProfile_of_isSvcForm {c : Ctl} {i : Instr} {w : Word} {r : List Word} (he : encode c i = w :: r)
    (hs : isSvcForm i = true) : inProfile (opOf w).toNat = true := by
  cases i with
  | scallUp f => cases he; rw [Laws.op_wordA]; rfl
  | scallReply f => cases he; rw [Laws.op_wordA]; rfl
  | scallLaunch f => cases he; rw [Laws.op_wordA]; rfl
  | _ => cases hs

/-- `decode` of a word and the bytes after it, in terms of `decodeWord`. -/
theorem decode_cons (svc : Bool) (slot : Nat) (w : Word) (bytes : List Byte)
    (hl : (opOf w).toNat = 0x25 ∧ slot % 8 ≠ 7 → 8 ≤ bytes.length) :
    decode svc slot (wordBytes [w] ++ bytes) = (decodeWord svc slot w (wordOfBytes bytes)).map
      (fun q => (q.1, q.2, bytes.drop (if (opOf w).toNat = 0x25 ∧ slot % 8 ≠ 7 then 8 else 0))) := by
  have len : (wordBytes [w]).length = 8 := by simp [wordBytes]
  have rest : ∀ n, (wordBytes [w] ++ bytes).drop (8 + n) = bytes.drop n := fun n => by
    rw [← len, List.drop_length_add_append]
  have tail : (wordBytes [w] ++ bytes).drop 8 = bytes := by simpa using rest 0
  have enough : ¬ ((opOf w).toNat = 0x25 ∧ slot % 8 ≠ 7 ∧ (wordBytes [w] ++ bytes).length < 16) := by
    rintro ⟨h1, h2, h3⟩
    have := hl ⟨h1, h2⟩
    rw [List.length_append, len] at h3
    omega
  unfold decode
  rw [if_neg (by rw [List.length_append, len]; omega)]
  simp only [Laws.wordOfBytes_wordBytes, tail]
  rw [if_neg (by simpa only [and_assoc] using enough)]
  cases decodeWord svc slot w (wordOfBytes bytes) with
  | error e => rfl
  | ok q =>
    by_cases h : (opOf w).toNat = 0x25 ∧ slot % 8 ≠ 7
    · simp only [if_pos h, Except.map, ← rest 8]
    · simp only [if_neg h, Except.map, tail, List.drop_zero]

/-- Settles O43: the first word names the instruction again, and the bytes after it are its literal and the rest. -/
theorem decodeOfEncode : Obligations.DecodeOfEncode := by
  intro c i slot rest hw hne hslot
  obtain ⟨w, r, he⟩ := List.exists_cons_of_ne_nil hne
  obtain ⟨hi, hc⟩ := instrOf_encode i c w r hw he
  have hr := encode_shape hw he
  have place : ¬ ((opOf w).toNat = 0x25 ∧ slot % 8 = 7) := fun ⟨h1, h2⟩ =>
    hslot (by rw [he, hr, if_pos h1]; rfl) h2
  have profile : ¬ (isSvcForm i = true ∧ inProfile (opOf w).toNat = false) := fun ⟨h1, h2⟩ => by
    rw [inProfile_of_isSvcForm he h1] at h2
    cases h2
  have word : ∀ lit, instrOf (isSvcForm i) w lit = some i → decodeWord (isSvcForm i) slot w lit = .ok (c, i) := fun lit h =>
    decodeWord_ok_iff.2 ⟨h, hc, hw, place, profile⟩
  have split : wordBytes (encode c i) ++ rest = wordBytes [w] ++ (wordBytes r ++ rest) := by
    rw [he]
    simp [wordBytes]
  rw [split]
  by_cases hL : (opOf w).toNat = 0x25
  · have h7 : slot % 8 ≠ 7 := fun h => place ⟨hL, h⟩
    rw [if_pos hL] at hr
    have len : (wordBytes r).length = 8 := by rw [hr]; simp [wordBytes]
    have head : wordOfBytes (wordBytes r ++ rest) = r.headD 0 := by rw [hr, Laws.wordOfBytes_wordBytes]; rfl
    rw [decode_cons _ _ _ _ (fun _ => by rw [List.length_append, len]; omega), head, word _ hi, if_pos ⟨hL, h7⟩]
    simp only [Except.map]
    rw [← len, List.drop_left]
  · rw [if_neg hL] at hr
    subst hr
    rw [decode_cons _ _ _ _ (fun h => absurd h.1 hL), word _ ((Laws.lit_irrel _ w _ hL _).trans hi), if_neg (fun h => hL h.1)]
    rfl

/-- Settles O44: the decoded word is the word of what it names, and where it has format L the eight bytes after it are the literal. -/
theorem encodeOfDecode : Obligations.EncodeOfDecode := by
  intro svc slot bytes rest c i h
  have h8 : 8 ≤ bytes.length := Nat.le_of_not_lt fun short => by
    rw [decode, if_pos short] at h
    cases h
  have hb := Laws.bytes_eq_word h8
  have hl : (opOf (wordOfBytes bytes)).toNat = 0x25 ∧ slot % 8 ≠ 7 → 8 ≤ (bytes.drop 8).length := by
    refine fun hL => Nat.le_of_not_lt fun short => ?_
    rw [List.length_drop] at short
    rw [decode, if_neg (by omega)] at h
    simp only at h
    rw [if_pos ⟨hL, by omega⟩] at h
    cases h
  rw [hb, decode_cons _ _ _ _ hl] at h
  generalize wordOfBytes bytes = w at hb hl h
  generalize bytes.drop 8 = tail at hb hl h
  subst hb
  cases hd : decodeWord svc slot w (wordOfBytes tail) with
  | error e => rw [hd] at h; cases h
  | ok q =>
    obtain ⟨c', i'⟩ := q
    rw [hd] at h
    obtain ⟨hi, hc, hw, place, -⟩ := decodeWord_ok_iff.1 hd
    cases h
    refine ⟨hw, ?_⟩
    rw [Laws.encode_of_instrOf hi _ hc]
    by_cases hL : (opOf w).toNat = 0x25
    · have hlong : (opOf w).toNat = 0x25 ∧ slot % 8 ≠ 7 := ⟨hL, fun h => place ⟨hL, h⟩⟩
      rw [if_pos hL, if_pos hlong]
      calc wordBytes [w] ++ tail = wordBytes [w] ++ (wordBytes [wordOfBytes tail] ++ tail.drop 8) := by
            rw [← Laws.bytes_eq_word (hl hlong)]
        _ = wordBytes [w, wordOfBytes tail] ++ tail.drop 8 := by simp [wordBytes]
    · rw [if_neg hL, if_neg (fun h => hL h.1), List.drop_zero]

/-- Settles O60, by decoding each word. -/
theorem decodedWords : Obligations.DecodedWords := by
  unfold Obligations.DecodedWords
  decide

end Sys2Proof.Proofs
end

section
/-!
PROOFS. The privilege of row 0xE (R43, R48).
-/

namespace Sys2Proof.Proofs

open Sys2Proof Sys2Proof.Machine

/-- An attempt that first asks for a level traps with the privilege cause on a path below it, whatever comes after (R43, R48). -/
theorem run_below_level {s : State} {c : Ctx} (hc : s.ctx = some c) (hb : c.blocked = false) {lv : Level}
    (hl : c.p.level.rank < lv.rank) {rest : Ctx → Try State} :
    (s.run fun c => do c.needs lv; rest c) = .next (s.takeTrap c 0x02 c.word none []) := by
  refine run_trap hc hb ?_
  rw [Ctx.needs, if_pos hl]
  rfl

/-- Settles O52: the level check is the first thing that every instruction of row 0xE does. -/
theorem privilegedRow : Obligations.PrivilegedRow := by
  intro s c hc hb trap
  refine ⟨fun hu f => ?_, fun hu f => ?_⟩
  · have low : c.p.level.rank < Level.supervisor.rank := by rw [hu]; decide
    have below : ∀ {rest : Ctx → Try State}, (s.run fun c => do c.needs .supervisor; rest c) = trap := run_below_level hc hb low
    exact ⟨below, below, below, below, below, below⟩
  · have low : c.p.level.rank < Level.hypervisor.rank := by rcases hu with hu | hu <;> rw [hu] <;> decide
    have below : ∀ {rest : Ctx → Try State}, (s.run fun c => do c.needs .hypervisor; rest c) = trap := run_below_level hc hb low
    exact ⟨below, below, below, below, below, below, below, below, below, below, below, below, below, below, below⟩

end Sys2Proof.Proofs
end

section
/-!
PROOFS. One step: the agenda, the turns, and what a chosen path finds before its instruction (R19, R22, R33, R34, R41).
-/

namespace Sys2Proof.Proofs

open Sys2Proof Sys2Proof.Machine

/-- An autonomous step that is pending comes first. -/
theorem step_agenda {s : State} (hp : s.pkg.powered = true) {e : Ev} {r : List Ev} (ha : s.agenda = e :: r) :
    step s = exec e.step { s with agenda := r, ev := e } := by
  unfold step State.cycle
  rw [if_neg (by simp [hp])]
  simp only [ha]

/-- With nothing pending a step moves time on. -/
theorem step_idle {s : State} (hp : s.pkg.powered = true) (ha : s.agenda = []) (ht : s.turns = []) (hc : s.chosen = []) :
    step s = .next s.tick := by
  unfold step State.cycle
  rw [if_neg (by simp [hp])]
  simp only [ha, ht, hc]

/-- What a chosen path finds is what the step does: a wait. -/
theorem step_of_none {s : State} (hp : s.pkg.powered = true) (ha : s.agenda = []) (ht : s.turns = []) {t : Turn} {r : List Turn}
    (hc : s.chosen = t :: r) {k : Cause} {u : State} (h : ({ s with chosen := r } : State).prepare t.core t.slot t.path = .none k u) :
    step s = .next (u.noteStall t k) := by
  rw [step_chosen hp ha ht hc, h]

/-- A trap that a chosen path finds is taken. -/
theorem step_of_trap {s : State} (hp : s.pkg.powered = true) (ha : s.agenda = []) (ht : s.turns = []) {t : Turn} {r : List Turn}
    (hc : s.chosen = t :: r) {u : State} {c : Ctx} {cause : Nat} {info : Word} {fl : List (Nat × Word × Word)}
    (h : ({ s with chosen := r } : State).prepare t.core t.slot t.path = .trap u c cause info fl) :
    step s = .next (u.takeTrap c cause info none fl) := by
  rw [step_chosen hp ha ht hc, h]

/-- An instruction that a chosen path finds is run. -/
theorem step_of_go {s : State} (hp : s.pkg.powered = true) (ha : s.agenda = []) (ht : s.turns = []) {t : Turn} {r : List Turn}
    (hc : s.chosen = t :: r) {i : Instr} {u : State} (h : ({ s with chosen := r } : State).prepare t.core t.slot t.path = .go i u) :
    step s = exec i u := by
  rw [step_chosen hp ha ht hc, h]

/-! ### What a path finds before its instruction (R22, R33, R34, R41) -/

/-- Path `pt` of a warp is `p`, and nothing keeps it from trying the word at its program counter. -/
structure MayTry (v : State) (c sl pt : Nat) (p : Path) : Prop where
  path : ((v.core c).warp sl).path pt = some p
  live : ((v.core c).warp sl).live = true
  admitted : ((v.core c).warp sl).admitted = true
  running : ((v.core c).warp sl).stopped = false ∨ p.handler = true
  free : p.wait = .none
  held : ((v.core c).warp sl).holdUntil ≤ (v.core c).vc
  ready : p.ready ≤ (v.core c).vc

/-- The state in which a path has entered the block of its program counter. -/
def entered (v : State) (c sl pt : Nat) (p : Path) : State := v.enterBlock c sl pt (blockBase p.pc).toNat (decide (p.ready = 0))

/-- The bytes from a path's program counter to the end of its fetch block. -/
def bytesAt (p : Path) (bytes : List Byte) : List Byte := bytes.drop (8 * (p.pc.toNat % 64 / 8))

/-- ... and its program counter is inside its module, in a block that its fetch buffer holds as `bytes`. -/
structure HasWord (v : State) (c sl pt : Nat) (p : Path) (bytes : List Byte) : Prop extends MayTry v c sl pt p where
  inside : p.pc.toNat < p.csize
  block : ∃ q, ((entered v c sl pt p).warp c sl).path pt = some q ∧
    q.buf.find? (fun b => b.1 == (blockBase p.pc).toNat) = some ((blockBase p.pc).toNat, .ready bytes)

section
variable {v : State} {c sl pt : Nat} {p : Path} {bytes : List Byte}

/-- A program counter at or above the module's size is found before any fetch. -/
theorem MayTry.prepare_bounds (h : MayTry v c sl pt p) (out : p.csize ≤ p.pc.toNat) :
    v.prepare c sl pt =
      .trap v { core := c, slot := sl, k := v.core c, w := (v.core c).warp sl, p := p, word := 0, size := 1 } 0x04 p.pc [] := by
  have running : (((v.core c).warp sl).stopped && !p.handler) = false := by rcases h.running with h | h <;> simp [h]
  simp [State.prepare, h.path, h.live, h.admitted, running, h.free, Nat.not_lt.2 h.held, Nat.not_lt.2 h.ready, out]

/-- GAP is judged first. -/
theorem HasWord.prepare_gap (h : HasWord v c sl pt p bytes)
    (gap : gapMet (v.core c).vc p.lastIssue (ctlOf (wordOfBytes (bytesAt p bytes))).gap = false) :
    v.prepare c sl pt = .none .gap (entered v c sl pt p) := by
  obtain ⟨q, hq, hb⟩ := h.block
  rw [prepare_block h.path h.live h.admitted h.running h.free h.held h.ready h.inside hq hb]
  exact if_pos (by rw [Bool.not_eq_true']; exact gap)

/-- WAIT is judged where GAP is met. -/
theorem HasWord.prepare_wait (h : HasWord v c sl pt p bytes)
    (gap : gapMet (v.core c).vc p.lastIssue (ctlOf (wordOfBytes (bytesAt p bytes))).gap = true)
    (wait : waitMet ((v.core c).warp sl).fprev (ctlOf (wordOfBytes (bytesAt p bytes))).wait = false) :
    v.prepare c sl pt = .none .waitf (entered v c sl pt p) := by
  obtain ⟨q, hq, hb⟩ := h.block
  rw [bytesAt] at gap wait
  rw [prepare_block h.path h.live h.admitted h.running h.free h.held h.ready h.inside hq hb]
  simp only [gap, wait]
  rfl

/-- A word that may be judged but names no instruction. -/
theorem HasWord.prepare_illegal (h : HasWord v c sl pt p bytes)
    (gap : gapMet (v.core c).vc p.lastIssue (ctlOf (wordOfBytes (bytesAt p bytes))).gap = true)
    (wait : waitMet ((v.core c).warp sl).fprev (ctlOf (wordOfBytes (bytesAt p bytes))).wait = true) {reason pos : Nat}
    (bad : decode (isSvc c) (p.pc.toNat % 64 / 8) (bytesAt p bytes) = .error (.illegal reason pos)) :
    v.prepare c sl pt = .trap (entered v c sl pt p)
      { core := c, slot := sl, k := v.core c, w := (v.core c).warp sl, p := p, word := wordOfBytes (bytesAt p bytes), size := 1 }
      0x01 (illegalInfo reason pos) [] := by
  obtain ⟨q, hq, hb⟩ := h.block
  rw [bytesAt] at gap wait bad
  rw [prepare_block h.path h.live h.admitted h.running h.free h.held h.ready h.inside hq hb]
  simp only [gap, wait, bad]
  rfl

/-- A word that may be judged and names an instruction. -/
theorem HasWord.prepare_go (h : HasWord v c sl pt p bytes)
    (gap : gapMet (v.core c).vc p.lastIssue (ctlOf (wordOfBytes (bytesAt p bytes))).gap = true)
    (wait : waitMet ((v.core c).warp sl).fprev (ctlOf (wordOfBytes (bytesAt p bytes))).wait = true)
    {ctl : Ctl} {i : Instr} {rest : List Byte}
    (ok : decode (isSvc c) (p.pc.toNat % 64 / 8) (bytesAt p bytes) = .ok (ctl, i, rest)) :
    v.prepare c sl pt = .go i { entered v c sl pt p with
      cur := { core := c, slot := sl, path := pt, word := wordOfBytes (bytesAt p bytes),
               size := ((bytesAt p bytes).length - rest.length) / 8, res := none } } := by
  obtain ⟨q, hq, hb⟩ := h.block
  rw [bytesAt] at gap wait ok
  rw [prepare_block h.path h.live h.admitted h.running h.free h.held h.ready h.inside hq hb]
  simp only [gap, wait, ok]
  rfl

end

/-- Settles O46: each clause is what `prepare` answers there. -/
theorem whatHoldsAPathBack : Obligations.WhatHoldsAPathBack := by
  intro s t r p hp ha ht hc v k w h1 h2 h3 h4 h5 h6 h7 c
  have may : MayTry v t.core t.slot t.path p := ⟨h1, h2, h3, h4, h5, h6, h7⟩
  refine ⟨fun out => step_of_trap hp ha ht hc (may.prepare_bounds out), ?_⟩
  intro q bytes inside off u hq hb sl bs word
  have has : HasWord v t.core t.slot t.path p bytes := ⟨may, inside, q, hq, hb⟩
  exact ⟨fun gap => step_of_none hp ha ht hc (has.prepare_gap gap),
    fun gap wait => step_of_none hp ha ht hc (has.prepare_wait gap wait),
    fun _ _ gap wait bad => step_of_trap hp ha ht hc (has.prepare_illegal gap wait bad)⟩

/-- Settles O45: each clause is the answer of `step` to what is pending, the last one through what `prepare` answers. -/
theorem stepRunsTheDecodedInstruction : Obligations.StepRunsTheDecodedInstruction := by
  intro s hp
  refine ⟨fun e r ha => step_agenda hp ha, fun ha ht hc => step_idle hp ha ht hc, ?_, ?_⟩
  · intro t r i u v ha ht hprep hexec
    rw [step_turn hp ha ht, hprep]
    simp only [hexec]
  · intro t r ha ht hc v
    refine ⟨fun i u => step_of_go hp ha ht hc, fun u c cause info fl => step_of_trap hp ha ht hc, fun k u => step_of_none hp ha ht hc, ?_⟩
    intro p q bytes ctl i rest k w h1 h2 h3 h4 h5 h6 h7 inside off u hq hb sl bs word gap wait ok
    have has : HasWord v t.core t.slot t.path p bytes := ⟨⟨h1, h2, h3, h4, h5, h6, h7⟩, inside, q, hq, hb⟩
    exact step_of_go hp ha ht hc (has.prepare_go gap wait ok)

end Sys2Proof.Proofs
end

section
/-!
PROOFS. The scalar profile of a service core (R49).
-/

namespace Sys2Proof.Proofs

open Sys2Proof Sys2Proof.Machine

/-- The instructions of the scalar profile. -/
def scalarProfile : Instr → Bool
  | .nop _ | .br _ | .brany _ | .brall _ | .brx _ | .jmpx _ | .call _ | .ret _ | .exit _ | .trap _ | .ipref _ | .yield _ => true
  | .add _ | .sub _ | .mul _ | .mulh _ | .div _ | .rem _ | .and _ | .or _ | .xor _ | .shl _ | .shr _ | .sar _ | .min _ | .max _ | .bitc _ | .sel _ => true
  | .addi _ | .andi _ | .ori _ | .xori _ | .shi _ | .lim _ _ | .mov _ | .movDomain _ | .lea _ | .cmp _ | .cmpi _ | .csrr _ | .csrw _ | .csrs _ => true
  | .fmtset _ | .fmtsetM _ | .dset _ | .rdtime _ => true
  | .pand _ | .por _ | .pxor _ | .pnot _ | .pmov _ | .pcount _ | .pfirst _ | .pset _ | .pget _ => true
  | .ld _ | .st _ | .atom _ | .cas _ | .fence _ | .mwait _ | .scall _ | .scallUp _ | .scallReply _ | .scallLaunch _ => true
  | .eret _ | .eretSkip _ | .mapfp _ | .tlbinvAll _ | .tlbinvSpace _ | .tlbinvPage _ | .tlbinvS2all _ | .tlbinvS2page _ => true
  | .icinvMod _ | .icinvRange _ | .modreg _ | .modrel _ | .modrelNb _ | .frscrub _ | .fotset _ | .wmset _ | .vfsave _ | .vfrest _ => true
  | .ctxsave _ | .ctxsaveKill _ | .ctxrest _ => true
  | _ => false

/-- The profile by constructor is the profile by opcode. -/
theorem inProfile_encode {c : Ctl} {i : Instr} {w : Word} {r : List Word} (he : encode c i = w :: r) :
    inProfile (opOf w).toNat = scalarProfile i := by
  cases i <;> cases he <;> simp only [Laws.op_wordA, Laws.op_wordI, Laws.op_wordJ, Laws.op_wordM, Laws.op_wordN] <;> rfl

/-- Only `scall` has forms of its own on a service core (R401). -/
theorem instrOf_svc {w : Word} (h : (opOf w).toNat ≠ 0xC9) (a b : Bool) (lit : Word) : instrOf a w lit = instrOf b w lit := by
  have row : (opOf w).toNat / 16 = 12 → rowCA a (fmtA w) ((opOf w).toNat % 16) = rowCA b (fmtA w) ((opOf w).toNat % 16) := by
    intro hr
    have hk : (opOf w).toNat % 16 ≠ 9 := by omega
    unfold rowCA
    split
    case h_10 => exact absurd ‹_› hk
    all_goals rfl
  unfold instrOf
  dsimp only
  split
  case h_13 hr => exact row hr
  all_goals rfl

/-- The lower of two conditions is one of them. -/
theorem lowerChk_eq (a b : Nat × Nat) : lowerChk a b = a ∨ lowerChk a b = b := by
  unfold lowerChk
  split
  · exact .inl rfl
  · split
    · exact .inr rfl
    · split
      · exact .inl rfl
      · exact .inr rfl

/-- A reported condition is one of the list, and is broken. -/
theorem mem_of_reportOf {l : List Chk} {r p : Nat} (h : reportOf l = some (r, p)) : ∃ k ∈ l, k.broken = true ∧ k.reason = r ∧ k.pos = p := by
  induction l generalizing r p with
  | nil => cases h
  | cons a l ih =>
    rw [reportOf] at h
    split at h
    · next ha =>
      have here : ∃ k ∈ a :: l, k.broken = true ∧ k.reason = a.reason ∧ k.pos = a.pos := ⟨a, List.mem_cons_self .., ha, rfl, rfl⟩
      split at h
      · cases h; exact here
      · next q hq =>
        obtain ⟨k, hk, hkq⟩ := ih (r := q.1) (p := q.2) hq
        have there : ∃ k ∈ a :: l, k.broken = true ∧ k.reason = q.1 ∧ k.pos = q.2 := ⟨k, List.mem_cons_of_mem _ hk, hkq⟩
        rcases lowerChk_eq (a.reason, a.pos) q with e | e <;> rw [e] at h <;> cases h
        · exact here
        · exact there
    · obtain ⟨k, hk, hkq⟩ := ih h
      exact ⟨k, List.mem_cons_of_mem _ hk, hkq⟩

/-- No condition on an instruction's own fields has the reason of the profile. -/
theorem checks_reason_ne (i : Instr) : (checks i).all (fun k => k.reason != 0x0B) = true := by
  cases i with
  | vlane f => by_cases h : f.md = 3 <;> simp only [checks, h, if_true, if_false] <;> rfl
  | pxout f => by_cases h : f.md.toNat % 2 = 1 <;> simp only [checks, h, if_true, if_false] <;> rfl
  | ident f => by_cases h : f.md = 6 <;> simp only [checks, identD, h, if_true, if_false] <;> rfl
  | _ => rfl

/-- A word of the profile is never refused with the profile's reason. -/
theorem decodeWord_reason_ne {svc : Bool} {slot : Nat} {w lit : Word} (hp : inProfile (opOf w).toNat = true) (p : Nat) :
    decodeWord svc slot w lit ≠ .error (.illegal 0x0B p) := by
  unfold decodeWord
  cases instrOf svc w lit with
  | none => simp
  | some j =>
    cases hr : reportOf (checks j ++ placeChks svc slot w) with
    | none => simp only [hr]; exact fun h => nomatch h
    | some q =>
      simp only [hr]
      intro h
      have hq : q.1 = 0x0B := by injection h with h; injection h
      obtain ⟨k, hk, broken, reason, -⟩ := mem_of_reportOf (r := q.1) (p := q.2) hr
      rw [hq] at reason
      rcases List.mem_append.1 hk with hk | hk
      · simpa [reason] using List.all_eq_true.1 (checks_reason_ne j) k hk
      · simp only [placeChks, List.mem_cons, List.not_mem_nil, or_false] at hk
        rcases hk with rfl | rfl
        · cases reason
        · simp [ck, hp] at broken

/-- A legal word outside the profile is refused on a service core, whatever follows it and wherever it stands. -/
theorem decodeWord_outside_profile {c : Ctl} {i : Instr} {w : Word} {r : List Word} (hw : wf i = true) (he : encode c i = w :: r)
    (hp : scalarProfile i = false) (slot : Nat) (lit : Word) : decodeWord true slot w lit = .error (.illegal 0x0B 40) := by
  have out : inProfile (opOf w).toNat = false := by rw [inProfile_encode he, hp]
  have form : isSvcForm i = false := by
    cases hs : isSvcForm i with
    | false => rfl
    | true => rw [inProfile_of_isSvcForm he hs] at out; cases out
  have hL : (opOf w).toNat ≠ 0x25 := fun h => by rw [h] at out; cases out
  have hS : (opOf w).toNat ≠ 0xC9 := fun h => by rw [h] at out; cases out
  have named : instrOf true w lit = some i := by
    rw [instrOf_svc hS true false, Laws.lit_irrel _ w (r.headD 0) hL, ← form]
    exact (instrOf_encode i c w r hw he).1
  have report : ∀ l : List Chk, (∀ k ∈ l, k.broken = false) → reportOf (l ++ placeChks true slot w) = some (0x0B, 40) := by
    intro l hl
    induction l with
    | nil => simp [placeChks, reportOf, ck, hL, out]
    | cons a l ih =>
      rw [List.cons_append, reportOf, hl a (List.mem_cons_self ..)]
      exact ih fun k hk => hl k (List.mem_cons_of_mem _ hk)
  unfold decodeWord
  rw [named]
  simp only [report _ (Laws.wf_checks hw)]

/-- Settles O51: the decoder's answer outside the profile, and the path that meets it. -/
theorem serviceProfile : Obligations.ServiceProfile := by
  intro c i w r slot lit he hw profile
  have same : profile = scalarProfile i := rfl
  rw [same]
  refine ⟨fun hp => decodeWord_outside_profile hw he hp slot lit,
    fun hp p => decodeWord_reason_ne (by rw [inProfile_encode he, hp]) p, ?_⟩
  intro hp s t l p q bytes hpow ha ht hc hcore k n h1 h2 h3 h4 h5 h6 h7 inside off u hq hb bs len hword gap wait
  have has : HasWord { s with chosen := l } t.core t.slot t.path p bytes := ⟨⟨h1, h2, h3, h4, h5, h6, h7⟩, inside, q, hq, hb⟩
  have hctl : ctlOf w = c := (instrOf_encode i c w r hw he).2
  have hL : (opOf w).toNat ≠ 0x25 := fun h => by
    have out := inProfile_encode he
    rw [hp, h] at out
    cases out
  have svc : isSvc t.core = true := by simpa [isSvc] using hcore
  have bad : decode (isSvc t.core) (p.pc.toNat % 64 / 8) (bytesAt p bytes) = .error (.illegal 0x0B 40) := by
    have head : wordOfBytes (bytesAt p bytes) = w := hword
    rw [svc, Laws.bytes_eq_word (show 8 ≤ (bytesAt p bytes).length from len), head, decode_cons _ _ _ _ (fun h => absurd h.1 hL),
      decodeWord_outside_profile hw he hp]
    rfl
  rw [← hctl, ← hword] at gap wait
  rw [← hword]
  exact step_of_trap hpow ha ht hc (has.prepare_illegal gap wait bad)

end Sys2Proof.Proofs
end

section
/-!
PROOFS. The events of the engines, of the memory system and of launches: what an event finds takes its meaning to the effect.
-/

namespace Sys2Proof.Proofs

open Sys2Proof Sys2Proof.Machine

/-- Settles O31, event by event: what an event finds in the state takes its meaning to the clause's effect. -/
theorem engineEventResults : Obligations.EngineEventResults := by
  intro s c t
  dsimp only
  refine ⟨fun hc => ⟨fun forked => ?_, fun forked next wait room => ?_, fun fin copy => ?_, fun a fault kept => ?_,
      fun l serves hl => ?_, fun query fin => ?_, fun r l v ray ht run kept ok first trace => ?_⟩,
    fun h => ?_, fun h => ?_, fun h => ?_, fun h => ?_, fun h => ?_, fun a r ht held run => ?_, rfl⟩
  · simp [execEngineWordStart, hc, forked]
  · have turn : ¬ (((s.core s.ev.a).nextQueued c.eng).map (fun x => x.seq) ≠ some c.seq ∨ (!s.waitOver s.ev.a c) = true ∨
        512 ≤ (s.core s.ev.a).inFlight c.eng) := by simp [next, wait, room]
    refine ⟨fun other => ?_, fun copy ht => ?_⟩
    · simp only [exec_engineWordStart, execEngineWordStart, hc, forked, if_neg turn, Bool.false_eq_true, if_false, if_pos other]
    · have copier : ¬ c.eng ≠ 1 := fun other => other copy
      refine ⟨fun locked => ?_, fun open_ => ⟨fun mem => ?_, fun src dst => ?_⟩⟩ <;>
        simp only [exec_engineWordStart, execEngineWordStart, hc, forked, if_neg turn, Bool.false_eq_true, if_false, if_neg copier, ht]
      · rw [if_pos locked]
      · rw [open_, if_neg Bool.false_ne_true, if_pos mem]
      · rw [open_, if_neg Bool.false_ne_true, if_neg (not_or.2 ⟨src, dst⟩)]
  · simp [execCopyCommandComplete, hc, fin, copy]
  · simp [execEngineCommandFault, hc, fault, kept]
  · simp [execWdqService, hc, serves, hl]
  · simp [execWdqAnswer, hc, query, fin]
  · simp [execRayBatchComplete, hc, ray, ht, run, kept, ok, first, trace]
  · simp [execLine, h]
  · simp [execBox, h]
  · simp [execFill, h]
  · simp [execZpack, h]
  · simp [execZunpack, h]
  · simp [execAsyncFaultDelivery, ht, held, run]

/-- Settles O33, event by event. -/
theorem memoryEventResults : Obligations.MemoryEventResults := by
  intro s
  dsimp only
  refine ⟨rfl, fun w hw after clear => ?_, fun arrived => ?_, ⟨fun kept => ?_, fun r hr free mate => ?_⟩, fun a ha acked clear => ?_,
    fun o ho pending todo => ?_, fun o a ho arrived => ⟨fun ended => ?_, fun live held => ⟨fun good => ?_,
      fun p bad hp => ⟨fun now => ?_, fun late rec_ => ?_, fun late rec_ => ?_⟩⟩⟩,
    rfl, rfl, rfl, rfl, fun p m t hp hm poll due => ?_, fun h => ?_, fun h => ?_⟩
  · simp [execWritebackArrival, hw, after, clear]
  · simp [execWritebackAck, arrived]
  · rcases kept with none_ | later
    · simp only [exec_loadRequestArrival, execLoadRequestArrival, none_]
      rfl
    · have later : (s.core s.ev.a).before s.ev.b < (s.core s.ev.a).nextId := later
      cases hr : (s.core s.ev.a).reqs.find? (fun r => r.line == s.ev.b) <;>
        simp only [exec_loadRequestArrival, execLoadRequestArrival, hr, later, decide_true, Bool.true_or, if_true] <;> rfl
  · have free : ¬ (s.core s.ev.a).before s.ev.b < (s.core s.ev.a).nextId := Nat.not_lt.2 free
    simp only [exec_loadRequestArrival, execLoadRequestArrival, hr, free, mate, decide_false, Bool.or_self, Bool.false_eq_true, if_false]
    rfl
  · simp [execAtomicAtHome, ha, acked, clear]
  · simp [execLongLatencyWriteComplete, ho, pending, todo]
  · simp [execLongLatencyWriteComplete, ho, arrived, ended]
  · rcases good with good | good <;> simp [execLongLatencyWriteComplete, ho, arrived, live, held, good]
  · simp only [exec_longLatencyWriteComplete, execLongLatencyWriteComplete, ho, arrived, live, held, if_neg bad, hp, now, Bool.not_true,
      Bool.false_eq_true, if_false, if_true]
  · have recorded : a.rec_.isEmpty = false := by simp [rec_]
    simp only [exec_longLatencyWriteComplete, execLongLatencyWriteComplete, ho, arrived, live, held, if_neg bad, hp, late, recorded, Bool.not_true,
      Bool.false_eq_true, if_false, Bool.not_false, if_true]
  · simp only [exec_longLatencyWriteComplete, execLongLatencyWriteComplete, ho, arrived, live, held, if_neg bad, hp, late, rec_,
      List.isEmpty_nil, Bool.not_true, Bool.false_eq_true, if_false]
  · simp [execMwaitPoll, hp, hm, poll, Nat.not_lt.2 due, State.pollAt]
  · simp [execLoamRefreshWindowStart, h]
  · simp [execLoamRefreshWindowEnd, h]

/-- Settles O34, event by event. -/
theorem launchEventResults : Obligations.LaunchEventResults := by
  intro s
  dsimp only
  refine ⟨fun l hl => ⟨fun queued idle => ⟨fun batch => ?_, fun plain => ⟨fun b t read => ?_, fun q read => ?_⟩⟩,
      ⟨fun push next take core room => ?_, fun q move stuck => ?_, fun core t push move next take near place => ?_⟩,
      fun st due => ⟨fun crec => ?_, fun crec aligned => ⟨fun q t write => ?_, fun q write => ?_⟩⟩⟩,
    fun t ht => ⟨fun placed time => ?_, fun spent => ?_⟩, fun time => ?_,
    ⟨fun entry => ⟨fun good => ?_, fun bad => ?_⟩, fun entry unused => ?_⟩, fun o ho => ?_, fun id kind a ho => ?_,
    fun b hb left => ⟨fun svc => ?_, fun t team ht => ?_⟩⟩
  · simp [execLaunchValidation, hl, queued, idle, batch]
  · simp [execLaunchValidation, hl, queued, idle, plain, read]
  · simp [execLaunchValidation, hl, queued, idle, plain, read]
  · simp only [exec_teamPlacement, execTeamPlacement, hl, if_pos push, next, take, core, room, and_self, if_true]
  · simp [execTeamPlacement, hl, move, stuck]
  · simp [execTeamPlacement, hl, push, move, next, take, near, place]
  · simp only [exec_launchCompletion, execLaunchCompletion, hl, due, if_pos crec]
  · simp [execLaunchCompletion, hl, due, crec, aligned, write]
  · simp [execLaunchCompletion, hl, due, crec, aligned, write]
  · simp [execTeamStart, ht, placed, time]
  · simp only [exec_teamRetirement, execTeamRetirement, ht, spent, if_true]
  · simp only [exec_neighbourBalancing, execNeighbourBalancing, if_neg (Nat.not_lt.2 time)]
  · simp [execModuleVerificationComplete, entry, good]
  · simp [execModuleVerificationComplete, entry, bad]
  · simp [execModuleReleaseComplete, entry, unused]
  · simp [execIcinvComplete, ho]
  · rw [exec_frscrubComplete, execFrscrubComplete]
    split
    · next none_ => exact nomatch ho.symm.trans none_
    · next found => cases ho.symm.trans found; rfl
  · simp only [exec_scallBatchComplete, execScallBatchComplete, hb, left, ne_eq, not_true_eq_false, if_false, if_pos svc]
  · simp only [exec_scallBatchComplete, execScallBatchComplete, hb, left, ne_eq, not_true_eq_false, if_false, if_neg team, ht]

end Sys2Proof.Proofs
end

section
/-!
PROOFS. Control transfers, splits and loops (R20, R21, R25, R70, R74 to R77), and the lane that `elect` takes (R78).
-/

namespace Sys2Proof.Proofs

open Sys2Proof Sys2Proof.Machine

/-! ### Targets -/

/-- A jump to an aligned target inside the code segment moves the path there (R20, R22, R25). -/
theorem jump_of_aligned (s : State) (c : Ctx) {t : Word} (aligned : t.toNat % 64 = 0) (inside : t.toNat < c.p.csize) :
    s.jump c t = .ok (s.modCur c (fun p => p.redirect t c.vc)) := by
  unfold State.jump
  rw [if_neg (fun off => off aligned), if_neg (Nat.not_le.2 inside)]

/-- A block base and every multiple of 64 added to it are aligned (R19, R36). -/
theorem jTarget_aligned (c : Ctx) (f : FmtJ) : (c.jTarget f).toNat % 64 = 0 := by
  have base : (blockBase c.p.pc).setWidth 6 = 0 := by
    rw [blockBase, BitVec.setWidth_and]
    exact BitVec.and_zero
  have off : (f.off.signExtend 64 <<< 6 : Word).setWidth 6 = 0 := by
    apply BitVec.eq_of_getLsbD_eq
    intro i hi
    simp [hi]
  have low : (c.jTarget f).setWidth 6 = 0 := by
    rw [Ctx.jTarget, BitVec.setWidth_add _ _ (by decide), base, off]
    rfl
  simpa using congrArg BitVec.toNat low

/-! ### Branches (R76) -/

/-- A branch whose condition holds goes to its target, where that is aligned and inside the code segment; otherwise the path goes on
at the next word. -/
theorem branchOp_goes {s u : State} {c : Ctx} {ops : List Opnd} (h : Ready s c none ops u) {take : Ctx → Bool} {P : Prop}
    (hP : take c = true ↔ P) (target : Ctx → Word) :
    (P → (target c).toNat % 64 = 0 → (target c).toNat < c.p.csize →
      branchOp s ops take target = c.done (u.modCur c (fun p => p.redirect (target c) c.vc))) ∧
    (¬ P → branchOp s ops take target = c.done (u.advance c)) := by
  refine ⟨fun hp aligned inside => run_ok h.toIssuing ?_, fun hp => run_ok h.toIssuing ?_⟩
  · simp only [h.operands, bind, Except.bind, if_pos (hP.2 hp), jump_of_aligned u c aligned inside]
  · simp only [h.operands, bind, Except.bind, if_neg (fun ht => hp (hP.1 ht))]

/-- The scalar guard rule asks for one active lane in which the guard holds (R38). -/
theorem on_iff (c : Ctx) (g : BitVec 5) : c.on g = true ↔ c.guard g ≠ 0 := decide_eq_true_iff

/-- The guarded lanes are all active lanes exactly where the guard holds in every active lane. -/
theorem guard_eq_mask_iff (c : Ctx) (g : BitVec 5) :
    c.guard g = c.p.mask ↔ ∀ l, c.p.mask.getLsbD l = true → (c.guard g).getLsbD l = true := by
  refine ⟨fun h l hl => h ▸ hl, fun h => BitVec.eq_of_getLsbD_eq fun l _ => ?_⟩
  have active : (c.guard g).getLsbD l = true → c.p.mask.getLsbD l = true := fun hg => by
    rw [Ctx.guard, BitVec.getLsbD_and, Bool.and_eq_true] at hg
    exact hg.2
  exact Bool.eq_iff_iff.2 ⟨active, h l⟩

/-- Settles O14, branch by branch; `call` sends its link before it jumps. -/
theorem controlTransferResults : Obligations.ControlTransferResults := by
  intro s u c
  refine ⟨fun f => ⟨fun h => ⟨?_, ?_, ?_⟩, fun h => ⟨fun on aligned inside => run_ok h.toIssuing ?_, fun off => run_ok h.toIssuing ?_⟩⟩,
    fun f h => ⟨?_, ?_, ?_⟩⟩
  · exact branchOp_goes h (iff_of_true rfl trivial) (·.jTarget f)
  · exact branchOp_goes h (on_iff c f.g) (·.jTarget f)
  · exact branchOp_goes h (decide_eq_true_iff.trans (guard_eq_mask_iff c f.g)) (·.jTarget f)
  · have jumps := jump_of_aligned (u.landX c 2 63 (blockBase c.p.pc + 64)) c (t := c.jTarget f) aligned inside
    simp only [h.operands, bind, Except.bind, if_pos ((on_iff c f.g).2 on), jumps]
    rfl
  · simp only [h.operands, bind, Except.bind, if_neg (fun on => off ((on_iff c f.g).1 on))]
  · exact branchOp_goes h (on_iff c f.g) (fun c => blockBase c.p.pc + c.xv f.s1)
  · exact branchOp_goes h (on_iff c f.g) (fun c => c.xv f.s1)
  · exact branchOp_goes h (on_iff c f.g) (fun c => c.xv f.s1)

/-! ### Splits, re-fusion and exits (R70, R75, R76) -/

/-- Lanes exit where no write of their team's slots to a link peer is outstanding or in error (R393). -/
theorem exits_ok {c : Ctx} {s : State} {m : Mask}
    (quiet : ∀ p ∈ s.ports, ∀ t ∈ p.2.txns, t.write = true → t.core = c.core → t.slot ∉ ((c.lastOf s m).map (·.slots)).getD [])
    (clean : ∀ sl ∈ ((c.lastOf s m).map (·.slots)).getD [], s.linkError c.core sl = false) :
    c.exits s m = .ok ((s.advance c).exitLanes c.core c.slot c.p.id m) := by
  unfold Ctx.exits
  cases last : c.lastOf s m with
  | none => simp
  | some t =>
    rw [last] at quiet clean
    have written : (s.ports.any fun p => p.2.txns.any fun x => x.write && x.core == c.core && t.slots.contains x.slot) = false := by
      simpa using quiet
    have errors : t.slots.any (s.linkError c.core) = false := by simpa using clean
    simp only [written, errors, Bool.false_eq_true, if_false]

/-- Settles O15: `brc` splits, `rejoin` finds its entry or none, `exit` finds no write of its slots outstanding. -/
theorem divergenceResults : Obligations.DivergenceResults := by
  intro s c h
  refine ⟨fun f room target => run_ok h ?_, fun f => ⟨fun none_ => run_ok h ?_, fun e found token => run_ok h ?_⟩,
    fun f quiet clean => run_ok h (exits_ok quiet clean)⟩
  · have inside : ¬ (c.guard f.g ≠ 0 ∧ c.p.csize ≤ (c.jTarget f).toNat) := fun ⟨some_, out⟩ =>
      target.elim some_ (fun inside => Nat.not_le.2 inside out)
    simp only [if_neg (Nat.not_le.2 room), if_neg inside]
    rfl
  · simp only [none_]
  · simp only [found, token, ne_eq, not_true_eq_false, if_false]

/-! ### Loops and software traps (R76, R77) -/

/-- A count is left after `loop` where it took the last of neither. -/
theorem loop_more_iff (lc ec : Nat) :
    (0 < lc - 1 ∨ 0 < if lc ≠ 0 then ec else ec - 1) ↔ if lc ≠ 0 then 2 ≤ lc ∨ ec ≠ 0 else 2 ≤ ec := by
  split <;> omega

/-- The count that `loop` consumes: `lc` where it is left, else `ec`. -/
theorem loop_count (s : State) (c : Ctx) :
    (if c.w.lc ≠ 0 then s.land c 1 (.lc (c.w.lc - 1))
      else if c.w.ec ≠ 0 then s.land c 1 (.ec (if c.w.lc ≠ 0 then c.w.ec else c.w.ec - 1)) else s) =
    if c.w.lc ≠ 0 then s.land c 1 (.lc (c.w.lc - 1)) else if c.w.ec ≠ 0 then s.land c 1 (.ec (c.w.ec - 1)) else s := by
  by_cases left : c.w.lc = 0 <;> simp [left]

/-- Settles O16: the counts that `loop` leaves decide whether it branches. -/
theorem loopAndTrapResults : Obligations.LoopAndTrapResults := by
  intro s c h
  refine ⟨fun f => ⟨fun off => run_ok h ?_, fun on last => run_ok h ?_, fun on more inside => run_ok h ?_⟩,
    fun f => ⟨fun on => run_trap h.ctx h.free ?_, fun off => run_ok h ?_⟩⟩
  · simp only [off, Bool.false_eq_true, if_false]
  · simp only [on, if_true, loop_count, loop_more_iff, if_neg last]
  · have jumps := fun t : State => jump_of_aligned t c (jTarget_aligned c f) inside
    simp only [on, if_true, loop_count, loop_more_iff, if_pos more, jumps]
    rfl
  · simp only [on, if_true]
    rfl
  · simp only [off, Bool.false_eq_true, if_false]

/-! ### The elected lane (R78) -/

/-- The lowest lane of a mask that is not empty is one of its lanes, and no lower lane is. -/
theorem lowestLane_spec {m : Mask} (h : m ≠ 0) :
    lowestLane m < 64 ∧ m.getLsbD (lowestLane m) = true ∧ ∀ j < lowestLane m, m.getLsbD j = false := by
  cases hf : (List.range 64).find? (fun l => m.getLsbD l) with
  | none =>
    refine absurd (BitVec.eq_of_getLsbD_eq fun l hl => ?_) h
    simpa using List.find?_eq_none.1 hf l (List.mem_range.2 hl)
  | some l =>
    have low : lowestLane m = l := by
      rw [lowestLane, lanesOf, idxs, List.headD_eq_head?_getD, List.head?_filter, hf]
      rfl
    obtain ⟨here, inside, below⟩ := List.find?_range_eq_some.1 hf
    rw [low]
    exact ⟨List.mem_range.1 inside, here, fun j hj => by simpa using below j hj⟩

theorem getLsbD_laneBit {k l : Nat} (hl : l < 64) : (laneBit k).getLsbD l = true ↔ l = k := by
  rw [laneBit, BitVec.getLsbD_ofNat, Nat.testBit_two_pow]
  simp [hl, eq_comm]

/-- The bit of a mask's lowest lane holds in that lane of the mask below which it has none, and in no other lane. -/
theorem getLsbD_lowest {m : Mask} {l : Nat} (hl : l < 64) :
    (if m = 0 then 0 else laneBit (lowestLane m)).getLsbD l = true ↔ m.getLsbD l = true ∧ ∀ j, j < l → m.getLsbD j = false := by
  by_cases h : m = 0
  · simp [h]
  · obtain ⟨_, here, below⟩ := lowestLane_spec h
    rw [if_neg h, getLsbD_laneBit hl]
    refine ⟨fun e => e ▸ ⟨here, below⟩, fun ⟨at_, under⟩ => ?_⟩
    rcases Nat.lt_trichotomy l (lowestLane m) with lt | eq | gt
    · exact absurd (at_.symm.trans (below l lt)) (by decide)
    · exact eq
    · exact absurd (here.symm.trans (under _ gt)) (by decide)

/-- Condition `q` is reported before `r`, or they are one: lowest reason, then lowest bit (R41). -/
def Precedes (q r : Nat × Nat) : Prop := q.1 < r.1 ∨ q.1 = r.1 ∧ q.2 ≤ r.2

theorem Precedes.refl (q : Nat × Nat) : Precedes q q := .inr ⟨rfl, Nat.le_refl _⟩

theorem Precedes.trans {p q r : Nat × Nat} (h : Precedes p q) (k : Precedes q r) : Precedes p r := by
  unfold Precedes at *
  omega

theorem Precedes.antisymm {q r : Nat × Nat} (h : Precedes q r) (k : Precedes r q) : q = r := by
  unfold Precedes at *
  exact Prod.ext (by omega) (by omega)

theorem lowerChk_precedes (a b : Nat × Nat) : Precedes (lowerChk a b) a ∧ Precedes (lowerChk a b) b := by
  unfold lowerChk Precedes
  split
  · omega
  · split
    · omega
    · split <;> omega

/-- What is reported precedes every broken condition. -/
theorem reportOf_precedes {l : List Chk} {q : Nat × Nat} (h : reportOf l = some q) :
    ∀ x ∈ l, x.broken = true → Precedes q (x.reason, x.pos) := by
  induction l generalizing q with
  | nil => exact nomatch h
  | cons a l ih =>
    by_cases ha : a.broken = true
    · cases hl : reportOf l with
      | none =>
        simp only [reportOf, ha, hl, if_true, Option.some.injEq] at h
        have sound := (Laws.reportOf_none l).1 hl
        exact List.forall_mem_cons.2 ⟨fun _ => h ▸ .refl _, fun x hx hb => absurd hb (by simp [sound x hx])⟩
      | some r =>
        simp only [reportOf, ha, hl, if_true, Option.some.injEq] at h
        obtain ⟨left, right⟩ := lowerChk_precedes (a.reason, a.pos) r
        rw [h] at left right
        exact List.forall_mem_cons.2 ⟨fun _ => left, fun x hx hb => right.trans (ih hl x hx hb)⟩
    · simp only [reportOf, ha] at h
      exact List.forall_mem_cons.2 ⟨fun hb => absurd hb ha, ih h⟩

/-- A broken condition that precedes every broken one is the one reported (R41). -/
theorem reportOf_of_lowest {l : List Chk} {k : Chk} (hk : k ∈ l) (broken : k.broken = true)
    (lowest : ∀ x ∈ l, x.broken = true → Precedes (k.reason, k.pos) (x.reason, x.pos)) : reportOf l = some (k.reason, k.pos) := by
  cases h : reportOf l with
  | none => exact absurd broken (by simp [(Laws.reportOf_none l).1 h k hk])
  | some q =>
    obtain ⟨x, hx, hb, hr, hp⟩ := mem_of_reportOf h
    have above : Precedes (k.reason, k.pos) q := (show (x.reason, x.pos) = q from Prod.ext hr hp) ▸ lowest x hx hb
    exact congrArg some ((reportOf_precedes h k hk broken).antisymm above)

/-- A predicate index that may be written: p1 to p15, without FE (R37, R89). -/
theorem pd_iff (d : BitVec 8) : (¬ 15 < opIdx d ∧ opFe d = false ∧ opIdx d ≠ 0) ↔ 1 ≤ d.toNat ∧ d.toNat ≤ 15 := by
  have fe : opFe d = decide (d.toNat / 128 % 2 = 1) := by
    rw [opFe, ← BitVec.testBit_toNat, Nat.testBit_eq_decide_div_mod_eq]
  have := d.isLt
  rw [fe, opIdx, decide_eq_false_iff_not]
  omega

theorem checks_elect (f : FmtA) : checks (.elect f) =
    [rng 15 f.d 32, noFe f.d 32, ck 7 32 (opIdx f.d = 0), ck 7 24 (f.s1 ≠ 0), ck 7 16 (f.s2 ≠ 0), ck 7 8 (f.s3 ≠ 0), ck 7 5 (f.md ≠ 0),
      ck 8 0 (f.g = 16)] := rfl

/-- Settles O54: the lane by `lowestLane`, the legality by the conditions of the word. -/
theorem electOneLane : Obligations.ElectOneLane := by
  refine ⟨fun s c f h => ⟨if c.guard f.g = 0 then 0 else laneBit (lowestLane (c.guard f.g)), fun l hl => getLsbD_lowest hl, run_ok h rfl⟩,
    fun f => ?_, fun f low high => ?_, fun f hd h1 h2 h3 hm => ?_⟩
  · rw [← pd_iff, wf, decide_eq_true_eq, legality, Laws.reportOf_none, checks_elect]
    simp only [List.forall_mem_cons, List.not_mem_nil, false_implies, implies_true, and_true, rng, noFe, ck, decide_eq_false_iff_not,
      Bool.not_eq_true, ne_eq, Decidable.not_not]
    exact ⟨fun ⟨range, fe, some_, h1, h2, h3, hm, hg⟩ => ⟨h1, h2, h3, hm, hg, range, fe, some_⟩,
      fun ⟨h1, h2, h3, hm, hg, range, fe, some_⟩ => ⟨range, fe, some_, h1, h2, h3, hm, hg⟩⟩
  · obtain ⟨range, fe, some_⟩ := (pd_iff f.d).2 ⟨low, high⟩
    refine ⟨fun h3 h2 h1 hm => ?_, fun h2 h3 h1 hm => ?_, fun h1 h3 h2 hm => ?_, fun hm => ?_⟩
    · refine reportOf_of_lowest (k := ck 7 8 (f.s3 ≠ 0)) ?_ (decide_eq_true h3) ?_ <;> simp [checks_elect, Precedes, rng, noFe, ck, *]
    · refine reportOf_of_lowest (k := ck 7 16 (f.s2 ≠ 0)) ?_ (decide_eq_true h2) ?_ <;> simp [checks_elect, Precedes, rng, noFe, ck, *]
    · refine reportOf_of_lowest (k := ck 7 24 (f.s1 ≠ 0)) ?_ (decide_eq_true h1) ?_ <;> simp [checks_elect, Precedes, rng, noFe, ck, *]
    · refine reportOf_of_lowest (k := ck 7 5 (f.md ≠ 0)) ?_ (decide_eq_true hm) ?_ <;> simp [checks_elect, Precedes, rng, noFe, ck, *]
  · have zero : opIdx f.d = 0 ∧ opFe f.d = false := by rw [hd]; exact ⟨rfl, rfl⟩
    refine reportOf_of_lowest (k := ck 7 32 (opIdx f.d = 0)) ?_ (decide_eq_true zero.1) ?_ <;> simp [checks_elect, Precedes, rng, noFe, ck, zero, h1, h2, h3, hm]

end Sys2Proof.Proofs
end

section
/-!
PROOFS. The points of teams and groups, `sleep`, `ident`, launches, calls and the return from a handler (R64, R75, R80 to R85, R264, R274,
R336, R396 to R401).
-/

namespace Sys2Proof.Proofs

open Sys2Proof Sys2Proof.Machine

/-! ### Points (R75, R80 to R85) -/

/-- A team that belongs to a group is its member (R81). -/
theorem member_ok {c : Ctx} {s : State} {g : Nat} {t : Team} {l : Launch} (ht : s.teamOf c.w = some t)
    (hl : s.launch c.w.handle = some l) (named : g ≤ 256) (member : l.member g t.idx = true) : c.member s g = .ok () := by
  simp only [Ctx.member, ht, hl, named, member, and_self, if_true]

/-- Settles O17: each instruction under its guard, the group ones in a member. -/
theorem teamAndGroupResults : Obligations.TeamAndGroupResults := by
  intro s u c
  dsimp only
  refine ⟨fun f h => ⟨fun on => run_ok h ?_, fun off => run_ok h ?_, fun room => run_ok h ?_⟩,
    fun f h => ⟨fun on t l ht hl named member => ⟨run_ok h ?_, run_ok h ?_⟩, fun off => ⟨run_ok h ?_, run_ok h ?_⟩,
      fun on => run_ok h ?_, fun off => run_ok h ?_⟩,
    fun f h => ⟨fun on t l ht hl named member => run_ok h.toIssuing ?_, fun off => run_ok h.toIssuing ?_⟩,
    fun f kind h => run_ok h.toIssuing ?_,
    fun f kind h => ⟨fun on => run_ok h.toIssuing ?_, fun off => run_ok h.toIssuing ?_⟩⟩
  · simp only [on, if_true]
    rfl
  · simp only [off, Bool.false_eq_true, if_false]
  · have free : (c.on f.g && decide (sigOf f.s3 ≠ 15) && decide (63 ≤ c.w.fr (sigOf f.s3))) = false := by
      rcases room with off | none_ | room
      · simp [off]
      · simp [none_]
      · simp [Nat.not_le.2 room]
    simp only [free, Bool.false_eq_true, if_false]
    rfl
  · simp only [on, if_true, member_ok ht hl named member]
    rfl
  · simp only [on, if_true, member_ok ht hl named member]
    rfl
  · simp only [off, Bool.false_eq_true, if_false]
  · simp only [off, Bool.false_eq_true, if_false]
  · simp only [on, if_true]
  · simp only [off, Bool.false_eq_true, if_false]
  · simp only [h.operands, bind, Except.bind, on, if_true, if_neg (Nat.not_lt.2 named), member_ok ht hl named member]
    rfl
  · simp only [h.operands, bind, Except.bind, off, Bool.false_eq_true, if_false]
  · have other : f.md.toNat ≠ 6 := fun e => kind (BitVec.eq_of_toNat_eq e)
    cases on : c.on f.g <;> simp [h.operands, bind, Except.bind, other, on, Ctx.scalar]
  · simp [h.operands, bind, Except.bind, kind, on, Ctx.lanes]
  · simp [h.operands, bind, Except.bind, kind, off]

/-! ### Launches (R64) -/

/-- The launch that a submission enters, before it has its handle (R64). -/
def launchOf (c : Ctx) (a : Acc) (addr : Word) (sig : Nat) : Launch :=
  { handle := 0, die := dieOf c.core, vf := a.vf, part := a.part, level := a.level, space := BitVec.ofNat 16 a.space, addr := addr,
    doms := (List.range 8).map (fun i => c.w.dr i), csig := sig,
    launcher := some (if c.svc then (0, c.core, 0) else (c.w.handle, c.w.team, c.w.widx)) }

/-- The CSIG byte of a block and the state after its read, from memory or from a link peer. -/
def csigByte (s : State) (q : LaneAt) : List Byte × State :=
  if isWindow q.pa then s.pcieRead 1 else (s.homeBytes q.pa 1 q.cmp, s)

/-- The flag that a CSIG byte names: 16 where it names none. -/
def csigFlag (n : Nat) : Nat := if 16 ≤ n ∨ 12 ≤ n % 16 ∧ n % 16 ≤ 14 then 16 else n

/-- A launch of an aligned, readable block enters the queue, with its flag counted. -/
theorem submit_ok {c : Ctx} {u v : State} {a : Acc} {addr : Word} {r : Located} {q : LaneAt} {ql : List LaneAt}
    (aligned : addr.toNat % 64 = 0) (room : u.launchFull (dieOf c.core) a.part = false)
    (located : u.locateLanes c.core 0 a 0 [(lowestLane c.p.mask, addr + 0x58)] = (r, v)) (here : r.miss = false) (ok : r.ok = q :: ql)
    (good : isWindow q.pa = true ∨ (v.flushNow c.core).homeBad q.pa q.cmp = false) :
    let b := csigByte (v.flushNow c.core) q
    let sig := csigFlag (ofBytes b.1)
    let flag := if sig ≤ 11 then sig else 15
    c.flagRoom b.2 flag = true → c.submit u a addr = .ok ((c.flagged b.2 flag).submit (launchOf c a addr sig)) := by
  intro b sig flag hflag
  have readable : (!isWindow q.pa && (v.flushNow c.core).homeBad q.pa q.cmp) = false := by
    rcases good with g | g <;> simp [g]
  have counts := flagInc_ok hflag
  unfold Ctx.submit
  simp only [aligned, ne_eq, not_true_eq_false, if_false, room, Bool.false_eq_true, located, here, ok, readable]
  exact congrArg (fun x : Try State => x >>= fun s => .ok (s.submit (launchOf c a addr sig))) counts

/-! ### The return from a handler (R336) -/

/-- A path of the level that an instruction of row 0xE asks for may issue it (R43). -/
theorem needs_ok {c : Ctx} {lv : Level} (level : lv.rank ≤ c.p.level.rank) : c.needs lv = .ok () := if_neg (Nat.not_lt.2 level)

/-- `eret` returns in a handler, and elsewhere is no instruction (R41, R336). -/
theorem eretOp_issuing {s : State} {c : Ctx} (h : Issuing s c) (level : Level.supervisor.rank ≤ c.p.level.rank) (f : FmtA) (skip : Bool) :
    (c.on f.g = false → eretOp s f skip = c.done (s.advance c)) ∧
    (c.on f.g = true → c.svc = false → c.p.handler = true → eretOp s f skip = c.done (c.eret s skip)) ∧
    (c.on f.g = true → c.svc = true ∨ c.p.handler = false →
      eretOp s f skip = .next (s.takeTrap c 0x01 (illegalInfo 0x07 40) none [])) := by
  refine ⟨fun off => run_ok h ?_, fun on core handler => run_ok h ?_, fun on out => run_trap h.ctx h.free ?_⟩
  · simp [needs_ok level, bind, Except.bind, off]
  · simp [needs_ok level, bind, Except.bind, on, core, handler]
  · have outside : (c.svc || !c.p.handler) = true := by rcases out with o | o <;> simp [o]
    simp [needs_ok level, bind, Except.bind, on, outside, trapS]

/-! ### Calls (R398, R401) -/

/-- Settles O29: each instruction once its operands are taken and its queue, ring and flag have room. -/
theorem callAndReturnResults : Obligations.CallAndReturnResults := by
  intro s u u1 v c f r q ql
  dsimp only
  refine ⟨fun h => ⟨fun off => run_ok h.toIssuing ?_, fun on aligned room located here ok good flag => run_ok h.toIssuing ?_⟩,
    fun h => ⟨fun off => run_ok h.toIssuing ?_, fun p on part vf own aligned room located here ok good flag => run_ok h.toIssuing ?_⟩,
    fun h t ht lanes mine held ring rel flag => run_ok h.toIssuing ?_,
    fun h => ?_,
    fun h => ⟨fun off => run_ok h ?_, fun on => run_ok h ?_, fun level => ?_⟩,
    fun h level => ⟨fun off => run_ok h.toIssuing ?_, fun on ring rel flag => run_ok h.toIssuing ?_⟩,
    fun h => ⟨(sysDo_ready h).1, fun on => ?_⟩⟩
  · simp only [h.operands, bind, Except.bind, off, Bool.not_false, if_true]
  -- `launch` and `scall.launch` submit their block
  · have submits : c.submit u (c.acc u f.md.toNat) (c.xv f.s1) = .ok _ := submit_ok aligned room located here ok good flag
    simp only [h.operands, bind, Except.bind, on, Bool.not_true, Bool.false_eq_true, if_false, submits]
    rfl
  · simp only [needs_ok h.level, h.operands, bind, Except.bind, off, Bool.not_false, if_true]
  · have named : (c.part u).filter (fun p => decide ((c.xv f.s3).toNat < 512) && (u.part p).hasVf (c.xv f.s3).toNat) = some p := by
      simp [part, vf, own]
    have submits : c.submit u { c.acc u (opIdx f.s2 % 8) with vf := (c.xv f.s3).toNat } (c.xv f.s1) = .ok _ :=
      submit_ok aligned room located here ok good flag
    simp only [needs_ok h.level, h.operands, bind, Except.bind, on, Bool.not_true, Bool.false_eq_true, if_false, named, submits]
    rfl
  -- `scall` finds room in its batches and in the ring
  · have slots := not_or.2 ⟨Nat.not_le.2 mine, Nat.not_le.2 held⟩
    have counts : c.flagInc u1 (sigOf f.s3) = .ok (c.flagged u1 (sigOf f.s3)) := flagInc_ok flag
    simp only [h.operands, bind, Except.bind, ht, if_neg (Nat.not_lt.2 lanes), ring, rel, counts, Bool.not_true,
      Bool.false_eq_true, if_false]
    exact if_neg slots
  -- `fcall`, `fcall.done`, `eret`
  · exact scalarDo_ready h (f := fun c s => .ok (s.nextEpoch c)) (fun _ => rfl)
  · simp only [off, Bool.not_false, if_true]
  · simp only [on, Bool.not_true, Bool.false_eq_true, if_false]
  · obtain ⟨off, inside, outside⟩ := eretOp_issuing h level f false
    obtain ⟨off', inside', outside'⟩ := eretOp_issuing h level f true
    exact ⟨fun g => ⟨off g, off' g⟩, fun g core handler => ⟨inside g core handler, inside' g core handler⟩, fun g out => ⟨outside g out, outside' g out⟩⟩
  -- `scall.up` of a hypervisor
  · simp only [needs_ok h.level, h.operands, bind, Except.bind, level, off, Bool.not_false, if_true, if_false]
  · have counts : c.flagInc u1 (sigOf f.s3) = .ok (c.flagged u1 (sigOf f.s3)) := flagInc_ok flag
    simp only [needs_ok h.level, h.operands, bind, Except.bind, level, on, ring, rel, counts, Bool.not_true, Bool.false_eq_true, if_false]
    rfl
  -- `scall.reply`: the ring and the caller are those of the replying level
  · cases part : c.part u
    all_goals
      dsimp only
      refine ⟨fun out => (sysDo_ready h).2 _ on ?_, fun inside free => (sysDo_ready h).2 _ on ?_,
        fun inside held rel => ⟨fun gone => (sysDo_ready h).2 _ on ?_, fun b hb => (sysDo_ready h).2 _ on ?_⟩⟩
      · simp only [part, if_pos out]
        rfl
      · simp only [part, if_neg (Nat.not_le.2 inside), free, Bool.not_false, if_true]
        rfl
      · simp only [part, if_neg (Nat.not_le.2 inside), held, rel, bind, Except.bind, Bool.not_true, Bool.false_eq_true, if_false, gone]
        rfl
      · simp only [part, if_neg (Nat.not_le.2 inside), held, rel, bind, Except.bind, Bool.not_true, Bool.false_eq_true, if_false, hb]
        rfl

end Sys2Proof.Proofs
end

section
/-!
PROOFS. The events of boundaries, groups, halts, handlers, pre-emption and context saves (R75, R80 to R86, R260 to R263, R331 to R348), and what
reset leaves.
-/

namespace Sys2Proof.Proofs

open Sys2Proof Sys2Proof.Machine

/-- Settles O35, event by event: what an event finds in the state takes its meaning to the clause's effect. -/
theorem boundaryEventResults : Obligations.BoundaryEventResults := by
  intro s
  dsimp only
  refine ⟨⟨fun idle asked => ?_, fun drain done => ?_, fun l writing written => ⟨fun group => ?_, fun alone => ?_⟩⟩, rfl,
    fun t ht full => ?_, fun c home hc hh away complete first => ⟨fun plain => ?_, fun op => ?_⟩, fun ready => ?_, fun c hc => ?_, rfl,
    fun q l active stuck => ?_⟩
  · simp only [exec_phaseBoundaryStart, execPhaseBoundaryStart, idle, List.isEmpty_eq_false_iff.2 asked, Bool.false_eq_true, if_false]
  · simp only [exec_phaseBoundaryStart, execPhaseBoundaryStart, drain, done, Bool.false_eq_true, if_false]
  · simp only [exec_phaseBoundaryComplete, execPhaseBoundaryComplete, writing, written, group, Bool.not_true, Bool.false_eq_true, if_false, if_true]
  · simp only [exec_phaseBoundaryComplete, execPhaseBoundaryComplete, writing, written, alone, Bool.not_true, Bool.false_eq_true, if_false]
  · simp only [exec_barrierRelease, execBarrierRelease, ht, full, if_true]
  · simp only [exec_pisteArrivalForward, execPisteArrivalForward, hc, hh, away, complete, first, plain, Bool.not_false, Bool.and_self, if_true]
  · simp only [exec_pisteArrivalForward, execPisteArrivalForward, hc, hh, away, complete, first, op, Bool.not_false, Bool.and_self, if_true, if_false]
  · exact congrArg Host.Outcome.next (if_pos ready)
  · simp only [exec_groupReleaseMessage, execGroupReleaseMessage, hc]
  · simp only [exec_refusionMismatch, execRefusionMismatch, active, stuck, Bool.not_true, Bool.false_eq_true, if_false]

/-- Settles O36, event by event. -/
theorem handlerAndSaveEventResults : Obligations.HandlerAndSaveEventResults := by
  intro s
  dsimp only
  refine ⟨fun t ht => ⟨fun v hv due => ?_, fun entering => ?_, fun resident => ⟨fun runs => ?_, fun blocked => ⟨fun fresh => ?_, fun v since => ?_⟩⟩,
      fun q hq saving saved retiring stopped clear => ⟨fun kill => ?_, fun keep => ⟨fun fresh => ?_, fun d hd late drained => ?_⟩⟩,
      fun l v hl out place first room hv => ⟨fun single r hr => ?_, fun twin u v' r r' hu hv' hr hr' => ?_⟩⟩,
    fun t ht due => ?_, fun l hl => ⟨fun placed => ?_, fun wants => ⟨fun fresh => ?_, fun t0 since => ?_⟩⟩⟩
  · simp only [exec_haltBroadcast, execHaltBroadcast, ht, hv, if_neg (Nat.not_lt.2 due)]
  · simp only [exec_handlerEntry, execHandlerEntry, ht, entering, if_true]
  · simp only [exec_blockedTeamEligible, execBlockedTeamEligible, ht, resident, runs, Bool.not_false, Bool.false_eq_true, if_false, if_true]
  · simp only [exec_blockedTeamEligible, execBlockedTeamEligible, ht, resident, blocked, fresh, Bool.not_true, Bool.false_eq_true, if_false]
  · simp only [exec_blockedTeamEligible, execBlockedTeamEligible, ht, resident, blocked, since, Bool.not_true, Bool.false_eq_true, if_false]
  · have open_ : (t.state == .saving || t.state == .checkpointed || t.state == .retiring || !s.teamStopped t || s.haltWaits t) = false := by
      simp [saving, saved, retiring, stopped, clear]
    simp only [exec_drainWindowEnd, execDrainWindowEnd, ht, hq, open_, kill, Bool.false_eq_true, if_false, if_true]
  · simp [execDrainWindowEnd, ht, hq, saving, saved, retiring, stopped, clear, keep, fresh]
  · simp [execDrainWindowEnd, ht, hq, saving, saved, retiring, stopped, clear, keep, hd, Nat.not_lt.2 late, drained]
  · simp [execRestore, ht, hl, out, place, first, room, hv, single, hr]
  · simp [execRestore, ht, hl, out, place, first, room, hv, twin, hu, hv', hr, hr']
  · simp only [exec_handlerWatchdogExpiry, execHandlerWatchdogExpiry, ht, due, if_true]
  · simp only [exec_preemptionDecision, execPreemptionDecision, hl, placed, Bool.not_false, if_true]
  · simp only [exec_preemptionDecision, execPreemptionDecision, hl, wants, fresh, Bool.not_true, Bool.false_eq_true, if_false]
  · simp only [exec_preemptionDecision, execPreemptionDecision, hl, wants, since, Bool.not_true, Bool.false_eq_true, if_false] <;> rfl

/-- Settles O48: a unit that reset does not list has its default value. -/
theorem resetValues : Obligations.ResetValues := by
  refine ⟨rfl, rfl, rfl, rfl, rfl, rfl, fun _ => ⟨rfl, rfl⟩, fun n => ?_, fun _ => ⟨rfl, rfl, rfl, rfl, rfl, rfl, rfl⟩, fun _ => ⟨rfl, rfl⟩,
    fun _ => ⟨rfl, rfl, rfl, rfl, rfl⟩, fun _ => ⟨rfl, rfl, rfl, rfl, rfl, rfl, rfl, rfl, rfl, rfl, rfl, rfl, rfl, rfl, rfl⟩,
    fun _ => ⟨rfl, rfl, rfl, rfl⟩, fun _ => ⟨rfl, rfl, rfl, rfl, rfl, rfl⟩, fun u => ⟨rfl, ?_⟩⟩
  · rcases n with _ | n <;> rfl
  · by_cases vf : 16 ≤ u % 2048
    · exact if_pos vf
    · exact if_neg vf

end Sys2Proof.Proofs
end

section
/-!
PROOFS. Counting (R107, R121): what the scans of the model give, in terms of the bits they scan.
-/

namespace Sys2Proof.Proofs

open Sys2Proof Sys2Proof.Machine

/-- The first index below 64 at which `f` holds is 64 or such an index, and `f` fails below it. -/
theorem idxs_headD_spec (f : Nat → Bool) :
    (idxs 64 f).headD 64 ≤ 64 ∧ (∀ k < (idxs 64 f).headD 64, f k = false) ∧
      ((idxs 64 f).headD 64 < 64 → f ((idxs 64 f).headD 64) = true) := by
  rw [idxs, List.headD_eq_head?_getD, List.head?_filter]
  cases hf : (List.range 64).find? f with
  | none =>
    have fails : ∀ k < 64, f k = false := fun k hk => by simpa using List.find?_eq_none.1 hf k (List.mem_range.2 hk)
    exact ⟨Nat.le_refl 64, fails, fun h => absurd h (Nat.lt_irrefl 64)⟩
  | some k =>
    obtain ⟨holds, inside, below⟩ := List.find?_range_eq_some.1 hf
    exact ⟨Nat.le_of_lt (List.mem_range.1 inside), fun j hj => by simpa using below j hj, fun _ => holds⟩

/-- The lowest lane of a mask, 64 for the empty mask: no lower lane is in it (R121). -/
theorem lowestLane_first (m : Mask) :
    lowestLane m ≤ 64 ∧ (∀ l < lowestLane m, m.getLsbD l = false) ∧ (lowestLane m < 64 → m.getLsbD (lowestLane m) = true) :=
  idxs_headD_spec (fun l => m.getLsbD l)

/-- Trailing zeros. -/
theorem bitCount_trailing (a : Word) :
    bitCount 1 a ≤ 64 ∧ (∀ k < bitCount 1 a, a.getLsbD k = false) ∧ (bitCount 1 a < 64 → a.getLsbD (bitCount 1 a) = true) :=
  idxs_headD_spec (fun k => a.getLsbD k)

/-- Leading zeros. -/
theorem bitCount_leading (a : Word) :
    bitCount 0 a ≤ 64 ∧ (∀ k, 64 - bitCount 0 a ≤ k → a.getLsbD k = false) ∧
      (bitCount 0 a < 64 → a.getLsbD (63 - bitCount 0 a) = true) := by
  have mem_iff : ∀ k, k ∈ idxs 64 (fun k => a.getLsbD k) ↔ a.getLsbD k = true := fun k => by
    simpa [idxs] using BitVec.lt_of_getLsbD
  have rising : (idxs 64 (fun k => a.getLsbD k)).Pairwise (· < ·) := List.pairwise_lt_range.filter _
  cases hl : (idxs 64 (fun k => a.getLsbD k)).getLast? with
  | none =>
    have count : bitCount 0 a = 64 := by simp [bitCount, hl]
    have clear : ∀ k, a.getLsbD k = false := fun k => by
      rw [← Bool.not_eq_true, ← mem_iff, List.getLast?_eq_none_iff.1 hl]
      exact List.not_mem_nil
    exact ⟨Nat.le_of_eq count, fun k _ => clear k, fun h => absurd h (by omega)⟩
  | some t =>
    have count : bitCount 0 a = 64 - (t + 1) := by simp [bitCount, hl]
    obtain ⟨l, split⟩ := List.getLast?_eq_some_iff.1 hl
    have top : a.getLsbD t = true := (mem_iff t).1 (by simp [split])
    have inside : t < 64 := BitVec.lt_of_getLsbD top
    have highest : ∀ k, a.getLsbD k = true → k ≤ t := fun k hk => by
      have mem := (mem_iff k).2 hk
      rw [split] at mem rising
      rcases List.mem_append.1 mem with early | last
      · exact Nat.le_of_lt ((List.pairwise_append.1 rising).2.2 k early t (List.mem_singleton_self t))
      · exact Nat.le_of_eq (List.mem_singleton.1 last)
    refine ⟨by omega, fun k hk => ?_, fun _ => ?_⟩
    · rw [← Bool.not_eq_true]
      exact fun hit => absurd (highest k hit) (by omega)
    · rwa [count, show 63 - (64 - (t + 1)) = t by omega]

/-- The bits that `popc` counts. -/
theorem popc_eq_countP (x n : Nat) : popc x n = (List.range n).countP (fun k => x.testBit k) := by
  induction n generalizing x with
  | zero => rfl
  | succ n ih =>
    have above : (List.range n).countP ((fun k => x.testBit k) ∘ Nat.succ) = popc (x / 2) n := by
      rw [ih]
      exact List.countP_congr fun k _ => by simp [Nat.testBit_succ]
    rw [popc, List.range_succ_eq_map, List.countP_cons, List.countP_map, above, Nat.testBit_zero, Nat.add_comm]
    rcases Nat.mod_two_eq_zero_or_one x with even | odd
    · simp [even]
    · simp [odd]

theorem popc_toNat (a : Word) : popc a.toNat 64 = (List.range 64).countP (fun k => a.getLsbD k) := by
  rw [popc_eq_countP]
  rfl

/-- Settles O3: the counts by their scans, the results by the shared shape of the scalar instructions. -/
theorem bitCountResults : Obligations.BitCountResults := by
  intro s u c f
  refine ⟨fun h => ?_, fun h => ?_⟩
  · have result : exec (.bitc f) s = c.done (c.scalar u f.g 2 f.d (BitVec.ofNat 64 (bitCount f.md.toNat (c.xv f.s1)))) :=
      scalarOp_ready h _ _
    refine ⟨fun leading => ?_, fun trailing => ?_, fun ones => ?_⟩
    · obtain ⟨le, clear, hit⟩ := bitCount_leading (c.xv f.s1)
      exact ⟨bitCount 0 (c.xv f.s1), le, clear, hit, by rw [result, leading]; rfl⟩
    · obtain ⟨le, clear, hit⟩ := bitCount_trailing (c.xv f.s1)
      exact ⟨bitCount 1 (c.xv f.s1), le, clear, hit, by rw [result, trailing]; rfl⟩
    · rw [result, ones, ← popc_toNat]
      rfl
  · have lanes : ∀ l, (c.pv f.s1 &&& c.p.mask).getLsbD l = ((c.pv f.s1).getLsbD l && c.p.mask.getLsbD l) := fun l => BitVec.getLsbD_and
    refine ⟨?_, lowestLane (c.pv f.s1 &&& c.p.mask), ?_⟩
    · simp only [← lanes, ← popc_toNat]
      exact scalarOp_ready (ops := []) h _ _
    · obtain ⟨le, clear, hit⟩ := lowestLane_first (c.pv f.s1 &&& c.p.mask)
      simp only [← lanes]
      exact ⟨le, clear, hit, scalarOp_ready (ops := []) h _ _⟩

end Sys2Proof.Proofs
end

section
/-!
PROOFS. Full/empty bits at issue (R89 to R93).
-/

namespace Sys2Proof.Proofs

open Sys2Proof Sys2Proof.Machine

/-- A producer of this vc emptied scalar register `n` (R72). -/
def emptiedNow (c : Ctx) (n : Nat) : Bool := c.justEmptied (fun d => match d with | .x m => m == n | _ => false)

/-- Scalar register `n` is empty; x0 never is (R89). -/
def emptyX (c : Ctx) (n : Nat) : Prop := n ≠ 0 ∧ c.w.xe.getLsbD n = true

/-- A scalar source is empty where its register is, and was before this vc. -/
theorem isEmpty_xs (c : Ctx) (b : BitVec 8) (pos : Nat) :
    c.isEmpty (.xs b pos 1) = true ↔ emptyX c (opIdx b) ∧ emptiedNow c (opIdx b) = false := by
  simp only [Ctx.isEmpty, List.range_one, List.any_cons, List.any_nil, Nat.add_zero, Bool.or_false, Bool.and_eq_true, decide_eq_true_eq,
    Bool.not_eq_true']
  exact Iff.rfl

theorem isEmpty_xd (c : Ctx) (b : BitVec 8) : c.isEmpty (.xd b) = true ↔ emptyX c (opIdx b) := by
  simp only [Ctx.isEmpty, Bool.and_eq_true, decide_eq_true_eq]
  exact Iff.rfl

/-- The empty sources that ask for the register-empty trap. -/
def askers (c : Ctx) (ops : List Opnd) : List (BitVec 8 × Nat) := (ops.filter c.isEmpty).filterMap Opnd.trapping

section
variable {c : Ctx} {s : State} {m : Option Mask} {ops : List Opnd}

/-- With every operand full there is nothing to wait for. -/
theorem feCheck_full (full : ∀ o ∈ ops, ¬ c.isEmpty o = true) : c.feCheck s m ops = .ok () := by
  have none_ : ops.filter c.isEmpty = [] := List.filter_eq_nil_iff.2 full
  simp only [Ctx.feCheck, none_, List.filterMap_nil, List.isEmpty_nil, if_true]

/-- An operand is empty, and no empty source asks for the trap: a stall (R92, R93). -/
theorem feCheck_stalls {o : Opnd} (ho : o ∈ ops) (empty : c.isEmpty o = true) (quiet : askers c ops = []) :
    c.feCheck s m ops = stall .fe s := by
  have some_ : (ops.filter c.isEmpty).isEmpty = false :=
    List.isEmpty_eq_false_iff.2 (List.ne_nil_of_mem (List.mem_filter.2 ⟨ho, empty⟩))
  rw [askers] at quiet
  simp only [Ctx.feCheck, quiet, some_, Bool.false_eq_true, if_false]

/-- The asking source whose field lies lowest is named by the trap (R92). -/
theorem feCheck_traps {q : BitVec 8 × Nat} {r : List (BitVec 8 × Nat)} (asks : askers c ops = q :: r) {b : BitVec 8} {pos : Nat}
    (lowest : r.foldl lowerSrc q = (b, pos)) :
    c.feCheck s m ops = .error (.trap 0x08 (BitVec.ofNat 64 (b.toNat + 256 * pos)) m []) := by
  rw [askers] at asks
  simp only [Ctx.feCheck, asks, lowest]

end

/-- Of two scalar sources and a destination, the sources ask that are empty with FE set. -/
theorem askers_src2 (c : Ctx) (f : FmtA) : askers c (src2 f ++ [.xd f.d]) =
    (if c.isEmpty (.xs f.s1 24 1) = true ∧ opFe f.s1 = true then [(f.s1, 24)] else []) ++
      (if c.isEmpty (.xs f.s2 16 1) = true ∧ opFe f.s2 = true then [(f.s2, 16)] else []) := by
  have source : ∀ b pos, askers c [.xs b pos 1] = if c.isEmpty (.xs b pos 1) = true ∧ opFe b = true then [(b, pos)] else [] := fun b pos => by
    by_cases he : c.isEmpty (.xs b pos 1) = true <;> by_cases hf : opFe b = true <;> simp [askers, Opnd.trapping, he, hf]
  have none_ : askers c [.xd f.d] = [] := by cases he : c.isEmpty (.xd f.d) <;> simp [askers, Opnd.trapping, he]
  have parts : askers c (src2 f ++ [.xd f.d]) = askers c [.xs f.s1 24 1] ++ askers c [.xs f.s2 16 1] ++ askers c [.xd f.d] := by
    simp only [askers, ← List.filterMap_append, ← List.filter_append]
    rfl
  rw [parts, source, source, none_, List.append_nil]

/-- The instructions of two scalar sources have one shape. -/
theorem twoSource_shape : ∀ mk ∈ [Instr.add, .sub, .mul, .mulh, .and, .or, .xor, .shl, .shr, .sar, .min, .max],
    ∃ (lat : Nat) (v : FmtA → Ctx → Word), ∀ f s, exec (mk f) s = scalarOp s f.g (src2 f) lat f.d (v f) := by
  simp only [List.forall_mem_cons, List.not_mem_nil, false_implies, implies_true, and_true]
  exact ⟨⟨_, _, fun _ _ => rfl⟩, ⟨_, _, fun _ _ => rfl⟩, ⟨_, _, fun _ _ => rfl⟩, ⟨_, _, fun _ _ => rfl⟩, ⟨_, _, fun _ _ => rfl⟩,
    ⟨_, _, fun _ _ => rfl⟩, ⟨_, _, fun _ _ => rfl⟩, ⟨_, _, fun _ _ => rfl⟩, ⟨_, _, fun _ _ => rfl⟩, ⟨_, _, fun _ _ => rfl⟩,
    ⟨_, _, fun _ _ => rfl⟩, ⟨_, _, fun _ _ => rfl⟩⟩

/-- Operands that raise a trap raise it whatever the scalar instruction computes. -/
theorem scalarOp_trap {s : State} {c : Ctx} (hc : s.ctx = some c) (hb : c.blocked = false) {g : BitVec 5} {ops : List Opnd} {d : BitVec 8}
    {lat : Nat} {v : Ctx → Word} {cause : Nat} {info : Word} {m : Option Mask} {fl : List (Nat × Word × Word)}
    (h : c.feCheck s none (ops ++ [.xd d]) = .error (.trap cause info m fl)) :
    scalarOp s g ops lat d v = .next (s.takeTrap c cause info m fl) :=
  run_trap hc hb (by simp only [Ctx.begin, h, bind, Except.bind])

/-- Operands that stall do so whatever the scalar instruction computes. -/
theorem scalarOp_stall {s : State} {c : Ctx} (hc : s.ctx = some c) (hb : c.blocked = false) {g : BitVec 5} {ops : List Opnd} {d : BitVec 8}
    {lat : Nat} {v : Ctx → Word} {k : Cause} (h : c.feCheck s none (ops ++ [.xd d]) = stall k s) :
    scalarOp s g ops lat d v = .next (s.stalled c k) :=
  run_stall hc hb (by simp only [Ctx.begin, h, stall, bind, Except.bind])

/-- Settles O59: the operands decide, through what `feCheck` answers, whatever the instruction computes. -/
theorem operandReadiness : Obligations.OperandReadiness := by
  refine ⟨?_, fun c u g lat d v zero => ⟨if_pos zero, by simp [Ctx.scalar, State.landX, zero]⟩⟩
  intro s c f hc hb empty hold mk hmk
  obtain ⟨lat, v, shape⟩ := twoSource_shape mk hmk
  have source : ∀ b pos, c.isEmpty (.xs b pos 1) = true ↔ hold b := fun b pos => isEmpty_xs c b pos
  have dest : c.isEmpty (.xd f.d) = true ↔ empty f.d := isEmpty_xd c f.d
  have asks := askers_src2 c f
  simp only [source] at asks
  rw [shape]
  refine ⟨fun some_ q1 q2 => scalarOp_stall hc hb ?_, fun h2 fe => scalarOp_trap hc hb ?_, fun h1 fe q2 => scalarOp_trap hc hb ?_,
    fun h1 h2 hd sound power => ⟨lat, v f c, scalarOp_ready ⟨⟨hc, hb, power⟩, ?_⟩ lat (v f)⟩⟩
  · rw [if_neg q1, if_neg q2] at asks
    rcases some_ with h1 | h2 | hd
    · exact feCheck_stalls (List.mem_append_left _ (List.mem_cons_self ..)) ((source f.s1 24).2 h1) asks
    · exact feCheck_stalls (List.mem_append_left _ (List.mem_cons_of_mem _ (List.mem_cons_self ..))) ((source f.s2 16).2 h2) asks
    · exact feCheck_stalls (List.mem_append_right _ (List.mem_cons_self ..)) (dest.2 hd) asks
  · rw [if_pos (show hold f.s2 ∧ opFe f.s2 = true from ⟨h2, fe⟩)] at asks
    by_cases q1 : hold f.s1 ∧ opFe f.s1 = true
    · rw [if_pos q1] at asks
      exact feCheck_traps asks rfl
    · rw [if_neg q1] at asks
      exact feCheck_traps asks rfl
  · rw [if_pos (show hold f.s1 ∧ opFe f.s1 = true from ⟨h1, fe⟩), if_neg q2] at asks
    exact feCheck_traps asks rfl
  · have full : c.feCheck s none (src2 f ++ [.xd f.d]) = .ok () := feCheck_full (by
      simp only [src2, List.cons_append, List.nil_append, List.forall_mem_cons, source, dest]
      exact ⟨h1, h2, hd, nofun⟩)
    simp only [Ctx.begin, full, sound, if_true]

end Sys2Proof.Proofs
end

section
/-!
PROOFS. Scalar arithmetic, immediates, moves, division and predicates (R107 to R115, R119 to R124).
-/

namespace Sys2Proof.Proofs

open Sys2Proof Sys2Proof.Machine

/-! ### Scalar arithmetic, immediates and moves (R107 to R114, R119, R124) -/

theorem minValue_signed {n : Nat} (a b : BitVec n) : minValue 0 a b = if a.toInt ≤ b.toInt then a else b := by simp [minValue]

theorem maxValue_signed {n : Nat} (a b : BitVec n) : maxValue 0 a b = if a.toInt ≤ b.toInt then b else a := by simp [maxValue]

theorem minValue_unsigned {n : Nat} (a b : BitVec n) : minValue 1 a b = if a.toNat ≤ b.toNat then a else b := by simp [minValue]

theorem maxValue_unsigned {n : Nat} (a b : BitVec n) : maxValue 1 a b = if a.toNat ≤ b.toNat then b else a := by simp [maxValue]

/-- Settles O1: one shape for all, and each result under its MOD. -/
theorem scalarArithmeticResults : Obligations.ScalarArithmeticResults := by
  intro s u c f h
  have result : ∀ lat v, scalarOp s f.g (src2 f) lat f.d v = c.done (c.scalar u f.g lat f.d (v c)) := scalarOp_ready h
  have high : exec (.mulh f) s = c.done (c.scalar u f.g 4 f.d (mulHigh f.md.toNat (c.xv f.s1) (c.xv f.s2))) := result _ _
  have least : exec (.min f) s = c.done (c.scalar u f.g 2 f.d (minValue f.md.toNat (c.xv f.s1) (c.xv f.s2))) := result _ _
  have greatest : exec (.max f) s = c.done (c.scalar u f.g 2 f.d (maxValue f.md.toNat (c.xv f.s1) (c.xv f.s2))) := result _ _
  refine ⟨result _ _, result _ _, result _ _, fun md => ?_, fun md => ?_, fun md => ?_, result _ _, result _ _, result _ _, result _ _,
    result _ _, result _ _, fun md => ?_, fun md => ?_, result _ _⟩
  · rw [high, md]
    rfl
  · rw [high, md]
    rfl
  · rw [high, md]
    rfl
  · rw [least, greatest, md, ← minValue_signed, ← maxValue_signed]
    exact ⟨rfl, rfl⟩
  · rw [least, greatest, md, ← minValue_unsigned, ← maxValue_unsigned]
    exact ⟨rfl, rfl⟩

/-- Settles O2: each result is that of the shared shape; the kind of `shi` is in its immediate. -/
theorem scalarImmediateAndMoveResults : Obligations.ScalarImmediateAndMoveResults := by
  intro s u c
  refine ⟨fun f h => ?_, fun f lit h => scalarOp_ready (ops := []) h _ _, fun f h => scalarOp_ready h _ _,
    fun f h => scalarOp_ready (ops := src2 f) h _ _,
    fun f h => ⟨scalarOp_ready (ops := []) h _ _, scalarOp_ready (ops := []) h _ _, scalarOp_ready (ops := []) h _ _⟩⟩
  have result : ∀ lat v, scalarOp s f.g [.xs f.s1 24 1] lat f.d v = c.done (c.scalar u f.g lat f.d (v c)) := scalarOp_ready h
  have amount : bits f.imm 5 0 = f.imm.toNat % 64 := by simp [bits]
  refine ⟨result _ _, result _ _, result _ _, result _ _, fun kind => ?_, fun kind => ?_, fun kind => ?_⟩
  all_goals
    have kind : f.imm.toNat / 64 % 4 = _ := kind
    rw [exec_shi, execShi, result, amount]
    simp only [kind]

/-! ### Division (R108) -/

theorem divValue_zero (md : Nat) (a : Word) : divValue md a 0 = BitVec.allOnes 64 := if_pos rfl

theorem remValue_zero (md : Nat) (a : Word) : remValue md a 0 = a := if_pos rfl

theorem divValue_signed {a b : Word} (hb : b ≠ 0) : divValue 0 a b = BitVec.ofInt 64 (a.toInt.tdiv b.toInt) := if_neg hb

theorem remValue_signed {a b : Word} (hb : b ≠ 0) : remValue 0 a b = BitVec.ofInt 64 (a.toInt.tmod b.toInt) := if_neg hb

theorem divValue_unsigned {a b : Word} (hb : b ≠ 0) : divValue 1 a b = BitVec.ofNat 64 (a.toNat / b.toNat) := by
  rw [divValue, if_neg hb, if_neg Nat.one_ne_zero]
  exact (BitVec.ofNat_toNat 64 (a / b)).symm

theorem remValue_unsigned {a b : Word} (hb : b ≠ 0) : remValue 1 a b = BitVec.ofNat 64 (a.toNat % b.toNat) := by
  rw [remValue, if_neg hb, if_neg Nat.one_ne_zero]
  exact (BitVec.ofNat_toNat 64 (a % b)).symm

/-- A division whose guard holds nowhere leaves the divider alone; another takes it where it is free (R96). -/
theorem divOp_ready {s u : State} {c : Ctx} {f : FmtA} (h : Ready s c none [.xs f.s1 24 1, .xs f.s2 16 1, .xd f.d] u)
    (v : Word → Word → Word) :
    (c.on f.g = false → divOp s f v = c.done (u.advance c)) ∧
    (c.on f.g = true → sget 0 (u.core c.core).busy 0 ≤ c.vc → divOp s f v =
      c.done (((u.modCore c.core (fun k => { k with busy := sput 0 k.busy 0 (c.vc + 16) })).landX c 20 (opIdx f.d)
        (v (c.xv f.s1) (c.xv f.s2))).advance c)) := by
  have taken : c.begin s none (src2 f ++ [.xd f.d]) = .ok u := h.operands
  refine ⟨fun off => run_ok h.toIssuing ?_, fun on free => run_ok h.toIssuing ?_⟩
  · simp only [taken, bind, Except.bind, off, Bool.false_eq_true, if_false]
  · simp only [taken, bind, Except.bind, on, if_true, State.takeUnit, if_neg (Nat.not_lt.2 free)]

/-- Settles O4: the divider by `divOp_ready`, the results case by case of R108. -/
theorem divisionResults : Obligations.DivisionResults := by
  intro s u c f h a b t
  refine ⟨fun off => ⟨(divOp_ready h _).1 off, (divOp_ready h _).1 off⟩, fun on free => ?_⟩
  have result : ∀ v, divOp s f v = c.done ((t.landX c 20 (opIdx f.d) (v a b)).advance c) := fun v => (divOp_ready h v).2 on free
  rw [exec_div, execDiv, exec_rem, execRem, result, result]
  refine ⟨fun zero => ?_, fun nonzero md => ?_, fun nonzero md => ?_⟩
  · rw [zero, divValue_zero, remValue_zero]
    exact ⟨rfl, rfl⟩
  · rw [md, ← divValue_signed nonzero, ← remValue_signed nonzero]
    exact ⟨rfl, rfl⟩
  · rw [md, ← divValue_unsigned nonzero, ← remValue_unsigned nonzero]
    exact ⟨rfl, rfl⟩

/-! ### Predicates (R115, R120, R122, R124) -/

/-- Settles O5: one shape for all; a MOD of the predicate logic decides what is negated. -/
theorem predicateResults : Obligations.PredicateResults := by
  intro s u c
  refine ⟨fun f h => predOp_ready (vec := false) h _ _ _, fun f h => ?_, fun f h => predOp_ready (vec := false) h _ _ _, fun f h => ?_,
    fun f h => predOp_ready (vec := true) h _ _ _, fun f h => run_ok h rfl⟩
  · have cond : bits f.imm 18 16 = f.imm.toNat / 65536 := by
      have := f.imm.isLt
      rw [bits]
      omega
    rw [cond]
    exact predOp_ready (vec := false) h _ _ _
  · have result : ∀ v, predOp s f.g [] true 1 f.d v = c.done (c.pred u (c.guard f.g) 1 f.d (v c)) :=
      fun v => predOp_ready (vec := true) h _ _ v
    refine ⟨fun md => ?_, fun md => ?_, result _, result _⟩
    · have plain : ¬ f.md = 1 := by rw [md]; decide
      simp only [exec_pand, execPand, exec_por, execPor, exec_pxor, execPxor, result, if_neg plain, and_self]
    · simp only [exec_pand, execPand, exec_por, execPor, exec_pxor, execPxor, result, if_pos md, and_self]

end Sys2Proof.Proofs
end

section
/-!
PROOFS. CSR access, the path's own registers, and the events of register writes (R103, R116 to R118, R125).
-/

namespace Sys2Proof.Proofs

open Sys2Proof Sys2Proof.Machine

/-! ### CSR access and the path's own registers (R103, R116 to R118, R125) -/

section
variable {s u t : State} {c : Ctx} {g : BitVec 5} {ops : List Opnd} {f : Ctx → State → Try State}

/-- Where its guard holds an instruction of a scalar effect has it. -/
theorem scalarDo_on (h : Ready s c none ops u) (on : c.on g = true) (effect : f c u = .ok t) :
    scalarDo s g ops f = c.done (t.advance c) := by
  rw [scalarDo_ready h (fun _ => effect), if_pos on]

/-- Where its guard holds nowhere it only moves its path on. -/
theorem scalarDo_off (h : Ready s c none ops u) (off : c.on g = false) : scalarDo s g ops f = c.done (u.advance c) := by
  rw [scalarDo_ready h (t := u) (fun on => absurd (off.symm.trans on) Bool.false_ne_true), off]
  rfl

end

/-- An access at a sufficient level reaches its unit (R103). -/
theorem csrAccess_ok {c : Ctx} {s : State} {n unit : Nat} {rd wr : Bool} (reach : c.csrUnit s n = some unit)
    (read : rd = true → (csrReadLevel n).rank ≤ c.p.level.rank) (write : wr = true → (csrWriteLevel n).rank ≤ c.p.level.rank) :
    c.csrAccess s n rd wr = .ok unit := by
  have allowed : (rd && decide (c.p.level.rank < (csrReadLevel n).rank) || wr && decide (c.p.level.rank < (csrWriteLevel n).rank)) = false := by
    simp only [Bool.or_eq_false_iff, Bool.and_eq_false_imp, decide_eq_false_iff_not, Nat.not_lt]
    exact ⟨read, write⟩
  simp only [Ctx.csrAccess, allowed, reach, Bool.false_eq_true, if_false]

/-- A legal format is sent (R117). -/
theorem setFmt_ok {c : Ctx} {s : State} {v : Lane} (legal : fmtBad v = false) : setFmt c s v = .ok (s.land c 2 (.fmt c.p.id v)) := by
  simp only [setFmt, legal, Bool.false_eq_true, if_false]

/-- CSR 0x000 is the path's `fmt`. -/
theorem csrSend_fmt {c : Ctx} {s : State} {n unit : Nat} {v : Word} (zero : n = 0) (legal : fmtBad (v.setWidth 32) = false) :
    csrSend c s n unit v = .ok (s.land c 2 (.fmt c.p.id (v.setWidth 32))) := by
  rw [csrSend, if_pos zero, setFmt_ok legal]

/-- Another CSR is sent as it is, but for a CLR of a head that is not the partition's (R376). -/
theorem csrSend_free {c : Ctx} {s : State} {n unit : Nat} {v : Word}
    (free : n ≠ 0 ∧ ¬ (n = 0x450 ∧ v.getLsbD 8 = true ∧ Nat.testBit (s.part unit).headMask (bits v 1 0) = false)) :
    csrSend c s n unit v = .ok (s.land c 2 (.csr n unit v)) := by
  rw [csrSend, if_neg free.1]
  exact if_neg free.2

section
variable {s u t : State} {c : Ctx} {f : FmtI}

/-- A CSR instruction whose guard holds nowhere only moves its path on. -/
theorem csrOp_off {ops : List Opnd} {rd wr : Bool} {new : Word → Word → Word} (h : Ready s c none ops u) (off : c.on f.g = false) :
    csrOp s f ops rd wr new = c.done (u.advance c) :=
  run_ok h.toIssuing (by simp only [h.operands, bind, Except.bind, off, Bool.false_eq_true, if_false])

variable {n unit : Nat} (num : f.imm.toNat % 4096 = n) (on : c.on f.g = true)
include num on

theorem csrr_reads (h : Ready s c none [.xd f.d] u) (access : c.csrAccess u n true false = .ok unit) :
    exec (.csrr f) s = c.done ((u.landX c 4 (opIdx f.d) (c.csrValue u n unit)).advance c) := by
  rw [exec_csrr, execCsrr]
  exact run_ok h.toIssuing (by
    simp only [h.operands, bind, Except.bind, num, on, access, if_true, Bool.false_eq_true, if_false])

/-- `csrw` sends its source: `t` has it on its way. -/
theorem csrw_sends (h : Ready s c none [.xs f.s1 24 1] u) (access : c.csrAccess u n false true = .ok unit)
    (sent : csrSend c u n unit (c.xv f.s1) = .ok t) : exec (.csrw f) s = c.done (t.advance c) := by
  rw [exec_csrw, execCsrw]
  exact run_ok h.toIssuing (by
    simp only [h.operands, bind, Except.bind, num, on, access, sent, if_true, Bool.false_eq_true, if_false])

/-- `csrs` sends the old value with its source's bits set, and reads the old value. -/
theorem csrs_sends (h : Ready s c none [.xs f.s1 24 1, .xd f.d] u) (access : c.csrAccess u n true true = .ok unit)
    (sent : csrSend c u n unit (c.csrValue u n unit ||| c.xv f.s1) = .ok t) :
    exec (.csrs f) s = c.done ((t.landX c 4 (opIdx f.d) (c.csrValue u n unit)).advance c) := by
  rw [exec_csrs, execCsrs]
  exact run_ok h.toIssuing (by simp only [h.operands, bind, Except.bind, num, on, access, sent, if_true])

end

/-- Settles O13: what a CSR write sends is found first; the other instructions are their effect under the scalar guard rule. -/
theorem specialRegisterResults : Obligations.SpecialRegisterResults := by
  intro s u c
  refine ⟨fun f n unit num reach on => ⟨fun h rdl => ?_, fun h wrl => ?_, fun h rdl wrl => ?_⟩,
    fun f off => ⟨fun h => ?_, fun h => ?_, fun h => ?_, fun h => ?_⟩, fun f h on => ?_,
    fun f on => ⟨fun h => ⟨?_, fun legal => ?_⟩, fun h => ⟨fun legal => ?_, run_ok h.toIssuing ?_⟩, fun h => run_ok h ?_⟩,
    fun f off => ⟨fun h => ⟨?_, ?_⟩, fun h => ⟨?_, run_ok h.toIssuing ?_⟩, fun h => run_ok h ?_⟩,
    fun f h => run_ok h rfl⟩
  -- CSR access
  · exact csrr_reads num.symm on h (csrAccess_ok reach (fun _ => rdl) nofun)
  · have access : c.csrAccess u n false true = .ok unit := csrAccess_ok reach nofun (fun _ => wrl)
    exact ⟨fun free => csrw_sends num.symm on h access (csrSend_free free),
      fun zero legal => csrw_sends num.symm on h access (csrSend_fmt zero legal)⟩
  · have access : c.csrAccess u n true true = .ok unit := csrAccess_ok reach (fun _ => rdl) (fun _ => wrl)
    exact ⟨fun free => csrs_sends num.symm on h access (csrSend_free free),
      fun zero legal => csrs_sends num.symm on h access (csrSend_fmt zero legal)⟩
  · rw [exec_csrr, execCsrr, csrOp_off h off]
  · rw [exec_csrw, execCsrw, csrOp_off h off]
  · rw [exec_csrs, execCsrs, csrOp_off h off]
  -- the path's own registers
  · exact scalarDo_off h off
  · exact scalarDo_on h on rfl
  · exact scalarDo_on h on rfl
  · exact scalarDo_on h on (setFmt_ok legal)
  · exact scalarDo_on (ops := src2 f) h on (setFmt_ok legal)
  · simp only [h.operands, bind, Except.bind, on, if_true]
  · simp only [on, if_true]
  · exact scalarDo_off h off
  · exact scalarDo_off h off
  · exact scalarDo_off (ops := src2 f) h off
  · simp only [h.operands, bind, Except.bind, off, Bool.false_eq_true, if_false]
  · simp only [off, Bool.false_eq_true, if_false]

/-! ### The events of register writes (R103, R140, R175, R182, R231, R243, R334, R376, R381, R384, R385, R408) -/

/-- A write of `hmod` is bad exactly where it is not good: no reserved bit set, and a live module where it is valid (R334). -/
theorem hmod_bad_eq (v : Word) (e : ModEntry) :
    (decide (bits v 63 14 ≠ 0) || bit v 12 && decide (e.state ≠ 2)) =
      !decide (bits v 63 14 = 0 ∧ (bit v 12 = true → e.state = 2)) := by
  by_cases reserved : bits v 63 14 = 0 <;> cases valid : bit v 12 <;> simp [reserved]

/-- Settles O40, event by event. -/
theorem registerEventResults : Obligations.RegisterEventResults := by
  intro s e
  refine ⟨rfl, rfl, rfl, rfl, rfl, rfl, rfl, rfl, ?_, ?_, fun p hp => ?_, fun pending => ?_, rfl, rfl⟩
  · simp only [exec_hmodWrite, execHmodWrite, hmod_bad_eq, Bool.not_eq_true', decide_eq_false_iff_not, ite_not]
    rfl
  · intro g
    by_cases free : g < 720 ∧ s.granuleFree g = true
    · simp only [exec_gkindWrite, execGkindWrite, if_pos free]
      exact if_pos (by simpa using free)
    · simp only [exec_gkindWrite, execGkindWrite, if_neg free]
      exact if_neg (by simpa using free)
  · simp only [exec_vfqEnable, execVfqEnable, show s.partOfVf s.ev.a = some p from hp]
    rfl
  · rw [exec_vfqRunSet, execVfqRunSet, if_neg (Bool.eq_false_iff.1 pending)]

end Sys2Proof.Proofs
end

section
/-!
PROOFS. Integer lane instructions (R153, R154).
-/

namespace Sys2Proof.Proofs

open Sys2Proof Sys2Proof.Machine

/-- A lane instruction of one result register gives the results `r` where its value in each lane is that of `r`. -/
theorem laneOp_gives {s u : State} {c : Ctx} {g : BitVec 5} {ops : List Opnd} {d : BitVec 8}
    (h : Ready s c (some (c.guard g)) (ops ++ [.vd d 1]) u) {lat : Nat} {v : Ctx → Nat → Lane} {r : Nat → Lane}
    (values : ∀ l, v c l = r l) : laneOp s g ops lat d v = c.done (c.lanes u (c.guard g) lat d r) := by
  rw [laneOp_ready h, funext values]

/-! ### Exact results in a lane (R153, R154) -/

theorem wrap32_add (a b : Lane) : wrap32 (a.toInt + b.toInt) = a + b := by
  rw [wrap32, BitVec.ofInt_add, BitVec.ofInt_toInt, BitVec.ofInt_toInt]

theorem wrap32_neg (a : Lane) : wrap32 (-a.toInt) = -a := by
  rw [wrap32, BitVec.ofInt_neg, BitVec.ofInt_toInt]

theorem wrap32_sub (a b : Lane) : wrap32 (a.toInt - b.toInt) = a - b := by
  rw [Int.sub_eq_add_neg, wrap32, BitVec.ofInt_add, BitVec.ofInt_neg, BitVec.ofInt_toInt, BitVec.ofInt_toInt, BitVec.sub_eq_add_neg]

theorem wrap32_mul (a b : Lane) : wrap32 (a.toInt * b.toInt) = a * b := by
  rw [wrap32, BitVec.ofInt_mul, BitVec.ofInt_toInt, BitVec.ofInt_toInt]

theorem wrap32_mul_add (a b c : Lane) : wrap32 (a.toInt * b.toInt + c.toInt) = a * b + c := by
  rw [wrap32, BitVec.ofInt_add, BitVec.ofInt_mul, BitVec.ofInt_toInt, BitVec.ofInt_toInt, BitVec.ofInt_toInt]

/-! ### `vaddi` and `vsel` (R153, R154, R173) -/

/-- The immediate of `vaddi` is extended from 19 bits to the lane (R154). -/
theorem imm19_lane (f : FmtI) : (imm19 f).setWidth 32 = f.imm.signExtend 32 := by
  ext k hk
  simp [imm19, BitVec.getElem_signExtend, Nat.lt_trans hk (show 32 < 64 by decide)]

/-- A lane plus a sign-extended immediate, as the exact sum modulo 2^32 (R154). -/
theorem toNat_add_signExtend (a : Lane) (i : BitVec 19) :
    ((a + i.signExtend 32).toNat : Int) = ((a.toNat : Int) + i.toInt) % 2 ^ 32 := by
  rw [BitVec.toNat_add, BitVec.signExtend, BitVec.toNat_ofInt]
  omega

/-- `vaddi` gives the sum modulo 2^32 in each lane (R154). -/
theorem vaddi_ready {s u : State} {c : Ctx} {f : FmtI} (h : Ready s c (some (c.guard f.g)) [.vs f.s1 24 1 3, .vd f.d 1] u) :
    exec (.vaddi f) s = c.done (c.lanes u (c.guard f.g) 3 f.d (fun l => c.vv f.s1 l + f.imm.signExtend 32)) := by
  rw [exec_vaddi, execVaddi, imm19_lane]
  exact laneOp_ready (ops := [.vs f.s1 24 1 3]) h _ _

/-- Sources checked one after the other pass where no register of the warp is poisoned, or where both checks pass (R173). -/
theorem poison_checks_ok {c : Ctx} {s u : State} {a : Try State} {b : State → Try State}
    (h : (if c.w.sound then .ok s else a >>= b) = .ok u) :
    c.w.sound = true ∧ s = u ∨ c.w.sound = false ∧ ∃ t, a = .ok t ∧ b t = .ok u := by
  cases sound : c.w.sound with
  | true =>
    rw [if_pos sound] at h
    exact .inl ⟨rfl, Except.ok.inj h⟩
  | false =>
    rw [if_neg (Bool.eq_false_iff.1 sound)] at h
    cases first : a with
    | error e => rw [first] at h; cases h
    | ok t => rw [first] at h; exact .inr ⟨rfl, t, rfl, h⟩

/-- `vsel` consumes of each source the lanes that it takes from it. -/
theorem vsel_ready {s u : State} {c : Ctx} {f : FmtA} (h : Issuing s c)
    (full : c.feCheck s (some (c.guard f.g)) [.vs f.s1 24 1 3, .vs f.s2 16 1 3, .vd f.d 1] = .ok ())
    (sound : (if c.w.sound then .ok s else c.poisonCheck s (some (c.guard f.g)) (c.guard f.g &&& c.pv f.s3) [.vs f.s1 24 1 3] >>=
      (fun t => c.poisonCheck t (some (c.guard f.g)) (c.guard f.g &&& ~~~c.pv f.s3) [.vs f.s2 16 1 3])) = .ok u) :
    exec (.vsel f) s = c.done (c.lanes u (c.guard f.g) 3 f.d
      (fun l => if (c.pv f.s3).getLsbD l then c.vv f.s1 l else c.vv f.s2 l)) := by
  rw [exec_vsel, execVsel]
  refine run_ok h ?_
  rcases poison_checks_ok sound with ⟨clean, rfl⟩ | ⟨marked, t, first, second⟩
  · simp only [vsrc2, List.cons_append, List.nil_append, full, clean, if_true, bind, Except.bind, Ctx.lanes]
  · simp only [vsrc2, List.cons_append, List.nil_append, full, marked, first, second, Bool.false_eq_true, if_false, bind,
      Except.bind, Ctx.lanes]

/-- Settles O6: one shape for all but `vsel`; MOD decides how the exact result of a lane is wrapped or saturated. -/
theorem laneIntegerResults : Obligations.LaneIntegerResults := by
  intro s u c
  refine ⟨fun f h => ?_, fun f => ?_, fun f h => ?_, fun f h => ?_, fun f h => ?_, fun f h => vaddi_ready h⟩
  · have gives : ∀ {lat v r}, (∀ l, v c l = r l) → laneOp s f.g (vsrc2 f) lat f.d v = c.done (c.lanes u (c.guard f.g) lat f.d r) :=
      laneOp_gives h
    refine ⟨fun md => ?_, fun md => ?_, fun md => ?_, gives fun l => rfl, gives fun l => rfl, gives fun l => rfl⟩
    · refine ⟨gives fun l => ?_, gives fun l => ?_, gives fun l => ?_, gives fun l => ?_, gives fun l => ?_, gives fun l => ?_⟩
      all_goals rw [md]
      · exact wrap32_add _ _
      · exact wrap32_sub _ _
      · exact wrap32_mul _ _
      · rfl
      · exact minValue_signed _ _
      · exact maxValue_signed _ _
    · refine ⟨gives fun l => ?_, gives fun l => ?_, gives fun l => ?_, gives fun l => ?_, gives fun l => ?_, gives fun l => ?_⟩
      all_goals rw [md]
      · rfl
      · rfl
      · rfl
      · rfl
      · exact minValue_unsigned _ _
      · exact maxValue_unsigned _ _
    · refine ⟨gives fun l => ?_, gives fun l => ?_, gives fun l => ?_⟩
      all_goals
        rw [md]
        rfl
  · exact fun issues full sound => vsel_ready issues full sound
  · have gives : ∀ {v r}, (∀ l, v c l = r l) → laneOp s f.g (shiftSrc f) 3 f.d v = c.done (c.lanes u (c.guard f.g) 3 f.d r) :=
      laneOp_gives h
    exact ⟨gives fun l => rfl, gives fun l => rfl, gives fun l => rfl⟩
  · simp only [exec_vmad, execVmad]
    refine ⟨fun md => ?_, fun md => ?_⟩
    · refine laneOp_gives h fun l => ?_
      rw [md]
      exact wrap32_mul_add _ _ _
    · refine laneOp_gives h fun l => ?_
      rw [md]
      rfl
  · have gives : ∀ {v r}, (∀ l, v c l = r l) →
        laneOp s f.g [.vs f.s1 24 1 3] 3 f.d v = c.done (c.lanes u (c.guard f.g) 3 f.d r) := laneOp_gives h
    refine ⟨fun md => gives fun l => ?_, fun md => gives fun l => ?_, fun md => gives fun l => ?_, fun md => gives fun l => ?_⟩
    all_goals rw [md]
    · rfl
    · exact wrap32_neg _
    · rfl
    · rfl

/-- Settles O53: the clause of O6 for `vaddi`, its sum read as a number; the range of the immediate, and the two words. -/
theorem vectorAddImmediate : Obligations.VectorAddImmediate := by
  refine ⟨fun s u c f h => ⟨_, fun l => toNat_add_signExtend _ _, vaddi_ready h⟩, fun imm => ?_, by decide, by decide⟩
  exact ⟨BitVec.le_toInt imm, by have := BitVec.toInt_lt (x := imm); omega⟩

end Sys2Proof.Proofs
end

section
/-!
PROOFS. Floating-point lane instructions, dot products and compares (R123, R156 to R161), and the long-latency ones (R149, R167).
-/

namespace Sys2Proof.Proofs

open Sys2Proof Sys2Proof.Machine

/-! ### Element-wise floating-point work (R127, R149, R152, R155) -/

section
variable {s u : State} {c : Ctx} {f : FmtA} {srcs : List (BitVec 8 × Nat)} {rounds : Bool}
  {g : Ctx → Ffmt → List Nat → Nat → Nat × Nat}

/-- Element-wise work of fixed latency sends its results and their flags, and holds the slices of type d. -/
theorem fpOp_ready
    (h : Ready s c (some (c.guard f.g)) (srcs.map (fun q => vsrc f.md.toNat q.1 q.2) ++ [vdst f.md.toNat f.d]) u)
    {lat latD : Nat} {v : List Nat → Nat → Nat × Nat} (values : ∀ l r, g c (typeOf f.md.toNat).1 l r = v l r) :
    fpOp s f srcs lat latD rounds g =
      c.done (((c.float u (c.elementwise f rounds (srcs.map Prod.fst) v)
        (if f.md.toNat = 3 then latD else lat) f.d (f.md.toNat == 3)).holdIfD c f.md.toNat).advance c) := by
  refine run_ok h.toIssuing ?_
  simp only [h.operands, bind, Except.bind, Ctx.float, Ctx.elementwise, List.map_map, Function.comp_def, ← values]

/-- Element-wise work on a unit only advances the path where no lane is guarded; else it takes the free unit, and its results
are pending. -/
theorem longOp_ready
    (h : Ready s c (some (c.guard f.g)) (srcs.map (fun q => vsrc f.md.toNat q.1 q.2) ++ [vdst f.md.toNat f.d]) u)
    {unit : Nat → Nat} {occ : Ctx → Nat} :
    (c.guard f.g = 0 → longOp s f srcs unit occ rounds g = c.done (u.advance c)) ∧
    (c.guard f.g ≠ 0 → sget 0 (u.core c.core).busy (unit (pipeOf c.slot)) ≤ c.vc →
      let r := c.elementwise f rounds (srcs.map Prod.fst) (g c (typeOf f.md.toNat).1)
      let t := u.modCore c.core (fun k => { k with busy := sput 0 k.busy (unit (pipeOf c.slot)) (c.vc + occ c) })
      longOp s f srcs unit occ rounds g =
        c.done ((((t.setSr c r.sr).startLong c (.v (c.dregs f.d (f.md.toNat == 3))) (c.guard f.g)
          (.done (laneWrites (c.dregs f.d (f.md.toNat == 3)) r.vals) r.flags)).holdIfD c f.md.toNat).advance c)) := by
  refine ⟨fun idle => run_ok h.toIssuing ?_, fun busy free => run_ok h.toIssuing ?_⟩
  · simp only [h.operands, bind, Except.bind, if_pos idle]
  · simp only [h.operands, bind, Except.bind, if_neg busy, State.takeUnit, if_neg (Nat.not_lt.2 free), Ctx.elementwise, List.map_map,
      Function.comp_def]

end

/-- Settles O7: one shape for all; the elements of `fabn` and `frnd` by the value read. -/
theorem floatLaneResults : Obligations.FloatLaneResults := by
  intro s u c f
  refine ⟨fun h => ?_, fun h => ?_, fun h => ⟨?_, ?_⟩⟩
  · rw [exec_fadd, execFadd, exec_fsub, execFsub, exec_fmul, execFmul, exec_fmin, execFmin, exec_fmax, execFmax]
    exact ⟨fpOp_ready h fun _ _ => rfl, fpOp_ready h fun _ _ => rfl, fpOp_ready h fun _ _ => rfl, fpOp_ready h fun _ _ => rfl,
      fpOp_ready h fun _ _ => rfl⟩
  · rw [exec_fma, execFma]
    exact fpOp_ready h fun _ _ => rfl
  · rw [exec_fabn, execFabn]
    refine fpOp_ready h fun l _ => ?_
    dsimp only
    generalize f.s3.toNat % 4 = k
    rcases (typeOf f.md.toNat).1.read c.rm.ftz (l.getD 0 0) with signalling | n | ⟨n, _ | m, e⟩
    · rfl
    all_goals
      rcases k with _ | _ | k
      all_goals rfl
  · rw [exec_frnd, execFrnd]
    refine fpOp_ready h fun l r => ?_
    dsimp only [argv]
    rcases (typeOf f.md.toNat).1.read c.rm.ftz (l.getD 0 0) with signalling | n | ⟨n, _ | m, e⟩
    · rfl
    · rfl
    · rfl
    · rfl

/-- Settles O9: one shape for all, each on its unit. -/
theorem longFloatResults : Obligations.LongFloatResults := by
  intro s u c f
  dsimp only
  refine ⟨fun h => ?_, fun h => ?_⟩
  · rw [exec_fdiv, execFdiv]
    exact longOp_ready h
  · rw [exec_fsqrt, execFsqrt, exec_vrcp, execVrcp, exec_vrsq, execVrsq, exec_vexp2, execVexp2, exec_vlog2, execVlog2,
      exec_vsin, execVsin, exec_vcos, execVcos, exec_vtanh, execVtanh]
    exact ⟨longOp_ready h, longOp_ready h, longOp_ready h, longOp_ready h, longOp_ready h, longOp_ready h, longOp_ready h, longOp_ready h⟩

/-! ### Dot products, class masks and compares (R123, R159, R161) -/

/-- A floating-point dot product rounds the exact sum once into FP32. -/
theorem dotOp_ready {s u : State} {c : Ctx} {f : FmtA}
    (h : Ready s c (some (c.guard f.g)) [.vs f.s1 24 1 3, .vs f.s2 16 1 3, .vs f.s3 8 1 3, .vd f.d 1] u) (F G : Ffmt) (n : Nat) :
    dotOp s f F G n = c.done ((c.float u (c.eachLane (c.guard f.g) (c.rm.mode == 4) 32 1 (fun l _ r =>
      f32.rnd c.rm (dotEx c.rm ((List.range n).map (fun k =>
        (F.read c.rm.ftz (elem (c.vv f.s1 l).toNat F.width k), G.read c.rm.ftz (elem (c.vv f.s2 l).toNat G.width k))))
        (f32.read c.rm.ftz (c.vv f.s3 l).toNat)) r)) 6 f.d false).advance c) :=
  run_ok h.toIssuing (by simp only [h.operands, bind, Except.bind, Ctx.float])

/-- Settles O8: the dot products by their shape under each MOD; a compare under each MOD, which sets the type and the half. -/
theorem dotClassAndCompareResults : Obligations.DotClassAndCompareResults := by
  intro s u c f
  dsimp only
  refine ⟨fun h => ?_, fun h => ?_, fun F k n gr type h => ?_⟩
  · rw [exec_fdot2, execFdot2, exec_fdot4, execFdot4, exec_vdot4, execVdot4]
    refine ⟨fun md => ?_, fun md => ?_, fun md => ?_, fun md => ?_, fun md => ?_, fun md => ?_, laneOp_gives h fun l => ?dot4⟩
    case dot4 =>
      simp only [show List.range 4 = [0, 1, 2, 3] from rfl, List.foldl_cons, List.foldl_nil, decide_eq_true_eq]
      rfl
    all_goals
      rw [md]
      exact dotOp_ready h ..
  · rw [exec_fclass, execFclass]
    refine run_ok h.toIssuing ?_
    simp only [h.operands, bind, Except.bind]
  · simp only [List.mem_cons, Prod.mk.injEq, List.not_mem_nil, or_false] at type
    rcases type with ⟨md, rfl, rfl, rfl, rfl⟩ | ⟨md, rfl, rfl, rfl, rfl⟩ | ⟨md, rfl, rfl, rfl, rfl⟩ | ⟨md, rfl, rfl, rfl, rfl⟩ |
      ⟨md, rfl, rfl, rfl, rfl⟩ | ⟨md, rfl, rfl, rfl, rfl⟩
    all_goals
      rw [exec_vfcmp, execVfcmp]
      refine run_ok h.toIssuing ?_
      simp [md, h.operands, bind, Except.bind]

end Sys2Proof.Proofs
end

section
/-!
PROOFS. Conversions, quantisation and packing (R141, R162 to R166).
-/

namespace Sys2Proof.Proofs

open Sys2Proof Sys2Proof.Machine

/-- `cvt` and `cvtsr` are one conversion, the latter always stochastic (R162). -/
theorem exec_conversion (f : FmtA) (s : State) (always : Bool) :
    exec (if always then .cvtsr f else .cvt f) s = cvtOp s f always := by
  cases always with
  | false => exact exec_cvt f s
  | true => exact exec_cvtsr f s

/-- Settles O10: a conversion by the width and kind of its destination; the others by running them on their operands. -/
theorem conversionResults : Obligations.ConversionResults := by
  intro s u c f
  dsimp only
  refine ⟨fun always h => ?_, fun h => ?_, fun h => ?_, fun h => ?_, fun w hw h => ?_⟩
  · rw [exec_conversion]
    refine ⟨fun dest narrow some_ => run_ok h.toIssuing ?_, fun dest narrow nothing => run_ok h.toIssuing ?_,
      fun dest wide => run_ok h.toIssuing ?_, fun dest group => run_ok h.toIssuing ?_⟩
    all_goals simp only [decide_eq_true_eq, h.operands, bind, Except.bind]
    · simp only [if_neg (Nat.not_le.2 dest), if_pos narrow, List.isEmpty_iff, if_neg some_]
    · simp only [if_neg (Nat.not_le.2 dest), if_pos narrow, List.isEmpty_iff, if_pos nothing]
    · simp only [if_neg (Nat.not_le.2 dest), if_neg (Nat.not_lt.2 wide)]
    · simp only [if_pos dest, if_neg group, Ctx.float]
  · rw [exec_vqnt, execVqnt]
    refine run_ok h.toIssuing ?_
    simp only [h.operands, bind, Except.bind, Ctx.float, intBits]
  · rw [exec_vdeq, execVdeq]
    refine run_ok h.toIssuing ?_
    simp only [h.operands, bind, Except.bind, Ctx.float]
  · rw [exec_vpack, execVpack]
    exact laneOp_gives h fun l => rfl
  · rw [exec_vunpack, execVunpack, ← hw]
    refine ⟨fun signed => laneOp_gives h fun l => ?_, fun unsigned => laneOp_gives h fun l => ?_⟩
    · rw [unpackValue, ← hw, if_pos signed]
      rfl
    · rw [unpackValue, ← hw, if_neg (by omega)]

end Sys2Proof.Proofs
end

section
/-!
PROOFS. Lane moves (R169) and the tree unit (R170, R171).
-/

namespace Sys2Proof.Proofs

open Sys2Proof Sys2Proof.Machine

/-! ### Moves from other lanes (R169, R173) -/

section
variable {s u : State} {c : Ctx} {f : FmtA} {lat : Nat}

/-- A move brings each guarded active lane the lane of S1 that `pick` names, 0 where it names none. -/
theorem moveOp_ready {ops : List Opnd} {src : Ctx → Nat → Option Nat} {pick : Nat → Option Nat} {r : Nat → Lane}
    (h : ReadyMove s c (c.guard f.g) (maskOf ((lanesOf (c.guard f.g)).filterMap pick)) f.s1 f.d ops u)
    (named : ∀ l, src c l = pick l) (brought : ∀ l k, pick l = some k → c.vv f.s1 k = r l) (cleared : ∀ l, pick l = none → 0 = r l) :
    moveOp s f ops lat src = c.done (c.lanes u (c.guard f.g) lat f.d r) := by
  obtain rfl : src c = pick := funext named
  refine run_ok h.toIssuing ?_
  rcases poison_checks_ok h.sound with ⟨clean, rfl⟩ | ⟨marked, t, first, second⟩
  case' inl => simp only [h.full, clean, if_true, bind, Except.bind]
  case' inr => simp only [h.full, marked, first, second, Bool.false_eq_true, if_false, bind, Except.bind]
  all_goals
    refine congrArg (fun r => Except.ok (c.lanes _ (c.guard f.g) lat f.d r)) (funext fun l => ?_)
    cases lane : src c l with
    | none => exact cleared l lane
    | some k => exact brought l k lane

/-- A move whose every lane names a source lane. -/
theorem moveOp_lane {src : Nat → Nat} (h : ReadyMove s c (c.guard f.g) (maskOf ((lanesOf (c.guard f.g)).map src)) f.s1 f.d [] u)
    {pick : Ctx → Nat → Nat} (named : ∀ l, pick c l = src l) :
    moveOp s f [] lat (fun c l => some (pick c l)) = c.done (c.lanes u (c.guard f.g) lat f.d (fun l => c.vv f.s1 (src l))) := by
  rw [← List.filterMap_eq_map'] at h
  exact moveOp_ready h (fun l => congrArg some (named l)) (fun l k lane => congrArg (c.vv f.s1) (Option.some.inj lane).symm) nofun

end

/-! ### The source lanes of `vshfl` (R169) -/

theorem shflSrc_down (k l : Nat) : shflSrc 1 k l = if k ≤ l then l - k else l := by
  simp only [shflSrc, ← Nat.not_lt, ite_not]

theorem shflSrc_up (k l : Nat) : shflSrc 2 k l = if l + k < 64 then l + k else l := by
  simp only [shflSrc, ← Nat.not_lt, ite_not]

/-! ### The lane moves (R169) -/

/-- Settles O11: the moves from other lanes by `moveOp_ready`, each other move by running it on its operands. -/
theorem laneMoveResults : Obligations.LaneMoveResults := by
  intro s u c f
  dsimp only
  refine ⟨fun h => ?_, fun h => ?_, fun h => ?_, fun h => ?_, fun h => ?_, fun src h => ⟨fun named => ?_, fun named => ?_⟩, ?_⟩
  · rw [exec_vmov, execVmov]
    refine ⟨fun md => run_ok h.toIssuing ?_, fun md => run_ok h.toIssuing ?_⟩
    all_goals
      simp only [h.operands, bind, Except.bind]
      rw [md]
      rfl
  · rw [exec_vbcast, execVbcast]
    refine ⟨fun md => run_ok h.toIssuing ?_, fun md => run_ok h.toIssuing ?_, fun md => run_ok h.toIssuing ?_, fun md => run_ok h.toIssuing ?_⟩
    all_goals
      simp only [h.operands, bind, Except.bind]
      rw [md]
      rfl
  · rw [exec_vext, execVext]
    refine ⟨fun md => run_ok h.toIssuing ?_, fun md => run_ok h.toIssuing ?_, fun md => run_ok h.toIssuing ?_⟩
    all_goals
      simp only [Ctx.laneSel, h.operands, bind, Except.bind]
      rw [md]
      rfl
  · rw [exec_vins, execVins]
    refine run_ok h.toIssuing ?_
    simp only [Ctx.laneSel, h.operands, bind, Except.bind]
  · rw [exec_vperm, execVperm]
    refine moveOp_ready h (fun l => rfl) (fun l k lane => ?_) (fun l lane => ?_)
    · rw [lane]
    · rw [lane]
  · rw [exec_vshfl, execVshfl]
    refine moveOp_lane h fun l => ?_
    rcases named with ⟨md, src⟩ | ⟨md, src⟩ | ⟨md, src⟩ | ⟨md, src⟩
    all_goals rw [md, src]
    · rfl
    · exact shflSrc_down ..
    · exact shflSrc_up ..
    · rfl
  · rw [exec_vlane, execVlane]
    refine moveOp_lane h fun l => ?_
    rcases named with ⟨md, src⟩ | ⟨md, src⟩ | ⟨md, src⟩ | ⟨md, src⟩
    all_goals
      rw [md, src]
      rfl
  · rw [exec_vballot, execVballot]
    refine ⟨fun md h => run_ok h.toIssuing ?_, fun md h => run_ok h.toIssuing ?_, fun md h => run_ok h.toIssuing ?_⟩
    · have code : f.md.toNat = 0 := congrArg BitVec.toNat md
      simp only [code, h.operands, bind, Except.bind]
    · have code : f.md.toNat = 1 := congrArg BitVec.toNat md
      simp only [code, h.operands, bind, Except.bind]
    · have code : f.md.toNat = 2 := congrArg BitVec.toNat md
      simp only [code, h.operands, bind, Except.bind]

/-! ### The tree unit (R170, R171) -/

/-- Settles O12: the tree unit is free, so it is taken; `red` has a destination or x0, `scan` some lane or none. -/
theorem treeResults : Obligations.TreeResults := by
  intro s u c f
  dsimp only
  refine ⟨fun h free => ?_, fun h => ?_⟩
  · rw [exec_red, execRed]
    refine ⟨fun dest => run_ok h.toIssuing ?_, fun discarded => run_ok h.toIssuing ?_⟩
    · simp only [h.operands, bind, Except.bind, State.takeUnit, if_neg (Nat.not_lt.2 free), if_neg dest]
    · simp only [h.operands, bind, Except.bind, State.takeUnit, if_neg (Nat.not_lt.2 free), if_pos discarded]
  · rw [exec_scan, execScan]
    refine ⟨fun idle => run_ok h.toIssuing ?_, fun busy free => run_ok h.toIssuing ?_⟩
    · simp only [h.operands, bind, Except.bind, if_pos idle]
    · simp only [h.operands, bind, Except.bind, State.takeUnit, if_neg (Nat.not_lt.2 free), if_neg busy]

end Sys2Proof.Proofs
end

section
/-!
PROOFS. The local stores: the scratchpad (R177, R179, R182, R188, R189) and the Loam store (R191, R193, R194).
-/

namespace Sys2Proof.Proofs

open Sys2Proof Sys2Proof.Machine

section
variable {s u : State} {c : Ctx} {t : Team} {f : FmtM}

/-! ### The checks of a lane access (R188, R191) -/

/-- Aligned lanes that all lie in the allocation or the reserved area pass the checks, each with its physical address. -/
theorem spLanes_ok {m : Mask} (team : u.teamOf c.w = some t) (aligned : (c.xv f.b + mDisp f).toNat % widBytes f.wid.toNat = 0)
    (inside : ∀ l ∈ lanesOf m,
      (t.spPhys c.p.level ((c.xv f.b + mDisp f).toNat + widBytes f.wid.toNat * l) (widBytes f.wid.toNat)).isSome = true) :
    c.spLanes u f m = .ok ((lanesOf m).map fun l =>
      (l, (t.spPhys c.p.level ((c.xv f.b + mDisp f).toNat + widBytes f.wid.toNat * l) (widBytes f.wid.toNat)).getD 0)) := by
  have noneOut : ((lanesOf m).map fun l => (l, (c.xv f.b + mDisp f).toNat + widBytes f.wid.toNat * l,
      t.spPhys c.p.level ((c.xv f.b + mDisp f).toNat + widBytes f.wid.toNat * l) (widBytes f.wid.toNat))).find?
      (fun q => q.2.2.isNone) = none := by
    rw [List.find?_eq_none]
    intro q hq
    obtain ⟨l, hl, rfl⟩ := List.mem_map.1 hq
    rw [Option.isNone_eq_false_iff.2 (inside l hl)]
    exact Bool.false_ne_true
  simp only [Ctx.spLanes, aligned, ne_eq, not_true_eq_false, if_false, team, Option.getD_some, noneOut, List.map_map, Function.comp_def]

/-- A team that may read each lane's address has no lane that traps (R191). -/
theorem find_unreadable_eq_none {ls : List Nat} {at_ : Nat → Nat} (readable : ∀ l ∈ ls, u.loamReadable t (at_ l) = true) :
    (ls.map fun i => (i, at_ i)).find? (fun q => !u.loamReadable t q.2) = none := by
  rw [List.find?_eq_none]
  intro q hq
  obtain ⟨l, hl, rfl⟩ := List.mem_map.1 hq
  rw [readable l hl]
  exact Bool.false_ne_true

/-! ### Loads and stores of lanes (R188, R194) -/

/-- A load without a lane only advances its path. -/
theorem laneLoads_idle (h : Ready s c (some (c.guard f.g)) [.xs f.b 24 1, mDop f] u) (idle : c.guard f.g = 0) :
    exec (.spld f) s = c.done (u.advance c) ∧ exec (.ldl f) s = c.done (u.advance c) := by
  rw [exec_spld, execSpld, exec_ldl, execLdl]
  refine ⟨run_ok h.toIssuing ?_, run_ok h.toIssuing ?_⟩
  all_goals simp only [h.operands, bind, Except.bind, if_pos idle]

/-- The load of lanes that pass the checks reads them all, and enters the lane-access queue (R179, R182). -/
theorem spld_loads {lanes : List (Nat × Nat)} (h : Ready s c (some (c.guard f.g)) [.xs f.b 24 1, mDop f] u) (some_ : c.guard f.g ≠ 0)
    (team : u.teamOf c.w = some t) (checked : c.spLanes u f (c.guard f.g) = .ok lanes) :
    let w := widBytes f.wid.toNat
    let addrs := lanes.map (fun q => q.2)
    let v := (u.modCore c.core (fun k => k.spSeen addrs w)).laneAccess c (spBanks addrs w) 1
    exec (.spld f) s = c.done ((v.startLong c (mDest f c) (c.guard f.g)
      (spPending f.wid.toNat t.base (mDest f c) lanes ((u.core c.core).spRead f.wid.toNat lanes)) (delay := v.bankDelay c)).advance c) := by
  rw [exec_spld, execSpld]
  refine run_ok h.toIssuing ?_
  simp only [h.operands, bind, Except.bind, if_neg some_, checked, team]

/-- The Loam load of an aligned range inside one region that the team may read waits for the refresh windows of its bank groups (R193). -/
theorem ldl_loads (h : Ready s c (some (c.guard f.g)) [.xs f.b 24 1, mDop f] u) (some_ : c.guard f.g ≠ 0) (team : u.teamOf c.w = some t)
    (aligned : (c.xv f.b + mDisp f).toNat % widBytes f.wid.toNat = 0)
    (inside : loamIn (c.xv f.b + mDisp f).toNat (widBytes f.wid.toNat * (lanesOf (c.guard f.g)).foldl max 0 + widBytes f.wid.toNat) = true)
    (readable : ∀ l ∈ lanesOf (c.guard f.g), u.loamReadable t ((c.xv f.b + mDisp f).toNat + widBytes f.wid.toNat * l) = true) :
    let l := (lanesOf (c.guard f.g)).map (fun i => (i, (c.xv f.b + mDisp f).toNat + widBytes f.wid.toNat * i))
    let wait := l.foldl (fun n q => max n (u.refreshWait q.2)) 0
    let v := if wait = 0 then u else u.modCore c.core (fun k => k.loamStall wait)
    exec (.ldl f) s = c.done ((v.startLong c (mDest f c) (c.guard f.g) (.loam f.wid.toNat l (v.pkg.now + wait * refUnit))).advance c) := by
  rw [exec_ldl, execLdl]
  refine run_ok h.toIssuing ?_
  simp only [h.operands, bind, Except.bind, if_neg some_, aligned, ne_eq, not_true_eq_false, if_false, inside, Bool.not_true,
    Bool.false_eq_true, team, find_unreadable_eq_none readable]

/-- A store without a lane only advances its path. -/
theorem spst_idle (h : Ready s c (some (c.guard f.g)) [.xs f.b 24 1, mSrc f] u) (idle : c.guard f.g = 0) :
    exec (.spst f) s = c.done (u.advance c) := by
  rw [exec_spst, execSpst]
  refine run_ok h.toIssuing ?_
  simp only [h.operands, bind, Except.bind, if_pos idle]

/-- The store to lanes that pass the checks writes their bytes, ascending by lane, and enters the lane-access queue (R179). -/
theorem spst_stores {lanes : List (Nat × Nat)} (h : Ready s c (some (c.guard f.g)) [.xs f.b 24 1, mSrc f] u) (some_ : c.guard f.g ≠ 0)
    (checked : c.spLanes u f (c.guard f.g) = .ok lanes) :
    exec (.spst f) s = c.done (((u.modCore c.core (fun k => k.putSp (lanes.flatMap (fun q =>
      (leBytes (mData f c q.1).toNat (widBytes f.wid.toNat)).zipIdx.map (fun b => (q.2 + b.2, b.1)))))).laneAccess c
        (spBanks (lanes.map (fun q => q.2)) (widBytes f.wid.toNat)) 1).advance c) := by
  rw [exec_spst, execSpst]
  refine run_ok h.toIssuing ?_
  simp only [h.operands, bind, Except.bind, if_neg some_, checked]

end

/-- Settles O22: the lanes' checks pass by `spLanes_ok`, then each access is that of `spld_loads`, `ldl_loads` and `spst_stores`; `spzero`
passes its checks one by one. -/
theorem localStoreResults : Obligations.LocalStoreResults := by
  intro s u c t team
  refine ⟨fun f => ⟨fun h => ⟨laneLoads_idle h, fun some_ aligned inside => ?_, fun some_ => ldl_loads h some_ team⟩,
    fun h => ⟨spst_idle h, fun some_ aligned inside => ?_⟩⟩, fun f h => ⟨fun nothing => ?_, fun on some_ start length inside => ?_⟩⟩
  · exact spld_loads h some_ team (spLanes_ok team aligned inside)
  · exact spst_stores h some_ (spLanes_ok team aligned inside)
  · rw [exec_spzero, execSpzero]
    have skipped : (!c.on f.g || decide (c.xv f.s2 = 0)) = true := by simpa using nothing
    refine run_ok h.toIssuing ?_
    simp only [h.operands, bind, Except.bind, skipped, if_true]
  · rw [exec_spzero, execSpzero]
    refine run_ok h.toIssuing ?_
    simp only [h.operands, bind, Except.bind, on, some_, Bool.not_true, decide_false, Bool.or_false, Bool.false_eq_true, if_false, start,
      length, ne_eq, not_true_eq_false, team, if_neg (Nat.not_lt.2 inside)]

end Sys2Proof.Proofs
end

section
/-!
PROOFS. The matrix instructions at issue: tokens, tile rows and matrix commands (R203 to R205, R207, R212 to R219).
-/

namespace Sys2Proof.Proofs

open Sys2Proof Sys2Proof.Machine

/-! ### Tiles and tokens (R202 to R205, R207, R212, R219) -/

/-- Check 1 of R212 passes in a warp that may use the tile. -/
theorem tileCheck_ok {c : Ctx} {s : State} {t : Team} {leader token : Bool} {tile : Nat} (use : c.MayUseTile s t leader token tile)
    (m : Option Mask) : c.tileCheck s leader token tile m = .ok t := by
  have side : (leader && decide (c.half = 1)) = false := by
    cases leader with
    | false => rfl
    | true => simp [use.side rfl]
  have held : (token && !c.holds s tile) = false := by
    cases token with
    | false => rfl
    | true => simp [use.held rfl]
  have twin : t.half.isNone = false := Option.isNone_eq_false_iff.2 use.twin
  simp only [Ctx.tileCheck, side, use.team, twin, held, Bool.false_eq_true, if_false]

section
variable {s u : State} {c : Ctx} {t : Team} {f : FmtA}

/-- A token that is given to no warp is free (R204). -/
theorem tgive_frees (h : Ready s c none [.xs f.s2 16 1] u) (on : c.on f.g = true) (use : c.MayUseTile u t false true (opIdx f.s1 % 8))
    (free : c.xv f.s2 = BitVec.allOnes 64) :
    exec (.tgive f) s = c.done ((u.setToken (c.core / 2) (opIdx f.s1 % 8) .free).advance c) := by
  rw [exec_tgive, execTgive]
  refine run_ok h.toIssuing ?_
  simp only [h.operands, bind, Except.bind, on, Bool.not_true, Bool.false_eq_true, if_false, tileCheck_ok use, if_pos free]

/-- The name of a warp of the twin teams is not the value that frees a token. -/
theorem ne_allOnes_of_name {x : Word} (name : x &&& ~~~0x10F = 0) : x ≠ BitVec.allOnes 64 := by
  rintro rfl
  exact absurd name (by decide)

/-- A token given to a warp of the twin teams that has not ended is that warp's, which waits no longer (R204, R205). -/
theorem tgive_hands_on (h : Ready s c none [.xs f.s2 16 1] u) (on : c.on f.g = true)
    (use : c.MayUseTile u t false true (opIdx f.s1 % 8)) (name : c.xv f.s2 &&& ~~~0x10F = 0) (inside : bits (c.xv f.s2) 3 0 < t.wpt)
    {half : Nat} (side : (if bit (c.xv f.s2) 8 then 1 - c.half else c.half) = half) {t2 : Team}
    (team : (if half = c.half then some t else u.team t.handle (if c.half = 0 then t.idx + 1 else t.idx - 1)) = some t2)
    (live : t2.ended.contains (bits (c.xv f.s2) 3 0) = false) :
    exec (.tgive f) s = c.done (((u.modPair (c.core / 2) (fun p => { p with
      waiters := p.waiters.filter (fun q => !(q.1 == opIdx f.s1 % 8 && q.2.1 == half && q.2.2.1 == bits (c.xv f.s2) 3 0)) })).setToken
        (c.core / 2) (opIdx f.s1 % 8) (.held half (bits (c.xv f.s2) 3 0))).advance c) := by
  rw [exec_tgive, execTgive]
  refine run_ok h.toIssuing ?_
  simp only [h.operands, bind, Except.bind, on, Bool.not_true, Bool.false_eq_true, if_false, tileCheck_ok use,
    if_neg (ne_allOnes_of_name name), side, team, live, name, inside, and_self, decide_true, Bool.not_false, Bool.and_self, if_true]

/-- A warp that holds the token goes on. -/
theorem ttake_held (h : Ready s c none [] u) (on : c.on f.g = true) (use : c.MayUseTile u t false false (opIdx f.d % 8))
    (held : c.holds u (opIdx f.d % 8) = true) : exec (.ttake f) s = c.done (u.advance c) := by
  rw [exec_ttake, execTtake]
  refine scalarDo_on h on ?_
  simp only [bind, Except.bind, tileCheck_ok use, held, if_true]

/-- A free token goes to the first that waits, where some do (R205). -/
theorem ttake_free (h : Ready s c none [] u) (on : c.on f.g = true) (use : c.MayUseTile u t false false (opIdx f.d % 8))
    (held : c.holds u (opIdx f.d % 8) = false) (free : sget .free (u.pair (c.core / 2)).tokens (opIdx f.d % 8) = .free)
    (first : ((u.pair (c.core / 2)).waiters.filter (fun q => q.1 == opIdx f.d % 8)).head?.all
      (fun q => q.1 == opIdx f.d % 8 && q.2.1 == c.half && q.2.2.1 == c.w.widx) = true) :
    exec (.ttake f) s = c.done (((u.modPair (c.core / 2) (fun p => { p with
      waiters := p.waiters.filter (fun q => !(q.1 == opIdx f.d % 8 && q.2.1 == c.half && q.2.2.1 == c.w.widx)) })).setToken
        (c.core / 2) (opIdx f.d % 8) (.held c.half c.w.widx)).advance c) := by
  rw [exec_ttake, execTtake]
  refine scalarDo_on h on ?_
  cases line : (u.pair (c.core / 2)).waiters.filter (fun q => q.1 == opIdx f.d % 8) with
  | nil => simp [bind, Except.bind, tileCheck_ok use, held, free, line]
  | cons q l =>
    rw [line] at first
    simp only [List.head?_cons, Option.all_some] at first
    simp [bind, Except.bind, tileCheck_ok use, held, free, line, first]

end

/-! ### Matrix commands at issue (R212, R216 to R218) -/

/-- A command that finds room is pushed. -/
theorem pushMatrix_ok {c : Ctx} {s : State} {m : MatCmd} {sig : Nat} (room : c.matrixRoom s m sig = true) :
    c.pushMatrix s m sig = .ok (c.matrixPushed s m sig) := by
  simp only [Ctx.matrixRoom, Bool.and_eq_true, decide_eq_true_eq, Bool.or_eq_true, Bool.not_eq_true'] at room
  obtain ⟨⟨⟨queue, records⟩, journal⟩, flag⟩ := room
  have fits : ¬ (32 ≤ (s.core c.core).queued 0 ∨ (m.wantsRec = true ∧ queueCap 1 ≤ (s.core c.core).popUsed 1)) := by
    rintro (full | ⟨wants, full⟩)
    · omega
    · have cap : 32 ≤ (s.core c.core).popUsed 1 := full
      rcases records with none_ | few
      · exact absurd (none_.symm.trans wants) Bool.false_ne_true
      · omega
  have entry : c.journalRoom s = .ok () := if_neg (Nat.not_le.2 journal)
  simp only [Ctx.pushMatrix, if_neg fits, entry, flagInc_ok flag, bind, Except.bind]
  rfl

/-- The matrix instructions of one shape: a failing guard advances the path, a command that passes its checks and finds room is
pushed. -/
theorem matrixOp_ready {s u : State} {c : Ctx} {f : FmtA} {ops : List Opnd} (h : Ready s c none ops u) {token : Bool} {tile : Nat}
    {m : Ctx → MatCmd} {check : Ctx → MatCmd → Team → Try Unit} {t : Team} :
    (c.on f.g = false → matrixOp s f ops token tile m check = c.done (u.advance c)) ∧
    (c.on f.g = true → c.MayUseTile u t true token tile → check c (m c) t = .ok () → c.matrixRoom u (m c) (sigOf f.s3) = true →
      matrixOp s f ops token tile m check = c.done ((c.matrixPushed u (m c) (sigOf f.s3)).advance c)) := by
  refine ⟨fun off => run_ok h.toIssuing ?_, fun on use passes room => run_ok h.toIssuing ?_⟩
  · simp only [h.operands, bind, Except.bind, off, Bool.not_false, if_true]
  · simp only [h.operands, bind, Except.bind, on, Bool.not_true, Bool.false_eq_true, if_false, tileCheck_ok use, passes,
      pushMatrix_ok room]

/-- A `mout` takes three registers where it writes planes, else two, none beyond x63 (R39, R183). -/
theorem mout_registers (planes : Prop) [Decidable planes] :
    64 - (if planes then 61 else 62) = if planes then 3 else 2 := by split <;> rfl

/-- `mout` is a matrix instruction of the shared shape, its registers counted by what it writes. -/
theorem mout_ready {s u : State} {c : Ctx} {f : FmtA} {rows : Nat} (hr : (if bits (c.w.mpr 6) 2 0 = 3 then 3 else 2) = rows)
    (fits : opIdx f.s1 + rows ≤ 64) (h : Ready s c none [.xs f.s1 24 rows] u) {t : Team} {m : MatCmd}
    (captured : c.capture 5 (opIdx f.d % 8) 0 (c.regs3 f.s1 rows) [] = m) :
    (c.on f.g = false → exec (.mout f) s = c.done (u.advance c)) ∧
    (c.on f.g = true → c.MayUseTile u t true true (opIdx f.d % 8) → m.outCheck t = .ok () → c.matrixRoom u m (sigOf f.s3) = true →
      exec (.mout f) s = c.done ((c.matrixPushed u m (sigOf f.s3)).advance c)) := by
  have count : 64 - (if bits (c.w.mpr 6) 2 0 = 3 then 61 else 62) = rows := (mout_registers _).trans hr
  have inside : ¬ (if bits (c.w.mpr 6) 2 0 = 3 then 61 else 62) < opIdx f.s1 := by omega
  rw [exec_mout, execMout]
  refine ⟨fun off => run_ok h.toIssuing ?_, fun on use passes room => run_ok h.toIssuing ?_⟩
  · simp only [if_neg inside, count, h.operands, bind, Except.bind, off, Bool.not_false, if_true]
  · simp only [if_neg inside, count, h.operands, bind, Except.bind, on, Bool.not_true, Bool.false_eq_true, if_false, tileCheck_ok use,
      captured, passes, pushMatrix_ok room]

/-- Settles O25: each instruction under its guard, in a warp that may use the tile; the commands by the shape that they share. -/
theorem matrixResults : Obligations.MatrixResults := by
  intro s u c t
  dsimp only
  refine ⟨fun f h => ⟨fun off => ?_, fun on use => ?_⟩, fun f => ⟨fun h => ⟨fun off => ?_, fun on use => ⟨tgive_frees h on use,
      fun t2 name inside team live => tgive_hands_on h on use name inside rfl team live⟩⟩,
    fun h => ⟨scalarDo_off h, fun on use => ⟨ttake_held h on use, ttake_free h on use⟩⟩,
    ⟨fun h use row => ?_, fun h use row => ?_⟩, fun h => ?_, fun h => ?_, fun h => ?_, fun h => ?_, fun h => ?_,
    fun fits h => mout_ready rfl fits h rfl⟩⟩
  · rw [exec_mcfg, execMcfg]
    refine run_ok h.toIssuing ?_
    simp only [h.operands, bind, Except.bind, off, Bool.not_false, if_true]
  · rw [exec_mcfg, execMcfg]
    refine run_ok h.toIssuing ?_
    simp only [h.operands, bind, Except.bind, on, Bool.not_true, Bool.false_eq_true, if_false, tileCheck_ok use]
  · rw [exec_tgive, execTgive]
    refine run_ok h.toIssuing ?_
    simp only [h.operands, bind, Except.bind, off, Bool.not_false, if_true]
  · rw [exec_trow, execTrow]
    refine run_ok h.toIssuing ?_
    simp only [h.operands, bind, Except.bind, tileCheck_ok use, if_neg (Nat.not_lt.2 row)]
  · rw [exec_twrow, execTwrow]
    refine run_ok h.toIssuing ?_
    simp only [h.operands, bind, Except.bind, tileCheck_ok use, if_neg (Nat.not_lt.2 row)]
  · rw [exec_mzero, execMzero]
    exact matrixOp_ready h
  · rw [exec_mmul, execMmul]
    exact matrixOp_ready h
  · rw [exec_mmull, execMmull]
    exact matrixOp_ready h
  · rw [exec_mmulm, execMmulm]
    exact matrixOp_ready h
  · rw [exec_mplane, execMplane]
    exact matrixOp_ready h

end Sys2Proof.Proofs
end

section
/-!
PROOFS. The events of a pair's array: chunks, commands that end, freezes (R193, R198, R199, R203, R208, R215, R221 to R223, R325).
-/

namespace Sys2Proof.Proofs

open Sys2Proof Sys2Proof.Machine

/-! ### The chunks of the array (R193, R198, R199, R203, R222, R223) -/

/-- A command is a product. -/
def isProduct (m : MatCmd) : Bool := decide (1 ≤ m.kind ∧ m.kind ≤ 3)

/-- The accumulators of a chunk: those of a product's first come from its tile (R203). -/
def chunkAcc (s : State) (pr : Nat) (n : NextChunk) (m : MatCmd) : Mat (SMap Lane) :=
  if isProduct m && decide (n.chunk = 0) then s.startAcc pr n.seq m else .ok n.run.acc

/-- The next chunk of a pair computed on given accumulators, or why it cannot be (R199). -/
def chunkFrom (s : State) (pr : Nat) (n : NextChunk) (cmd : Cmd) (m : MatCmd) (acc : SMap Lane) : Mat (MatRun × State) :=
  let r := { n.run with chunk := n.chunk, acc := acc, len := m.chunkLen, eu := 75 * cdiv m.vrow 32 }
  if isProduct m then s.productChunk pr cmd m r n.chunk else .ok (r, s)

/-- What the fetch of the next chunk's operands finds: its accumulators, then its operands. -/
def chunkOperands (s : State) (pr : Nat) (n : NextChunk) (cmd : Cmd) (m : MatCmd) : Mat (MatRun × State) :=
  match chunkAcc s pr n m with
  | .error e => .error e
  | .ok acc => chunkFrom s pr n cmd m acc

/-- The state after a fetch with this result: the chunk is in the buffers, its command abandoned, the pair frozen, or the fetch late. -/
def afterFetch (s : State) (pr : Nat) (n : NextChunk) (m : MatCmd) : Mat (MatRun × State) → State
  | .error (.fault cause off fl) => s.matFault pr n.seq cause off fl
  | .error (.walk off v) => v.freezePair pr n.seq false off
  | .error (.perm a) => s.freezePair pr n.seq true (BitVec.ofNat 64 a)
  | .error (.late w) => s.supplyLate pr w
  | .ok (r, v) =>
    (v.modPair pr (fun x => { x with buffer := some (r, if (s.pair pr).late then (s.pair pr).mc else 0), late := false, loamAt := none })).modCmd
      (2 * pr) n.seq (fun c => { c with started := c.started || isProduct m,
                                        readDone := c.readDone || (isProduct m && decide (n.chunk + 1 = m.chunks)) })

/-- The model's fetch seeks the operands and follows up what it finds. -/
theorem supply_eq (s : State) (pr : Nat) (n : NextChunk) (cmd : Cmd) (m : MatCmd) :
    s.supply pr n cmd m = afterFetch s pr n m (chunkOperands s pr n cmd m) := by
  have bound : chunkOperands s pr n cmd m =
      if isProduct m && decide (n.chunk = 0) then s.startAcc pr n.seq m >>= chunkFrom s pr n cmd m
      else .ok n.run.acc >>= chunkFrom s pr n cmd m := by
    by_cases first : (isProduct m && decide (n.chunk = 0)) = true
    · simp only [chunkOperands, chunkAcc, if_pos first]
      cases s.startAcc pr n.seq m <;> rfl
    · simp only [chunkOperands, chunkAcc, if_neg first]
      rfl
  rw [bound]
  rfl

section
variable {s : State} {n : NextChunk} {cmd : Cmd} {m : MatCmd}
variable (next : s.nextChunk s.ev.a = some n) (found : s.matCmd s.ev.a n.seq = some (cmd, m))
include next found

/-- A chunk whose operands are in the buffers starts once its mc has come. -/
theorem matrixChunkStart_buffered (ready : ((s.pair s.ev.a).buffered n).isSome = true) :
    exec .matrixChunkStart s = .next (s.startChunk s.ev.a n m) := by
  simp only [exec_matrixChunkStart, execMatrixChunkStart, next, found, ready, if_true]

/-- The operands of a chunk are fetched first, and it starts where they came and its mc has. -/
theorem matrixChunkStart_fetched (missing : (s.pair s.ev.a).buffered n = none) {r : Mat (MatRun × State)}
    (operands : chunkOperands s s.ev.a n cmd m = r) :
    exec .matrixChunkStart s = .next ((afterFetch s s.ev.a n m r).startChunk s.ev.a n m) := by
  simp only [exec_matrixChunkStart, execMatrixChunkStart, next, found, missing, Option.isSome_none, Bool.false_eq_true, if_false, supply_eq,
    operands]

end

/-! ### Freezes (R222, R223, R325) -/

section
variable {s : State} {z : Freeze} (frozen : (s.pair s.ev.a).freeze = some z) (kept : z.failed = none)
include frozen kept

/-- A Loam permission is there at once. -/
theorem freezeResume_loam (loam : z.loam = true) :
    exec .freezeResume s = .next ((s.modPair s.ev.a (fun p =>
      { p with permCache := (loamKey z.off.toNat / 65536 :: p.permCache).take 64 })).thaw s.ev.a false) := by
  simp only [exec_freezeResume, execFreezeResume, frozen, kept, loam, Option.isSome_none, Bool.false_eq_true, if_false, if_true]

/-- A freeze that failed at nothing yet is converted once it has lasted too long, or its walk is held. -/
theorem freezeConversion_late
    (late : 65536 * ncPeriod (s.die (s.ev.a / 64)).an < s.pkg.now - z.since ∨ s.freezeHeld s.ev.a z = true) :
    exec .freezeConversion s =
      .next ((s.thaw s.ev.a true).matFault s.ev.a z.seq 0x11 z.off (s.freezeRecord s.ev.a z)) := by
  have ends : (decide (65536 * ncPeriod (s.die (s.ev.a / 64)).an < s.pkg.now - z.since) || s.freezeHeld s.ev.a z) = true := by
    simpa using late
  simp only [exec_freezeConversion, execFreezeConversion, frozen, kept, ends, if_true]

variable (stream : z.loam = false) {t : Team} {c : Cmd} {m : MatCmd} {v : State} (leader : s.twinOf s.ev.a 0 = some t)
  (found : s.matCmd s.ev.a z.seq = some (c, m))
include stream leader found

/-- A stream's page that is translated lets the pair go on. -/
theorem freezeResume_translated {pa : Nat} {cmp : Bool} (page : s.locate t.core 4 (t.acc m.space c.level) z.off 4 = (.ok pa cmp, v)) :
    exec .freezeResume s = .next (v.thaw s.ev.a false) := by
  simp only [exec_freezeResume, execFreezeResume, frozen, kept, stream, leader, found, page, Option.isSome_none, Bool.false_eq_true, if_false]

/-- A page that is still walked for leaves the pair frozen. -/
theorem freezeResume_walking (page : s.locate t.core 4 (t.acc m.space c.level) z.off 4 = (.miss, v)) :
    exec .freezeResume s = .next v := by
  simp only [exec_freezeResume, execFreezeResume, frozen, kept, stream, leader, found, page, Option.isSome_none, Bool.false_eq_true, if_false]

/-- A page that cannot be had, and is no first touch, is kept for the conversion with its record. -/
theorem freezeResume_failed {kind lv : Nat} (touched : kind ≠ 1)
    (page : s.locate t.core 4 (t.acc m.space c.level) z.off 4 = (.fault kind lv, v)) :
    exec .freezeResume s = .next (v.modPair s.ev.a (fun p => { p with freeze := some { z with
      failed := some (if kind = 6 then 0x12 else 0x11,
        flinfoOf kind lv 4 (decide ((t.acc m.space c.level).level = .user)) (t.acc m.space c.level).space) } })) := by
  simp only [exec_freezeResume, execFreezeResume, frozen, kept, stream, leader, found, page, Option.isSome_none, Bool.false_eq_true, if_false]

end

/-- Settles O32: a chunk by what the fetch of its operands finds, a command by its results, a freeze by what it waits for. -/
theorem matrixEventResults : Obligations.MatrixEventResults := by
  intro s
  refine ⟨fun n cmd m next found => ⟨matrixChunkStart_buffered next found, fun missing =>
      ⟨fun cause off fl hr => matrixChunkStart_fetched next found missing hr, fun off v hr => matrixChunkStart_fetched next found missing hr,
        fun a hr => matrixChunkStart_fetched next found missing hr, fun w hr => matrixChunkStart_fetched next found missing hr,
        fun run v hr => matrixChunkStart_fetched next found missing hr⟩⟩,
    fun r c m due found => ⟨fun cause off fl hr => ?_, fun x y flags hr => ?_⟩,
    fun z frozen => ⟨fun t c m v kept stream leader found => ⟨fun pa cmp => freezeResume_translated frozen kept stream leader found,
        freezeResume_walking frozen kept stream leader found, fun kind lv => freezeResume_failed frozen kept stream leader found⟩,
      freezeResume_loam frozen, fun cause fl failed => ?_, freezeConversion_late frozen⟩⟩
  · have result : (if m.kind ≤ 3 then .ok ([], [], r.flags) else s.spadResult s.ev.a m) = Except.error (.fault cause off fl) := hr
    simp only [exec_matrixCommandComplete, execMatrixCommandComplete, due, found, result]
  · have result : (if m.kind ≤ 3 then .ok ([], [], r.flags) else s.spadResult s.ev.a m) = Except.ok (x, y, flags) := hr
    simp only [exec_matrixCommandComplete, execMatrixCommandComplete, due, found, result] <;> rfl
  · simp only [exec_freezeConversion, execFreezeConversion, frozen, failed]

end Sys2Proof.Proofs
end

section
/-!
PROOFS. Loads and stores (R232 to R235, R265 to R267, R338).
-/

namespace Sys2Proof.Proofs

open Sys2Proof Sys2Proof.Machine

/-! ### The checks of an access (R232, R234, R260, R317) -/

section
variable {s v : State} {c : Ctx}

/-- Aligned addresses pass the alignment check. -/
theorem alignCheck_ok {m : Option Mask} {w : Nat} {es : List (Nat × Word)} (aligned : ∀ q ∈ es, q.2.toNat % w = 0) :
    alignCheck m w es = .ok () := by
  have none_ : es.find? (fun q => q.2.toNat % w != 0) = none :=
    List.find?_eq_none.2 fun q hq => by simp [aligned q hq]
  rw [alignCheck, none_]

/-- No boundary, no wait for it. -/
theorem noBoundary_ok (idle : (s.core c.core).bstage = .idle) : c.noBoundary s = .ok () := by
  rw [Ctx.noBoundary, idle]
  rfl

/-- Lanes that wait for no walk are located. -/
theorem located_ok {dom acc : Nat} {es : List (Nat × Word)} {r : Located} (located : s.locateLanes c.core 0 (c.acc s dom) acc es = (r, v))
    (here : r.miss = false) : c.located s dom acc es = .ok (r, v) := by
  simp only [Ctx.located, located, here, Bool.false_eq_true, if_false]

/-- The half vc by which a free coalescer has sent the requests of an access (R232). -/
def coalesced (v : State) (c : Ctx) (l : List LaneAt) : Nat := max (v.core c.core).coal (2 * c.vc) + requests l

/-- The coalescer with an access in it. -/
def coalescing (v : State) (c : Ctx) (l : List LaneAt) : State := v.modCore c.core (fun k => { k with coal := coalesced v c l })

/-- A coalescer that sends nothing of an earlier vc takes the access. -/
theorem coalesce_ok {l : List LaneAt} (free : (v.core c.core).coal < 2 * c.vc + 2) :
    v.coalesce c l = .ok ((coalesced v c l - 1) / 2 - c.vc, coalescing v c l) := by
  obtain ⟨busy, _⟩ | ⟨_, taken⟩ := coalesce_cases v c l
  · exact absurd free (Nat.not_lt.2 busy)
  · exact taken

end

/-! ### Loads (R234, R267, R338) -/

/-- The lanes that a load faulted on when its path issued it last, and its destination (R338). -/
def retried (c : Ctx) : Option (Mask × Dest) :=
  match c.p.replay with
  | some (pc, m, d) => if pc = c.p.pc then some (m, d) else none
  | none => none

/-- The context in which a load's operands are judged: one issued again does not ask its own destination to be full (R338). -/
def reissued (c : Ctx) : Ctx :=
  match retried c with
  | some (_, d) => { c with w := c.w.full d }
  | none => c

/-- The lanes of a load: those of its form, `own`, or the failed ones of a load issued again. -/
def loadLanes (c : Ctx) (own : List Nat) : List Nat :=
  match retried c with
  | some (m, _) => lanesOf m
  | none => own

/-- What a path holds of a load that is issued again: nothing, that of the word at its program counter, or that of another word. -/
theorem replay_cases (c : Ctx) : c.p.replay = none ∨ (∃ m d, c.p.replay = some (c.p.pc, m, d)) ∨
    ∃ pc m d, c.p.replay = some (pc, m, d) ∧ pc ≠ c.p.pc := by
  rcases c.p.replay with _ | ⟨pc, m, d⟩
  · exact .inl rfl
  · by_cases same : pc = c.p.pc
    · exact .inr (.inl ⟨m, d, by rw [same]⟩)
    · exact .inr (.inr ⟨pc, m, d, rfl, same⟩)

/-- A load issued again is issued by the same path, in the same place at the same time. -/
theorem reissued_place (c : Ctx) :
    (reissued c).core = c.core ∧ (reissued c).slot = c.slot ∧ (reissued c).vc = c.vc ∧ (reissued c).p = c.p := by
  rw [reissued]
  split <;> exact ⟨rfl, rfl, rfl, rfl⟩

/-- Filling a destination changes full/empty bits only. -/
theorem full_registers (w : Warp) (d : Dest) : (w.full d).x = w.x ∧ (w.full d).v = w.v ∧ (w.full d).d = w.d := by
  cases d <;> exact ⟨rfl, rfl, rfl⟩

/-- Lane addresses do not depend on full/empty bits. -/
theorem ea_full (c : Ctx) (d : Dest) (f : FmtM) (a : Addr) : ({ c with w := c.w.full d } : Ctx).ea f a = c.ea f a := by
  obtain ⟨hx, hv, _⟩ := full_registers c.w d
  funext l
  cases a <;> simp only [Ctx.ea, Ctx.xv, Ctx.vv2, Ctx.phys, Warp.xr, Warp.vr, hx, hv]

/-- Nor do domain registers. -/
theorem dr_full (w : Warp) (d : Dest) (n : Nat) : (w.full d).dr n = w.dr n := by
  obtain ⟨_, _, hd⟩ := full_registers w d
  simp only [Warp.dr, hd]

/-- The state in which the L1 has answered a load of lanes `l` with what it holds and the rest is on its way (R234, R267). -/
def loadIssued (v : State) (c k : Ctx) (wid space : Nat) (acq : Bool) (dest : Dest) (l : List LaneAt) : State :=
  let w := widBytes wid
  let v0 := coalescing v c l
  let ll := l.map ((v0.core c.core).laneLoad w acq)
  let held := (ll.filter (fun q => !isWindow q.pa)).flatMap
    (fun q => ((List.range w).filter (fun i => (q.got.getD i none).isSome)).map (fun i => q.pa + i))
  let lines := dedup ((ll.filter (fun q => !isWindow q.pa)).map (fun q => lineOf q.pa))
  let v1 := if acq then v0 else v0.l1Access c.core c.slot (lines.map (fun n =>
    (n, ll.any (fun q => lineOf q.pa == n && q.got.any (fun b => b.isNone)))))
  ((v1.modCore c.core (fun k => k.l1Seen held)).startLong k dest (maskOf (l.map (fun q => q.lane))) (.load wid ll acq) space
    ((coalesced v c l - 1) / 2 - c.vc)).sendReads c.core c.slot (v1.core c.core).nextId w ll

/-- A load that finds room at the ports and in the coalescer is issued. -/
theorem issueLoad_ok {v : State} {c : Ctx} {wid space : Nat} {acq : Bool} {dest : Dest} {l : List LaneAt}
    (room : v.flefinRoom (l.map (fun q => (q.pa, widBytes wid))) = true) (free : (v.core c.core).coal < 2 * c.vc + 2) :
    v.issueLoad c wid space acq dest l = .ok (loadIssued v c c wid space acq dest l) := by
  simp only [State.issueLoad, room, Bool.not_true, Bool.false_eq_true, if_false, coalesce_ok free, bind, Except.bind]
  rfl

/-- The place of an issue is all that a load takes of its context besides the operation that it starts. -/
theorem loadIssued_reissued (v : State) (c : Ctx) (wid space : Nat) (acq : Bool) (dest : Dest) (l : List LaneAt) :
    loadIssued v (reissued c) (reissued c) wid space acq dest l = loadIssued v c (reissued c) wid space acq dest l := by
  obtain ⟨hcore, hslot, hvc, _⟩ := reissued_place c
  simp only [loadIssued, coalescing, coalesced, hcore, hslot, hvc]

section
variable {s u v : State} {c : Ctx} {f : FmtM} {a : Addr} {dest : Ctx → Dest} {dop : Opnd} {r : Located}

/-- A load with no lane to take only advances its path; one whose lanes pass the checks is issued, an acquire parking the path. The branches
are those of `replay_cases`. -/
theorem loadOp_issuing (h : Issuing s c)
    (operands : (reissued c).begin s (if a = .scalar then none else some (c.guard f.g))
      (a.ops f ++ (if (retried c).isSome then [] else [dop])) = .ok u) :
    let lanes := loadLanes c (c.accessLanes f.g a)
    let es := lanes.map (fun l => (l, c.ea f a l))
    (lanes = [] → loadOp s f a dest dop = c.done (u.advance (reissued c))) ∧
    (lanes ≠ [] → (∀ q ∈ es, q.2.toNat % widBytes f.wid.toNat = 0) → (u.core c.core).bstage = .idle →
      u.locateLanes c.core 0 ((reissued c).acc u f.dom.toNat) 0 es = (r, v) → r.miss = false → r.bad = [] →
      v.flefinRoom (r.ok.map (fun q => (q.pa, widBytes f.wid.toNat))) = true → (v.core c.core).coal < 2 * c.vc + 2 →
      let t := ((loadIssued v c (reissued c) f.wid.toNat (c.w.dr f.dom.toNat).toNat (mWide f 1) (dest (reissued c)) r.ok).modCur (reissued c)
        (fun p => { p with replay := none })).advance (reissued c)
      loadOp s f a dest dop = c.done (if mWide f 1 then t.park (reissued c) (.op (v.core c.core).nextId .mem) else t)) := by
  refine ⟨fun idle => run_ok h ?_, fun some_ aligned ready located here good room free => run_ok h ?_⟩
  · obtain replay | ⟨m, d, replay⟩ | ⟨pc, m, d, replay, other⟩ := replay_cases c
    · simp only [reissued, retried, loadLanes, replay, Option.isSome_none, Bool.false_eq_true, if_false] at *
      simp only [operands, bind, Except.bind, idle, List.isEmpty_nil, if_true]
    · simp only [reissued, retried, loadLanes, replay, Option.isSome_some, if_true] at *
      simp only [operands, bind, Except.bind, idle, List.isEmpty_nil, if_true]
    · simp only [reissued, retried, loadLanes, replay, if_neg other, Option.isSome_none, Bool.false_eq_true, if_false] at *
      simp only [operands, bind, Except.bind, idle, List.isEmpty_nil, if_true]
  · obtain ⟨hcore, _, hvc, _⟩ := reissued_place c
    have any : (loadLanes c (c.accessLanes f.g a)).isEmpty = false := List.isEmpty_eq_false_iff.2 some_
    have checked := alignCheck_ok (m := if a = .scalar then none else some (c.guard f.g)) aligned
    have boundary : (reissued c).noBoundary u = .ok () := noBoundary_ok (by rwa [hcore])
    have lanes : (reissued c).located u f.dom.toNat 0 ((loadLanes c (c.accessLanes f.g a)).map fun l => (l, c.ea f a l)) = .ok (r, v) :=
      located_ok (by rwa [hcore]) here
    have issued := issueLoad_ok (space := (c.w.dr f.dom.toNat).toNat) (acq := mWide f 1) (dest := dest (reissued c)) room
      (show (v.core (reissued c).core).coal < 2 * (reissued c).vc + 2 by rwa [hcore, hvc])
    rw [loadIssued_reissued] at issued
    obtain replay | ⟨m, d, replay⟩ | ⟨pc, m, d, replay, other⟩ := replay_cases c
    · simp only [reissued, retried, loadLanes, replay, Option.isSome_none, Bool.false_eq_true, if_false] at *
      simp only [operands, bind, Except.bind, any, checked, boundary, lanes, good, issued, List.isEmpty_nil, if_true, Bool.false_eq_true, if_false]
    · simp only [reissued, retried, loadLanes, replay, Option.isSome_some, if_true] at *
      simp only [operands, bind, Except.bind, any, checked, ea_full, dr_full, boundary, lanes, good, issued, List.isEmpty_nil, if_true,
        Bool.false_eq_true, if_false]
    · simp only [reissued, retried, loadLanes, replay, if_neg other, Option.isSome_none, Bool.false_eq_true, if_false] at *
      simp only [operands, bind, Except.bind, any, checked, boundary, lanes, good, issued, List.isEmpty_nil, if_true, Bool.false_eq_true, if_false]

end

/-- Settles O19: one shape of load at each form's addresses. -/
theorem loadResults : Obligations.LoadResults := by
  intro s u v c f r
  have vdest : mDest f (reissued c) = .v (c.dregs f.t (decide (f.wid = 5))) := by
    obtain ⟨_, _, _, hp⟩ := reissued_place c
    simp only [mDest, Ctx.dregs, Ctx.phys, hp]
  refine ⟨fun h operands => ?_, fun h operands => ?_, fun h operands => ?_, fun h operands => ?_⟩
  · exact loadOp_issuing (a := .scalar) (dest := fun _ => if opIdx f.t = 0 then .none else .x (opIdx f.t)) (dop := .xd f.t) h operands
  all_goals rw [← vdest]
  · exact loadOp_issuing (a := .unit) (dest := mDest f) (dop := mDop f) h operands
  · exact loadOp_issuing (a := .gather) (dest := mDest f) (dop := mDop f) h operands
  · exact loadOp_issuing (a := .strided) (dest := mDest f) (dop := mDop f) h operands

/-! ### Stores (R234, R235, R266) -/

section
variable {s u u1 v : State} {c : Ctx} {f : FmtM} {a : Addr} {data : Ctx → Nat → Word} {src : Opnd} {r : Located} {w : Nat}
  {l : List (LaneAt × Word)}

/-- A store that finds room at the ports and in the coalescer is issued, whether it releases or not. -/
theorem issueStore_ok {rel : Bool} (room : v.flefinRoom (l.map (fun q => (q.1.pa, w))) = true)
    (free : (v.core c.core).coal < 2 * c.vc + 2) : ∃ t, v.issueStore c w rel l = .ok t := by
  cases rel
  all_goals
    simp only [State.issueStore, room, coalesce_ok free, bind, Except.bind, Bool.not_true, Bool.not_false, Bool.false_eq_true, if_true, if_false]
    exact ⟨_, rfl⟩

/-- A plain store to memory writes the bytes of its lanes into the L1, those of compressed pages marked so. -/
theorem issueStore_plain {rel : Bool} (plain : rel = false) (room : v.flefinRoom (l.map (fun q => (q.1.pa, w))) = true)
    (free : (v.core c.core).coal < 2 * c.vc + 2) (memory : ∀ q ∈ l, isWindow q.1.pa = false) :
    v.issueStore c w rel l = .ok ((((coalescing v c (l.map (fun q => q.1))).l1Store c.core c.slot
      (storeBytes w (l.filter (fun q => !q.1.cmp))) false).l1Store c.core c.slot (storeBytes w (l.filter (fun q => q.1.cmp))) true).advance c) := by
  have noWindow : l.filter (fun q => isWindow q.1.pa) = [] := List.filter_eq_nil_iff.2 fun q hq => by simp [memory q hq]
  have allMemory : l.filter (fun q => !isWindow q.1.pa) = l := List.filter_eq_self.2 fun q hq => by simp [memory q hq]
  have packed : (not ∘ fun q : LaneAt × Word => !q.1.cmp) = fun q => q.1.cmp := by
    funext q
    exact Bool.not_not _
  simp only [State.issueStore, room, coalesce_ok free, bind, Except.bind, plain, Bool.not_true, Bool.not_false, Bool.false_eq_true, if_true, if_false,
    noWindow, allMemory, List.partition_eq_filter_filter, packed, List.foldl_nil]

/-- A store with no lane to take only advances its path; one whose lanes pass the checks is issued with the data of its lanes. -/
theorem storeOp_issuing (h : Issuing s c)
    (operands : c.begin s (if a = .scalar then none else some (c.guard f.g)) (a.ops f ++ [src]) = .ok u) :
    let lanes := c.accessLanes f.g a
    let es := lanes.map (fun l => (l, c.ea f a l))
    (lanes = [] → storeOp s f a data src = c.done (u.advance c)) ∧
    (lanes ≠ [] → (∀ q ∈ es, q.2.toNat % widBytes f.wid.toNat = 0) → (u.core c.core).bstage = .idle →
      (if mWide f 2 then c.releaseReady u (decide (f.scope = 5)) else .ok u) = .ok u1 →
      u1.locateLanes c.core 0 (c.acc u1 f.dom.toNat) 1 es = (r, v) → r.miss = false → r.bad = [] → ∀ t,
      v.issueStore c (widBytes f.wid.toNat) (mWide f 2) (r.ok.map (fun q => (q, data c q.lane))) = .ok t →
      storeOp s f a data src = c.done t) := by
  refine ⟨fun idle => run_ok h ?_, fun some_ aligned ready released located here good t issued => run_ok h ?_⟩
  · simp only [operands, bind, Except.bind, idle, List.isEmpty_nil, if_true]
  · have any : (c.accessLanes f.g a).isEmpty = false := List.isEmpty_eq_false_iff.2 some_
    cases rel : mWide f 2
    all_goals simp only [rel, if_true, Bool.false_eq_true, if_false] at released issued
    · obtain rfl := Except.ok.inj released
      simp only [operands, bind, Except.bind, any, alignCheck_ok aligned, noBoundary_ok ready, located_ok located here, good, issued,
        List.isEmpty_nil, if_true, Bool.false_eq_true, if_false]
    · simp only [operands, bind, Except.bind, any, alignCheck_ok aligned, noBoundary_ok ready, released, located_ok located here, good,
        issued, List.isEmpty_nil, if_true, Bool.false_eq_true, if_false]

end

/-- The clauses of a store form: with no lane the path only advances; with lanes that pass the checks, and room, the store is issued; without a
release, to memory, its bytes are in the L1. -/
theorem storeOp_results {s u u1 v : State} {c : Ctx} {f : FmtM} {a : Addr} {data : Ctx → Nat → Word} {src : Opnd} {r : Located}
    (h : Issuing s c) (operands : c.begin s (if a = .scalar then none else some (c.guard f.g)) (a.ops f ++ [src]) = .ok u) :
    let w := widBytes f.wid.toNat
    let lanes := c.accessLanes f.g a
    let es := lanes.map (fun l => (l, c.ea f a l))
    let l := r.ok.map (fun q => (q, data c q.lane))
    (lanes = [] → storeOp s f a data src = c.done (u.advance c)) ∧
    (lanes ≠ [] → (∀ q ∈ es, q.2.toNat % w = 0) → (u.core c.core).bstage = .idle →
      (if mWide f 2 then c.releaseReady u (decide (f.scope = 5)) else .ok u) = .ok u1 →
      u1.locateLanes c.core 0 (c.acc u1 f.dom.toNat) 1 es = (r, v) → r.miss = false → r.bad = [] →
      v.flefinRoom (r.ok.map (fun q => (q.pa, w))) = true → (v.core c.core).coal < 2 * c.vc + 2 →
      (∃ t, v.issueStore c w (mWide f 2) l = .ok t ∧ storeOp s f a data src = c.done t) ∧
      (mWide f 2 = false → (∀ q ∈ r.ok, isWindow q.pa = false) →
        storeOp s f a data src = c.done ((((coalescing v c r.ok).l1Store c.core c.slot (storeBytes w (l.filter (fun q => !q.1.cmp))) false).l1Store
          c.core c.slot (storeBytes w (l.filter (fun q => q.1.cmp))) true).advance c))) := by
  obtain ⟨idle, issuing⟩ := storeOp_issuing (data := data) h operands
  refine ⟨idle, fun some_ aligned ready released located here good room free => ?_⟩
  have issue := issuing some_ aligned ready released located here good
  have lanes : (r.ok.map (fun q => (q, data c q.lane))).map (fun q => q.1) = r.ok := by
    rw [List.map_map]
    exact List.map_id r.ok
  have room' : v.flefinRoom ((r.ok.map (fun q => (q, data c q.lane))).map (fun q => (q.1.pa, widBytes f.wid.toNat))) = true := by
    rw [List.map_map]
    exact room
  refine ⟨?_, fun plain memory => ?_⟩
  · obtain ⟨t, ht⟩ := issueStore_ok (rel := mWide f 2) room' free
    exact ⟨t, ht, issue t ht⟩
  · have written := issueStore_plain plain room' free (fun q hq => by obtain ⟨x, hx, rfl⟩ := List.mem_map.1 hq; exact memory x hx)
    rw [lanes] at written
    exact issue _ written

/-- Settles O20: one shape of store at each form's addresses, issued by `issueStore_ok`, without a release to memory by `issueStore_plain`. -/
theorem storeResults : Obligations.StoreResults := by
  intro s u u1 v c f r
  refine ⟨fun h operands => ?_, fun h operands => ?_, fun h operands => ?_, fun h operands => ?_⟩
  · exact storeOp_results (a := .scalar) (data := fun c _ => c.xv f.t) (src := .xs f.t 32 1) h operands
  · exact storeOp_results (a := .unit) (data := mData f) (src := mSrc f) h operands
  · exact storeOp_results (a := .gather) (data := mData f) (src := mSrc f) h operands
  · exact storeOp_results (a := .strided) (data := mData f) (src := mSrc f) h operands

end Sys2Proof.Proofs
end

section
/-!
PROOFS. Atomics (R238 to R240, R266, R267).
-/

namespace Sys2Proof.Proofs

open Sys2Proof Sys2Proof.Machine

/-- The lanes of an atomic at their homes, as operand and new value have them (R238, R239). -/
def atomLanesOf (w : Nat) (a b : Nat → Word) (l : List LaneAt) : List AtomLane :=
  let cut := fun (x : Word) => if w = 8 then x else (x.setWidth 32).setWidth 64
  l.map (fun q => { lane := q.lane, pa := q.pa, cmp := q.cmp, a := cut (a q.lane), b := cut (b q.lane) })

/-- A word that an atomic would read poisoned: in the L1 where it is performed there and the L1 has it, else at its home (R243). -/
def poisonedAt (v : State) (c : Ctx) (near : Bool) (q : LaneAt) : Bool :=
  !isWindow q.pa && (if near && ((v.core c.core).l1Byte q.pa).isSome then (v.core c.core).l1Bad q.pa else v.homeBad q.pa q.cmp)

/-- The line requests of an atomic's lanes, as the coalescer takes them. -/
def atomRequests (l : List AtomLane) : List LaneAt := l.map (fun q => { lane := q.lane, off := 0, pa := q.pa, cmp := q.cmp })

section
variable {s u u1 v : State} {c : Ctx} {f : FmtN} {dest : Dest} {cas : Bool} {l : List AtomLane}

/-- No lane of an atomic below die scope has an atomic of its core under way at the home on its line: the L1 can perform it (R240). -/
def Undisturbed (v : State) (c : Ctx) (f : FmtN) (l : List AtomLane) : Prop :=
  f.scope.toNat < 3 → ∀ q ∈ l, (v.core c.core).atomicOn (lineOf q.pa) (v.core c.core).nextId = false

theorem Undisturbed.any_eq_false (clear : Undisturbed v c f l) :
    (decide (f.scope.toNat < 3) && l.any (fun q => (v.core c.core).atomicOn (lineOf q.pa) (v.core c.core).nextId)) = false := by
  rw [Bool.and_eq_false_imp, decide_eq_true_eq]
  intro near
  rw [List.any_eq_false]
  intro q hq
  rw [clear near q hq]
  exact Bool.false_ne_true

/-- An atomic that finds room is issued, to the L1, a window or the home. -/
theorem issueAtomic_ok (clear : Undisturbed v c f l) (room : v.flefinRoom (l.map (fun q => (q.pa, 64))) = true)
    (free : (v.core c.core).coal < 2 * c.vc + 2) : ∃ t, v.issueAtomic c f dest cas l = .ok t := by
  simp only [State.issueAtomic, clear.any_eq_false, room, coalesce_ok free, bind, Except.bind, Bool.not_true, Bool.or_self, Bool.false_eq_true,
    if_false]
  split
  · exact ⟨_, rfl⟩
  · split <;> exact ⟨_, rfl⟩

/-- Below die scope an atomic on memory is performed at issue in the L1, its old values on their way to the destination (R239). -/
theorem issueAtomic_near (clear : Undisturbed v c f l) (room : v.flefinRoom (l.map (fun q => (q.pa, 64))) = true)
    (free : (v.core c.core).coal < 2 * c.vc + 2) (near : f.scope.toNat < 3) (memory : ∀ q ∈ l, isWindow q.pa = false) :
    let o := (coalescing v c (atomRequests l)).atomLanes c.core c.slot true (f.aop.toNat % 8) (decide (8 ≤ f.aop.toNat)) cas l
    v.issueAtomic c f dest cas l = .ok ((o.2.startLong c dest (maskOf (l.map (fun q => q.lane))) (.done (destWrites dest o.1) 0)
      (delay := (coalesced v c (atomRequests l) - 1) / 2 - c.vc)).advance c) := by
  have noWindow : l.any (fun q => isWindow q.pa) = false := List.any_eq_false.2 fun q hq => by simp [memory q hq]
  simp only [State.issueAtomic, clear.any_eq_false, room, coalesce_ok free, bind, Except.bind, Bool.not_true, Bool.or_self, Bool.false_eq_true,
    if_false, noWindow]
  simp only [near, decide_true, if_true]
  rfl

end

section
variable {s u u1 v : State} {c : Ctx} {f : FmtN} {vec cas : Bool} {ea a b : Ctx → Nat → Word} {srcs : List Opnd} {dest : Ctx → Dest}
  {dop : Opnd} {r : Located} {av bv : Nat → Word}

/-- The lanes of an atomic: the guarded active lanes, or for a scalar form the lowest active lane once. -/
def atomOwn (c : Ctx) (f : FmtN) (vec : Bool) : List Nat :=
  if vec then lanesOf (c.guardN f.g) else if c.onN f.g then [lowestLane c.p.mask] else []

/-- An atomic with no lane to take only advances its path; one whose lanes pass the checks is issued. -/
theorem atomicOp_issuing (h : Issuing s c) (operands : c.begin s (if vec then some (c.guardN f.g) else none) (srcs ++ [dop]) = .ok u) :
    let w := if 8 ≤ f.aop.toNat then 8 else 4
    let es := (atomOwn c f vec).map (fun l => (l, ea c l))
    (atomOwn c f vec = [] → atomicOp s f vec cas ea a b srcs dest dop = c.done (u.advance c)) ∧
    (atomOwn c f vec ≠ [] → (∀ q ∈ es, q.2.toNat % w = 0) → (u.core c.core).bstage = .idle →
      (if 2 ≤ f.ord.toNat ∧ 3 ≤ f.scope.toNat then c.releaseReady u (decide (f.scope = 5)) else .ok u) = .ok u1 →
      u1.locateLanes c.core 0 (c.acc u1 f.dom.toNat) 2 es = (r, v) → r.miss = false → r.bad = [] →
      (∀ q ∈ r.ok, poisonedAt v c (decide (f.scope.toNat < 3)) q = false) → ∀ t,
      v.issueAtomic c f (dest c) cas (atomLanesOf w (a c) (b c) r.ok) = .ok t → atomicOp s f vec cas ea a b srcs dest dop = c.done t) := by
  intro w es
  refine ⟨fun idle => run_ok h ?_, fun some_ aligned ready released located here good sound t issued => run_ok h ?_⟩
  · rw [atomOwn] at idle
    simp only [operands, bind, Except.bind, idle, List.isEmpty_nil, if_true]
  · have any : (atomOwn c f vec).isEmpty = false := List.isEmpty_eq_false_iff.2 some_
    have checked : alignCheck (if vec then some (c.guardN f.g) else none) w es = .ok () := alignCheck_ok aligned
    have clean : r.ok.find? (fun q => poisonedAt v c (decide (f.scope.toNat < 3)) q) = none :=
      List.find?_eq_none.2 fun q hq => by rw [sound q hq]; exact Bool.false_ne_true
    rw [atomOwn] at any
    simp only [atomOwn, w, es] at checked located
    simp only [poisonedAt] at clean
    simp only [atomLanesOf, w] at issued
    by_cases rel : 2 ≤ f.ord.toNat ∧ 3 ≤ f.scope.toNat
    · rw [if_pos rel] at released
      simp only [operands, bind, Except.bind, any, checked, noBoundary_ok ready, if_pos rel, released, located_ok located here, good, clean,
        List.isEmpty_nil, Bool.not_true, Bool.false_eq_true, if_false]
      exact issued
    · rw [if_neg rel] at released
      obtain rfl := Except.ok.inj released
      simp only [operands, bind, Except.bind, any, checked, noBoundary_ok ready, if_neg rel, located_ok located here, good, clean,
        List.isEmpty_nil, Bool.not_true, Bool.false_eq_true, if_false]
      exact issued

/-- The clauses of an atomic form: with no lane the path only advances; with lanes that pass the checks, and room, it is issued; below die scope, on
memory, it is performed in the L1. -/
theorem atomicOp_results (ha : a c = av) (hb : b c = bv) (h : Issuing s c)
    (operands : c.begin s (if vec then some (c.guardN f.g) else none) (srcs ++ [dop]) = .ok u) :
    let w := if 8 ≤ f.aop.toNat then 8 else 4
    let near := decide (f.scope.toNat < 3)
    let es := (atomOwn c f vec).map (fun l => (l, ea c l))
    let l := atomLanesOf w av bv r.ok
    let last := max (v.core c.core).coal (2 * c.vc) + requests (r.ok.map (fun q => { q with off := 0 }))
    let v0 := v.modCore c.core (fun k => { k with coal := last })
    (atomOwn c f vec = [] → atomicOp s f vec cas ea a b srcs dest dop = c.done (u.advance c)) ∧
    (atomOwn c f vec ≠ [] → (∀ q ∈ es, q.2.toNat % w = 0) → (u.core c.core).bstage = .idle →
      (if 2 ≤ f.ord.toNat ∧ 3 ≤ f.scope.toNat then c.releaseReady u (decide (f.scope = 5)) else .ok u) = .ok u1 →
      u1.locateLanes c.core 0 (c.acc u1 f.dom.toNat) 2 es = (r, v) → r.miss = false → r.bad = [] →
      (∀ q ∈ r.ok, poisonedAt v c near q = false) →
      v.flefinRoom (r.ok.map (fun q => (q.pa, 64))) = true → (v.core c.core).coal < 2 * c.vc + 2 →
      (near = true → ∀ q ∈ r.ok, (v.core c.core).atomicOn (lineOf q.pa) (v.core c.core).nextId = false) →
      (∃ t, v.issueAtomic c f (dest c) cas l = .ok t ∧ atomicOp s f vec cas ea a b srcs dest dop = c.done t) ∧
      (near = true → (∀ q ∈ r.ok, isWindow q.pa = false) →
        let o := v0.atomLanes c.core c.slot true (f.aop.toNat % 8) (decide (8 ≤ f.aop.toNat)) cas l
        atomicOp s f vec cas ea a b srcs dest dop = c.done ((o.2.startLong c (dest c) (maskOf (l.map (fun q => q.lane)))
          (.done (destWrites (dest c) o.1) 0) (delay := (last - 1) / 2 - c.vc)).advance c))) := by
  subst ha hb
  intro w near es l last v0
  obtain ⟨idle, issuing⟩ := atomicOp_issuing (cas := cas) (ea := ea) (a := a) (b := b) (dest := dest) h operands
  refine ⟨idle, fun some_ aligned ready released located here good sound room free alone => ?_⟩
  have issue := issuing some_ aligned ready released located here good sound
  have onLanes : ∀ {p : AtomLane → Prop}, (∀ q ∈ r.ok, ∀ x y, p { lane := q.lane, pa := q.pa, cmp := q.cmp, a := x, b := y }) →
      ∀ q ∈ l, p q := by
    intro p hp q hq
    obtain ⟨x, hx, rfl⟩ := List.mem_map.1 hq
    exact hp x hx _ _
  have clear : Undisturbed v c f l := fun hn => onLanes fun q hq _ _ => alone (decide_eq_true hn) q hq
  have room' : v.flefinRoom (l.map (fun q => (q.pa, 64))) = true := by
    have asked : l.map (fun q => (q.pa, 64)) = r.ok.map (fun q => (q.pa, 64)) := List.map_map
    rw [asked]
    exact room
  refine ⟨?_, fun hn memory => ?_⟩
  · obtain ⟨t, ht⟩ := issueAtomic_ok clear room' free
    exact ⟨t, ht, issue t ht⟩
  · have performed := issueAtomic_near (dest := dest c) (cas := cas) clear room' free (of_decide_eq_true hn) (onLanes fun q hq _ _ => memory q hq)
    have asked : atomRequests l = r.ok.map (fun q => { q with off := 0 }) := List.map_map
    rw [asked, coalescing, coalesced] at performed
    exact issue _ performed

end

/-- A vector operand of an atomic: a register, or for 64 bits a pair. -/
theorem nVal_eq (f : FmtN) (k : Nat) (c : Ctx) : nVal f k c = fun l =>
    if decide (8 ≤ f.aop.toNat) then c.vv2 (f.s + BitVec.ofNat 8 (2 * k)) l else (c.vv (f.s + BitVec.ofNat 8 k) l).setWidth 64 := by
  funext l
  by_cases wide : 8 ≤ f.aop.toNat <;> simp [nVal, nWide, wide]

/-- Settles O23: one shape of atomic for its four forms, scalar and per lane, read-modify-write and compare-and-swap. -/
theorem atomicResults : Obligations.AtomicResults := by
  intro s u u1 v c f r
  refine ⟨fun h operands => ?_, fun h operands => ?_, fun h operands => ?_, fun h operands => ?_⟩
  · have results := atomicOp_results (u1 := u1) (v := v) (f := f) (r := r) (vec := false) (cas := false) (ea := fun c _ => c.xv f.b)
      (a := fun c _ => c.xv f.s) (b := fun _ _ => 0) (srcs := [.xs f.b 24 1, .xs f.s 16 1]) (dest := nDest f) (dop := .xd f.d)
      rfl rfl h operands
    exact results
  · have results := atomicOp_results (u1 := u1) (v := v) (r := r) (vec := true) (cas := false) (ea := fun c l => c.vv2 f.b l)
      (b := fun _ _ => 0) (srcs := [.vs f.b 24 2 3, .vs f.s 16 (if nWide f then 2 else 1) 3]) (dest := nVdest f)
      (dop := .vd f.d (if nWide f then 2 else 1)) (nVal_eq f 0 c) rfl h operands
    exact results
  · have results := atomicOp_results (u1 := u1) (v := v) (f := f) (r := r) (vec := false) (cas := true) (ea := fun c _ => c.xv f.b)
      (a := fun c _ => c.xv f.s) (b := fun c _ => c.w.xr (opIdx f.s + 1)) (srcs := [.xs f.b 24 1, .xs f.s 16 2]) (dest := nDest f)
      (dop := .xd f.d) rfl rfl h operands
    exact results
  · have results := atomicOp_results (u1 := u1) (v := v) (r := r) (vec := true) (cas := true) (ea := fun c l => c.vv2 f.b l)
      (srcs := [.vs f.b 24 2 3, .vs f.s 16 (if nWide f then 4 else 2) 3]) (dest := nVdest f)
      (dop := .vd f.d (if nWide f then 2 else 1)) (nVal_eq f 0 c) (nVal_eq f 1 c) h operands
    exact results

end Sys2Proof.Proofs
end

section
/-!
PROOFS. Prefetches, fences and waits on memory (R237, R265 to R268, R275 to R277), and the memory that reset leaves (R225, R308).
-/

namespace Sys2Proof.Proofs

open Sys2Proof Sys2Proof.Machine

section
variable {s u v : State} {c : Ctx} {f : FmtM}

/-! ### dprf (R237) -/

/-- A prefetch with a failing guard, or of an address that would fault, only advances its path. -/
theorem dprf_dropped (h : Ready s c none [.xs f.b 24 1] u)
    (dropped : c.on f.g = false ∨ u.prefetchAt (c.acc u f.dom.toNat) (c.xv f.b + f.off.signExtend 64) = none) :
    exec (.dprf f) s = c.done (u.advance c) := by
  rw [exec_dprf, execDprf]
  refine run_ok h.toIssuing ?_
  cases on : c.on f.g with
  | false => simp only [h.operands, bind, Except.bind, Bool.not_false, if_true]
  | true =>
    have nothing := dropped.resolve_left (fun off => Bool.false_ne_true (off.symm.trans on))
    simp only [h.operands, bind, Except.bind, nothing, Bool.not_true, Bool.false_eq_true, if_false]

/-- The line of a prefetch is requested into the L1, or filled into its home's system cache. -/
theorem dprf_fetches (h : Ready s c none [.xs f.b 24 1] u) {pa : Nat} {cmp : Bool} (on : c.on f.g = true)
    (found : u.prefetchAt (c.acc u f.dom.toNat) (c.xv f.b + f.off.signExtend 64) = some (pa, cmp)) :
    let vf := (c.acc u f.dom.toNat).vf
    let t := u.scRead (lineOf pa) (if c.svc then 0 else teamClass vf) (if c.svc then none else some vf) cmp
    let t1 := if ((t.core c.core).l1Line (lineOf pa)).isNone then t.l1Miss c.core c.slot (lineOf pa) else t
    exec (.dprf f) s = c.done ((if f.wid = 0 then t1.modCore c.core (fun k =>
      { k with reqs := k.reqs ++ [{ line := lineOf pa, slot := c.slot, cmp := cmp }] }) else t).advance c) := by
  rw [exec_dprf, execDprf]
  refine run_ok h.toIssuing ?_
  cases svc : c.svc
  all_goals
    simp only [h.operands, bind, Except.bind, on, found, Bool.not_true, Bool.false_eq_true, if_true, if_false]
    split <;> rfl

/-! ### fence (R268, R276) -/

/-- A fence with a failing guard, or narrower than die scope, retires at issue. -/
theorem fence_retires (h : Issuing s c) (narrow : c.on f.g = false ∨ f.scope.toNat < 3) : exec (.fence f) s = c.done (s.advance c) := by
  rw [exec_fence, execFence]
  have retires : (!c.on f.g) = true ∨ f.scope.toNat < 3 := narrow.imp_left (fun off => by rw [off]; rfl)
  exact run_ok h (if_pos retires)

section
variable (h : Issuing s c) (on : c.on f.g = true) (wide : 3 ≤ f.scope.toNat) (ready : (s.core c.core).bstage = .idle)
include h on wide ready

/-- An acquire fence drops the clean bytes of the L1. -/
theorem fence_acquires (acquire : f.ord = 1) :
    exec (.fence f) s = c.done ((s.modCore c.core (fun k => k.dropClean (fun _ => true))).advance c) := by
  rw [exec_fence, execFence]
  refine run_ok h ?_
  simp only [on, Bool.not_true, Bool.false_eq_true, false_or, Nat.not_lt.2 wide, if_false, noBoundary_ok ready, bind, Except.bind, acquire, if_true]

/-- A fence that releases starts the write-back of every dirty line, and waits for those in flight where there are any. -/
theorem fence_releases (release : f.ord ≠ 1) (checked : c.releaseReady s (decide (f.scope = 5)) = .ok u) :
    let t := (u.writeBack c.core (fun _ => true)).2
    let ids := (t.core c.core).wbIds
    exec (.fence f) s = c.done (if ids.isEmpty then
        (if f.ord = 2 then t else t.modCore c.core (fun k => k.dropClean (fun _ => true))).advance c
      else (t.advance c).park c (.order ids (decide (f.ord ≠ 2)) false)) := by
  rw [exec_fence, execFence]
  refine run_ok h ?_
  simp only [on, Bool.not_true, Bool.false_eq_true, false_or, Nat.not_lt.2 wide, if_false, noBoundary_ok ready, bind, Except.bind, release, checked,
    decide_eq_true_eq, ne_eq, ite_not]
  split <;> rfl

end

/-! ### mwait (R275, R277) -/

/-- The offset that an `mwait` names. -/
def mwaitOff (c : Ctx) (f : FmtM) : Word := c.xv f.b + mDisp f

/-- The wait of an `mwait` whose word is at `q` (R275). -/
def mwaitOf (c : Ctx) (f : FmtM) (q : LaneAt) : MWait :=
  { pa := q.pa, cmp := q.cmp, w := widBytes f.wid.toNat, cond := (c.w.xr (opIdx f.t + 1)).toNat, val := c.xv f.t, acq := decide (f.ord = 1),
    home := decide (3 ≤ f.scope.toNat) }

/-- An `mwait` with a failing guard only advances its path. -/
theorem mwait_idle (h : Ready s c none [.xs f.b 24 1, .xs f.t 32 2] u) (off : c.on f.g = false) : exec (.mwait f) s = c.done (u.advance c) := by
  rw [exec_mwait, execMwait]
  refine run_ok h.toIssuing ?_
  simp only [h.operands, bind, Except.bind, off, Bool.not_false, if_true]

section
variable {r : Located} {q : LaneAt} {l : List LaneAt} (h : Ready s c none [.xs f.b 24 1, .xs f.t 32 2] u) (on : c.on f.g = true)
  (aligned : (mwaitOff c f).toNat % widBytes f.wid.toNat = 0) (valid : (c.w.xr (opIdx f.t + 1)).toNat < 8)
  (ready : (u.core c.core).bstage = .idle)
  (located : u.locateLanes c.core 0 (c.acc u f.dom.toNat) 0 [(lowestLane c.p.mask, mwaitOff c f)] = (r, v)) (here : r.miss = false)
  (found : r.ok = q :: l)
include h on aligned valid ready located here found

/-- An `mwait` on a window asks the link. -/
theorem mwait_window (window : isWindow q.pa = true) {t : State}
    (asked : v.mwaitLink c (mwaitOff c f) f.wid.toNat (mwaitOf c f q) = .ok t) : exec (.mwait f) s = c.done t := by
  rw [exec_mwait, execMwait]
  refine run_ok h.toIssuing ?_
  have checked : alignCheck none (widBytes f.wid.toNat) [(lowestLane c.p.mask, mwaitOff c f)] = .ok () :=
    alignCheck_ok (List.forall_mem_singleton.2 aligned)
  have lanes := located_ok located here
  rw [mwaitOff] at checked lanes asked
  simp only [h.operands, bind, Except.bind, on, Bool.not_true, Bool.false_eq_true, if_false, checked, noBoundary_ok ready, lanes, found,
    Nat.not_le.2 valid, window, if_true]
  exact asked

/-- An `mwait` on memory reads its word: where it meets the condition the path goes on, else it waits on the word, with a line monitor unless
its home has none left. -/
theorem mwait_memory (memory : isWindow q.pa = false) (alone : (v.core c.core).atomicOn (lineOf q.pa) (v.core c.core).nextId = false)
    (sound : v.mwaitBad c.core (mwaitOf c f q) = false) :
    let m := mwaitOf c f q
    let o := v.mwaitRead c.core c.slot m
    (m.met o.1 = true → exec (.mwait f) s = c.done (o.2.mwaitEnd c.core c.slot c.p.id m)) ∧
    let poll := if m.home && decide (4096 ≤ o.2.monitorsHeld (o.2.homeDie q.pa)) then some (o.2.pollAt c.core o.2.pkg.now) else none
    (m.met o.1 = false → exec (.mwait f) s = c.done (o.2.park c (.mwait { m with poll := poll }))) := by
  intro m o
  have checked : alignCheck none (widBytes f.wid.toNat) [(lowestLane c.p.mask, mwaitOff c f)] = .ok () :=
    alignCheck_ok (List.forall_mem_singleton.2 aligned)
  have lanes := located_ok located here
  rw [mwaitOff] at checked lanes
  rw [exec_mwait, execMwait]
  refine ⟨fun met => run_ok h.toIssuing ?_, fun unmet => run_ok h.toIssuing ?_⟩
  all_goals
    simp only [m, o, mwaitOf] at *
    simp only [h.operands, bind, Except.bind, on, Bool.not_true, Bool.false_eq_true, if_false, checked, noBoundary_ok ready, lanes, found,
      Nat.not_le.2 valid, memory, alone, sound]
  · simp only [met, if_true]
  · simp only [unmet, Bool.false_eq_true, if_false]

end

end

/-- The read of an `mwait` at a Flefin peer is a transaction that the path waits for. -/
theorem mwaitLink_flefin {v : State} {c : Ctx} {off : Word} {wid : Nat} {m : MWait} (peer : isFlefin m.pa = true)
    (room : v.flefinRoom [(m.pa, m.w)] = true) :
    let lane := lowestLane c.p.mask
    let id := (v.core c.core).nextId
    let x : LaneLoad := { lane := lane, off := off, pa := m.pa, got := List.replicate m.w none }
    v.mwaitLink c off wid m = .ok (((v.startLong c .none (laneBit lane) (.load wid [x] false)).sendReads c.core c.slot id m.w
      [x]).park c (.mwait { m with op := some id })) := by
  simp only [State.mwaitLink, peer, room, if_true, Bool.not_true, Bool.false_eq_true, if_false]

/-- A PCIe host answers an `mwait` at once: the path goes on, or reads again later. -/
theorem mwaitLink_pcie {v : State} {c : Ctx} {off : Word} {wid : Nat} {m : MWait} (host : isFlefin m.pa = false) :
    let o := v.pcieRead m.w
    v.mwaitLink c off wid m = .ok (if m.met (BitVec.ofNat 64 (ofBytes o.1)) then o.2.mwaitEnd c.core c.slot c.p.id m
      else o.2.park c (.mwait { m with poll := some (o.2.pollAt c.core o.2.pkg.now) })) := by
  simp only [State.mwaitLink, host, Bool.false_eq_true, if_false]

/-- Settles O21: a fence by its order, an `mwait` by whether its word is in memory, at a Flefin peer or at a PCIe host. -/
theorem orderingResults : Obligations.OrderingResults := by
  intro s u c
  refine ⟨fun f h => ⟨dprf_dropped h, fun pa cmp => dprf_fetches h⟩,
    fun f h => ⟨fence_retires h, fun on wide ready => ⟨fence_acquires h on wide ready, fence_releases h on wide ready⟩⟩,
    fun f h => ⟨mwait_idle h, fun r v q l on aligned valid ready located here found => ⟨?_, ?_, ?_⟩⟩⟩
  · exact mwait_memory h on aligned valid ready located here found
  · intro peer window room
    exact mwait_window h on aligned valid ready located here found window (mwaitLink_flefin peer room)
  · intro host window
    exact mwait_window h on aligned valid ready located here found window (mwaitLink_pcie host)

/-! ### The memory that reset leaves (R225, R308) -/

/-- Settles O49: reset lists no byte. -/
theorem resetMemoryForm : Obligations.ResetMemoryForm := ⟨⟨rfl⟩, rfl, fun _ => rfl⟩

end Sys2Proof.Proofs
end

section
/-!
PROOFS. The queue instructions (R44 to R46, R69, R97 to R100, R247, R248, R255, R271, R272).
-/

namespace Sys2Proof.Proofs

open Sys2Proof Sys2Proof.Machine

/-! ### Pushing engine words (R46, R247, R248) -/

section
variable {s u t : State} {c : Ctx} {f : FmtA} {m : Option Mask} {w : Word}

/-- A journal with a free entry takes a command (R339). -/
theorem journalRoom_ok (room : (s.core c.core).cmds.length < 512) : c.journalRoom s = .ok () := if_neg (Nat.not_le.2 room)

/-- The command that a warp is assembling in q2. -/
def assembling (s : State) (c : Ctx) : Option Cmd :=
  (s.core c.core).cmds.find? (fun x => x.eng == 1 && x.slot == c.slot && x.stage == .partly)

/-- The header of a new command, with room for it, begins the command. -/
theorem pushWord_header (queue : (u.core c.core).queued 2 < 64) (none_ : assembling u c = none) (good : badHeader w = false)
    (journal : (u.core c.core).cmds.length < 512) (flag : c.flagRoom u (ewSig w) = true) :
    let cmd := c.newCmd 1 (ewSig w) (.copy [w] ((List.range 8).map (fun i => (c.w.dr i).toNat)))
    c.pushWord m u w = .ok ((c.flagged u (ewSig w)).addCmd c.core { cmd with stage := .partly, wait := ewWait w, once := ewOnce w }) := by
  rw [assembling] at none_
  simp only [Ctx.pushWord, if_neg (Nat.not_le.2 queue), none_, good, Bool.false_eq_true, if_false, journalRoom_ok journal, flagInc_ok flag, bind,
    Except.bind]

/-- A command with the words `ws`, the last of them `w`: the first argument says whether it posts a record and commits, the last one queues it. -/
def withArgument (ws : List Word) (w : Word) (first : Prop) [Decidable first] (whole : Bool) (y : Cmd) : Cmd :=
  { y with
    pay := (match y.pay with | .copy _ d => .copy ws d | p => p),
    rec_ := if first then bit w 6 else y.rec_, comm := if first then bit w 7 else y.comm,
    stage := if whole then .queued else .partly }

/-- A word after the header is the command's next argument; the last one puts the command behind those in its engine. -/
theorem pushWord_argument {x : Cmd} {h : Word} {l : List Word} (queue : (u.core c.core).queued 2 < 64) (some_ : assembling u c = some x)
    (words : x.words = h :: l) (record : l = [] → bit w 6 = true → (u.core c.core).popUsed 3 < 64) :
    let whole := decide ((l ++ [w]).length = ewNarg h)
    let t := u.modCmd c.core x.seq (withArgument (x.words ++ [w]) w (l = []) whole)
    c.pushWord m u w = .ok (if whole then t.modCore c.core (fun k => k.cmdLast x.seq) else t) := by
  rw [assembling] at some_
  have first : decide ((h :: l).length = 1) = decide (l = []) := by simp
  have recorded : (decide (l = []) && bit w 6 && decide (64 ≤ (u.core c.core).popUsed 3)) = false := by
    by_cases fst : l = []
    · cases hb : bit w 6
      · simp
      · simpa [fst] using record fst hb
    · simp [fst]
  simp only [Ctx.pushWord, if_neg (Nat.not_le.2 queue), some_, words, first, recorded, Bool.false_eq_true, if_false, List.cons_append,
    decide_eq_true_eq (p := l = [])]
  rfl

/-- Words that can all be pushed are. -/
theorem pushAll_ok {l : List Word} (pushed : c.pushWords m u l = .ok t) : c.pushAll m u l = .ok t := by
  rw [Ctx.pushAll, pushed]

/-! ### Whole commands (R69, R255) -/

/-- `cpy` and `cpyz` with a failing guard only advance their path. -/
theorem cpyOp_off (h : Ready s c none [.xs f.s1 24 1] u) (off : c.on f.g = false) (ops : List Nat) : cpyOp s f ops = c.done (u.advance c) := by
  refine run_ok h.toIssuing ?_
  simp only [h.operands, bind, Except.bind, off, Bool.not_false, if_true]

/-- `cpy` and `cpyz` push a whole command from consecutive registers. -/
theorem cpyOp_pushes (h : Ready s c none [.xs f.s1 24 1] u) {ops : List Nat} {v : State} (on : c.on f.g = true)
    (good : badHeader (c.xv f.s1) = false) (op : ewOp (c.xv f.s1) ∈ ops) (inside : opIdx f.s1 + ewNarg (c.xv f.s1) ≤ 63)
    (operands : c.begin u none [.xs f.s1 24 (ewNarg (c.xv f.s1) + 1)] = .ok v)
    (pushed : c.pushWords none v ((List.range (ewNarg (c.xv f.s1) + 1)).map (fun j => c.w.xr (opIdx f.s1 + j))) = .ok t) :
    cpyOp s f ops = c.done (t.advance c) := by
  refine run_ok h.toIssuing ?_
  have passes : (badHeader (c.xv f.s1) || !ops.contains (ewOp (c.xv f.s1)) || decide (63 < opIdx f.s1 + ewNarg (c.xv f.s1))) = false := by
    simp [good, op, inside]
  simp only [h.operands, bind, Except.bind, on, Bool.not_true, Bool.false_eq_true, if_false, passes, operands, pushAll_ok pushed]

/-- A query at an aligned address inside the team's scratchpad is pushed where queue, journal and flag have room. -/
theorem wdq_pushes (h : Ready s c none [.xs f.s1 24 1] u) {tm : Team} (on : c.on f.g = true) (team : u.teamOf c.w = some tm)
    (aligned : (c.xv f.s1).toNat % 8 = 0) (inside : (c.xv f.s1).toNat + 8 ≤ tm.spb) (queue : (u.core c.core).queued 6 < 16)
    (journal : (u.core c.core).cmds.length < 512) (flag : c.flagRoom u (sigOf f.s3) = true) :
    exec (.wdq f) s = c.done (((c.flagged u (sigOf f.s3)).addCmd c.core (c.newCmd 3 (sigOf f.s3) (.query (c.xv f.s1).toNat))).advance c) := by
  refine scalarDo_on h on ?_
  have room : ¬ queueCap 6 ≤ (u.core c.core).queued 6 := Nat.not_le.2 queue
  simp only [aligned, ne_eq, not_true_eq_false, if_false, team, if_neg (Nat.not_lt.2 inside), if_neg room, journalRoom_ok journal,
    flagInc_ok flag, bind, Except.bind]

/-! ### Records (R247) -/

/-- `qpop` removes the oldest record that the warp sees, and gives its word. -/
theorem qpop_pops (h : Ready s c none [.xd f.d] u) (on : c.on f.g = true) {r : PopRec} {l : List PopRec}
    (seen : (u.core c.core).popsOf (opIdx f.s1) c.slot = r :: l) :
    let t := u.modCore c.core (fun k => k.pop (opIdx f.s1) c.slot 1)
    exec (.qpop f) s = c.done ((if opIdx f.d = 0 then t else t.startLong c (.x (opIdx f.d)) (laneBit (lowestLane c.p.mask))
      (.done [.x (opIdx f.d) r.word] 0)).advance c) := by
  refine scalarDo_on h on ?_
  simp only [seen]
  split <;> rfl

/-- `qpopv` does so for each lane, ascending, where there are records for all. -/
theorem qpopv_pops (h : Ready s c (some (c.guard f.g)) [.vd f.d 2] u) :
    let q := opIdx f.s1
    let k := u.core c.core
    let n := (lanesOf (c.guard f.g)).length
    (n = 0 → exec (.qpopv f) s = c.done (u.advance c)) ∧
    (n ≠ 0 → n ≤ (k.popsOf q c.slot).length →
      let regs := c.dregs f.d true
      exec (.qpopv f) s = c.done (((u.modCore c.core (fun k => k.pop q c.slot n)).startLong c (.v regs) (c.guard f.g)
        (.done (laneWrites regs ((lanesOf (c.guard f.g)).zip (((k.popsOf q c.slot).take n).map (fun r => r.word.toNat)))) 0)).advance c)) := by
  intro q k n
  rw [exec_qpopv, execQpopv]
  refine ⟨fun idle => run_ok h.toIssuing ?_, fun some_ enough => run_ok h.toIssuing ?_⟩
  · have idle' : (lanesOf (c.guard f.g)).length = 0 := idle
    simp only [h.operands, bind, Except.bind, idle', if_true]
  · have few : ¬ ((k.popsOf q c.slot).take n).length < n := by
      rw [List.length_take_of_le enough]
      exact Nat.lt_irrefl n
    simp only [h.operands, bind, Except.bind]
    rw [if_neg some_, if_neg few]

/-! ### Markers (R271, R272) -/

/-- Named queues with room each take a marker. -/
theorem mfence_marks {fi : FmtI} (h : Ready s c none [] u) (on : c.on fi.g = true) :
    let qs := idxs 4 (fun i => fi.imm.getLsbD i)
    (∀ b ∈ qs, (u.core c.core).queued (2 * b) < queueCap (2 * b)) →
    exec (.mfence fi) s = c.done ((u.modCore c.core (fun k => qs.foldl (fun k b => k.pushMarker c.slot b) k)).advance c) := by
  intro qs room
  have free : qs.any (fun b => decide (queueCap (2 * b) ≤ (u.core c.core).queued (2 * b))) = false :=
    List.any_eq_false.2 fun b hb => by simpa using room b hb
  refine scalarDo_on h on ?_
  exact if_neg (by rw [free]; exact Bool.false_ne_true)

/-- Markers that have all arrived are joined, the commands that they cover marked. -/
theorem mjoin_joins (h : Ready s c none [] u) (on : c.on f.g = true) :
    let mine := (u.core c.core).markers.filter (fun m => m.slot == c.slot)
    (∀ m ∈ mine, m.arrived = true) →
    exec (.mjoin f) s = c.done ((((mine.flatMap (fun m => m.covers)).foldl
      (fun s q => s.modCmd c.core q (fun x => { x with mark := true })) u).modCore c.core
        (fun k => { k with markers := k.markers.filter (fun m => m.slot != c.slot) })).advance c) := by
  intro mine arrived
  have all : mine.any (fun m => !m.arrived) = false := List.any_eq_false.2 fun m hm => by simp [arrived m hm]
  refine scalarDo_on h on ?_
  exact if_neg (by rw [all]; exact Bool.false_ne_true)

end

/-- Settles O24: each instruction under its guard, a pushed word by whether the warp is assembling a command. -/
theorem queueResults : Obligations.QueueResults := by
  intro s u c f k part q
  refine ⟨fun h => ⟨fun off => ⟨scalarDo_off h off, cpyOp_off h off _, cpyOp_off h off _, scalarDo_off h off⟩,
      fun on queue => ⟨fun none_ good journal flag => scalarDo_on h on (pushWord_header queue none_ good journal flag),
        fun x hd l some_ words record => scalarDo_on h on (pushWord_argument queue some_ words record)⟩,
      fun i ops form on good op inside v t operands pushed => ?_,
      fun t on team aligned inside queue journal flag => wdq_pushes h on team aligned inside queue journal flag⟩,
    fun h t pushed => ?_,
    fun h => ⟨fun off => ⟨scalarDo_off h off, scalarDo_off h off⟩, fun on => ⟨fun r l seen => qpop_pops h on seen, scalarDo_on h on rfl⟩⟩,
    qpopv_pops,
    fun fi h => ⟨scalarDo_off h, mfence_marks h⟩,
    fun h => ⟨scalarDo_off h, mjoin_joins h⟩⟩
  · have pushes := cpyOp_pushes h on good op inside operands pushed
    simp only [List.mem_cons, Prod.mk.injEq, List.not_mem_nil, or_false] at form
    obtain ⟨rfl, rfl⟩ | ⟨rfl, rfl⟩ := form
    · exact pushes
    · exact pushes
  · rw [exec_qpushv, execQpushv]
    refine run_ok h.toIssuing ?_
    simp only [h.operands, bind, Except.bind, pushAll_ok pushed]

end Sys2Proof.Proofs
end

section
/-!
PROOFS. Leases, remaining-time estimates and clock requests (R288, R304, R305), and the events of issue, power, clocks and rails (R280, R284,
R290, R293 to R301).
-/

namespace Sys2Proof.Proofs

open Sys2Proof Sys2Proof.Machine

/-! ### Arms of a clock request (R305) -/

section
variable {s u : State} {c : Ctx} {f : FmtA} {l : Launch}

/-- An arm of a launch that names no flag counts nowhere: only EVT is cleared. -/
theorem clkreqArm_without_flag (h : Ready s c none [] u) (on : c.on f.g = true) (launch : u.launch c.w.handle = some l)
    (none_ : l.rsig = 15) : exec (.clkreqArm f) s = c.done (((u.modWarp c.core c.slot id).clearEvt c).advance c) := by
  have uncounted : c.flagInc u l.rsig = .ok u := if_pos none_
  have unarmed : (fun w : Warp => if l.rsig = 15 then w else { w with arms := w.arms + 1 }) = id := funext fun _ => if_pos none_
  exact scalarDo_on h on (by simp only [launch, uncounted, unarmed, bind, Except.bind])

/-- An arm counts up the flag that the launch names, where it has room, and adds to the warp's arms. -/
theorem clkreqArm_with_flag (h : Ready s c none [] u) (on : c.on f.g = true) (launch : u.launch c.w.handle = some l)
    (some_ : l.rsig ≠ 15) (room : (u.warp c.core c.slot).fr l.rsig < 63) :
    exec (.clkreqArm f) s = c.done ((((u.modWarp c.core c.slot (fun w => w.fw l.rsig ((u.warp c.core c.slot).fr l.rsig + 1))).modWarp c.core
      c.slot (fun w => { w with arms := w.arms + 1 })).clearEvt c).advance c) := by
  have counted : c.flagInc u l.rsig = .ok (u.modWarp c.core c.slot (fun w => w.fw l.rsig ((u.warp c.core c.slot).fr l.rsig + 1))) :=
    (if_neg some_).trans (if_neg (Nat.not_le.2 room))
  exact scalarDo_on h on (by simp only [launch, counted, if_neg some_, bind, Except.bind])

end

/-- Settles O18: each instruction is its effect under the scalar guard rule; an arm counts on the flag that its launch names, if any. -/
theorem leaseAndClockResults : Obligations.LeaseAndClockResults := by
  intro s u c
  refine ⟨fun f h => ⟨fun on => ⟨scalarDo_on h on rfl, scalarDo_on h on rfl⟩, fun off => ⟨scalarDo_off h off, scalarDo_off h off⟩⟩,
    fun f h => ⟨fun on => scalarDo_on h on rfl, scalarDo_off h⟩,
    fun f h => ⟨fun on => scalarDo_on h on rfl, scalarDo_off h⟩,
    fun f h => ⟨fun on l launch => ⟨clkreqArm_without_flag h on launch, fun n some_ count room => ?_⟩, scalarDo_off h⟩⟩
  subst count
  exact clkreqArm_with_flag h on launch some_ room

/-! ### The events of issue and power (R280, R284, R290, R293, R294) -/

/-- Settles O37, event by event. An event without a premise is its meaning as defined; the statement writes `Cluster.halve` and
`State.modRailClusters` out. -/
theorem powerEventResults : Obligations.PowerEventResults := by
  intro s
  dsimp only
  refine ⟨rfl, fun long => ?_, rfl, rfl, rfl, rfl, ⟨fun none_ => ?_, fun some_ => ?_⟩, rfl, fun t half due => ?_⟩
  · exact congrArg Host.Outcome.next (if_neg (Nat.not_lt.2 long))
  · rw [exec_droopTrip, execDroopTrip]
    exact congrArg Host.Outcome.next (if_pos (List.isEmpty_iff.2 none_))
  · rw [exec_droopTrip, execDroopTrip]
    exact congrArg Host.Outcome.next (if_neg (mt List.isEmpty_iff.1 some_))
  · simp only [exec_quantRestore, execQuantRestore, half]
    exact congrArg Host.Outcome.next (if_pos due)

/-! ### The events of clocks and rails (R295 to R301) -/

/-- Settles O38, event by event. An event without a premise is its meaning as defined; the statement's `check` is `State.railCheck`
written out. -/
theorem grantEventResults : Obligations.GrantEventResults := by
  intro s
  dsimp only
  refine ⟨rfl, fun due => ?_, fun m v t pending => ⟨fun quiet free => ?_, fun late busy => ?_⟩, rfl, fun t relocking due => ?_, rfl⟩
  · exact congrArg Host.Outcome.next (if_pos due)
  · have ready : ¬ (!s.quiet s.ev.a || (s.cluster s.ev.a).relockUntil.isSome) = true := by simp [quiet, free]
    simp only [exec_grantApply, execGrantApply, pending, if_neg ready]
    exact ⟨fun low => congrArg Host.Outcome.next (if_pos low), fun high => congrArg Host.Outcome.next (if_neg (Nat.not_lt.2 high))⟩
  · simp only [exec_quiescenceTimeout, execQuiescenceTimeout, pending]
    exact congrArg Host.Outcome.next (if_pos ⟨late, busy⟩)
  · simp only [exec_relockComplete, execRelockComplete, relocking]
    exact congrArg Host.Outcome.next (if_neg (Nat.not_lt.2 due))

end Sys2Proof.Proofs
end

section
/-!
PROOFS. Translation maintenance, first touch, frames and way masks: the instructions of row 0xE over address spaces (R316, R321 to R323, R327,
R328, R389).
-/

namespace Sys2Proof.Proofs

open Sys2Proof Sys2Proof.Machine

/-! ### tlbinv (R316) -/

/-- The steps of R316 past the checks: what is under way is performed at once, then the translations go, with the faults that walks kept, and
the waits that they may concern restart (log 11). -/
def invalidated (c : Ctx) (i : Inv) (u : State) : State :=
  let t := ((u.writeBack c.core (fun _ => true)).2.settleAll).dropTranslations i.tlb i.wc i.walk i.restart
  let t1 := t.rewait (fun core w _ => match t.accOwner core w with | some (v, p) => i.acc v p | none => false)
  { t1 with cores := smapv {} (fun k => { k with wfaults := [] }) t1.cores }

/-- What the outcome `o` of a form of `tlbinv` is, where `who` is the VF or partition that it acts on and `what` the entries that it names:
the path advances, or the invalidation is performed in `u1` and the path advances. -/
def Invalidates (c : Ctx) (u u1 : State) (g : BitVec 5) (o : Host.Outcome State Fault Refusal) (who : Option Nat) (what : Nat → Inv) : Prop :=
  (c.on g = false ∨ who = none → o = c.done (u.advance c)) ∧
  (∀ n, c.on g = true → who = some n → c.releaseReady u false = .ok u1 → (∀ p ∈ u1.ports, p.2.txns = []) →
    o = c.done ((invalidated c (what n) u1).advance c))

section
variable {s u u1 : State} {c : Ctx} {f : FmtA} {ops : List Opnd}

/-- Once the release checks pass and no Flefin transaction is outstanding, the invalidation is performed. -/
theorem invalidate_ok (i : Inv) (release : c.releaseReady u false = .ok u1) (quiet : ∀ p ∈ u1.ports, p.2.txns = []) :
    u.invalidate c i = .ok (invalidated c i u1) := by
  have none_ : ¬ u1.ports.any (fun p => !p.2.txns.isEmpty) = true := by simpa using quiet
  unfold State.invalidate
  rw [release]
  exact if_neg none_

/-- The shape of every form: nothing happens for nobody, and for `n` the invalidation of what `n` has there. -/
theorem sysDo_invalidates {lv : Level} {g : BitVec 5} {e : Ctx → State → Try State} {who : Option Nat} {what : Nat → Inv}
    (h : ReadyAt s c lv ops u) (nobody : who = none → e c u = .ok (u.advance c))
    (somebody : ∀ n, who = some n → e c u = (do let t ← u.invalidate c (what n); .ok (t.advance c))) :
    Invalidates c u u1 g (sysDo s lv g ops e) who what := by
  obtain ⟨skips, takes⟩ := sysDo_ready (g := g) h (f := e)
  constructor
  · intro idle
    cases on : c.on g with
    | false => exact skips on
    | true => exact takes _ on (nobody (idle.resolve_left (by simp [on])))
  · intro n on owner release quiet
    exact takes _ on (by simp only [somebody n owner, invalidate_ok _ release quiet, bind, Except.bind])

/-- A supervisor form acts on the issuing VF. -/
theorem tlbinvOp_invalidates (h : ReadyAt s c .supervisor ops u) (i : Ctx → Nat → Inv) :
    Invalidates c u u1 f.g (tlbinvOp s f ops i) (c.vfOf u) (i c) :=
  sysDo_invalidates h (fun nobody => by simp only [nobody]) (fun n somebody => by simp only [somebody])

/-- A hypervisor form acts on the issuing partition. -/
theorem tlbinvHyp_invalidates (h : ReadyAt s c .hypervisor ops u) (i : Ctx → State → Nat → Inv) :
    Invalidates c u u1 f.g (tlbinvHyp s f ops i) (c.part u) (i c u) :=
  sysDo_invalidates h (fun nobody => by simp only [nobody]) (fun n somebody => by simp only [somebody])

end

/-! ### Frames, way masks and the obligation (R321 to R323, R328, R389) -/

/-- The level check of `frscrub` and `fotset` passes: a root path, or what the hypervisor's partition must meet. -/
theorem frameLevel_ok {c : Ctx} {u : State} {ok : Nat → Bool} (allowed : c.p.level = .root ∨ ∃ p, c.part u = some p ∧ ok p = true) :
    ¬ ((decide (c.p.level ≠ .root) && !(match c.part u with | some p => ok p | none => false)) = true) := by
  rcases allowed with root | ⟨p, part, passes⟩
  · simp [root]
  · simp [part, passes]

/-- The key check of `frscrub` passes: a partition's key or root's. -/
theorem scrubKey_ok {k : Nat} (key : k ≤ 19 ∨ k = 31) : (decide (19 < k) && k != 31) = false := by
  rcases key with low | root
  · simp [Nat.not_lt.2 low]
  · simp [root]

/-- A mask of 24 ways has no bit outside `ways`, each of its bits being one of them. -/
theorem no_way_outside {m : Word} {ways : Nat} (within : ∀ i < 24, m.getLsbD i = true → Nat.testBit ways i = true) :
    ¬ (List.range 24).any (fun i => m.getLsbD i && !Nat.testBit ways i) = true := by
  intro outside
  obtain ⟨i, hi, bad⟩ := List.any_eq_true.1 outside
  obtain ⟨asked, absent⟩ := Bool.and_eq_true_iff.1 bad
  simp [within i (List.mem_range.1 hi) asked] at absent

/-- Settles O26: the forms of `tlbinv` by their shape, each other instruction by what its checks and its walk find. -/
theorem translationResults : Obligations.TranslationResults := by
  intro s u u1 c f inval sp a loam cur
  refine ⟨fun h => tlbinvOp_invalidates h _, fun h => tlbinvOp_invalidates h _, fun h => tlbinvOp_invalidates h _,
    fun h => tlbinvHyp_invalidates h _, fun h => tlbinvHyp_invalidates h _,
    fun h => ⟨(sysDo_ready h).1, fun on unowned => (sysDo_ready h).2 _ on ?_,
      fun p v t on part vf =>
        ⟨fun d (walk : u.mapFirstTouch p v (c.spaceOf f.s2) (c.xv f.s1) = .ok d t) => (sysDo_ready h).2 _ on ?_,
          fun g (walk : u.mapFirstTouch p v (c.spaceOf f.s2) (c.xv f.s1) = .bad g t) => (sysDo_ready h).2 _ on ?_⟩⟩,
    fun h => ⟨fun off => ⟨(sysDo_ready h).1 off, (sysDo_ready h).1 off, (sysDo_ready h).1 off⟩,
      fun on frame => ⟨fun allowed key unlocked unnamed still unread => (sysDo_ready h).2 _ on ?_,
        fun allowed good => (sysDo_ready h).2 _ on ?_⟩,
      fun on named own high within => (sysDo_ready h).2 _ on ?_⟩⟩
  -- `mapfp`: a path without an address space of its own, then the two ends of the walk
  · rcases unowned with none_ | none_
    · simp only [none_]
    · cases part : c.part u <;> simp only [none_]
  · simp only [part, vf, walk]
  · simp only [part, vf, walk]
  -- `frscrub` passes its checks in order
  · have inside : ¬ (!frameOk loam a) = true := by simp [frame]
    have level := frameLevel_ok (u := u) (ok := fun p => (bits cur 11 0 == 0 || u.ownerPart (bits cur 11 0) == some p) && (c.xv f.s2).toNat == p)
      (by simpa using allowed)
    have free : ¬ (((decide (19 < (c.xv f.s2).toNat) && (c.xv f.s2).toNat != 31) || bit cur 13 || (loam && u.regionLocked a.toNat)) = true) := by
      simp only [scrubKey_ok key, unlocked, unnamed, Bool.or_self, Bool.false_eq_true, not_false_eq_true]
    have quiet : ¬ ((u.scrubbing loam a.toNat || u.cores.any (fun q => q.2.longs.any (fun o => o.readsLoam a.toNat))) = true) := by
      simp only [still, unread, Bool.or_self, Bool.false_eq_true, not_false_eq_true]
    exact (if_neg inside).trans ((if_neg level).trans ((if_neg free).trans (if_neg quiet)))
  -- `fotset` passes its checks in order
  · have inside : ¬ (!frameOk loam a) = true := by simp [frame]
    have level := frameLevel_ok (u := u)
      (ok := fun p => bits cur 20 16 == p && u.ownerPart (bits ((c.xv f.s2).setWidth 32 : BitVec 32) 11 0) == some p) (by simpa using allowed)
    have valid : ¬ u.fotBad loam cur ((c.xv f.s2).setWidth 32) (c.p.level == .root) = true := by simp [good]
    refine (if_neg inside).trans ((if_neg level).trans ((if_neg valid).trans ?_))
    simp only [bne_iff_ne]
    rfl
  -- `wmset` names a VF of the partition and some of its ways
  · have vf : ¬ (511 < a.toNat ∨ (match c.part u with | some p => (u.part p).hasVf a.toNat | none => true) = false) := by
      cases part : c.part u with
      | none => simp [named]
      | some p => simp [named, own p part]
    exact (if_neg vf).trans (if_neg (not_or.2 ⟨Decidable.not_not.2 high, no_way_outside within⟩))

end Sys2Proof.Proofs
end

section
/-!
PROOFS. Taking a trap and halting a team (R330, R331, R333, R335).
-/

namespace Sys2Proof.Proofs

open Sys2Proof Sys2Proof.Machine

/-! ### The teams that a halt reaches (R331) -/

/-- A team's handle and index name it. -/
theorem named_of_team {s : State} {h i : Nat} {t : Team} (ht : s.team h i = some t) : t.handle = h ∧ t.idx = i := by
  simpa using List.find?_some ht

/-- The list of teams with the team that `u` names changed. -/
def changeNamed (u : Team) (g : Team → Team) (ts : List Team) : List Team :=
  modWhere (fun t => t.handle == u.handle && t.idx == u.idx) g ts

/-- A run of changes to the named teams of `l` is one change of the list of teams, as long as no change looks at that list. -/
theorem foldl_modTeam (s : State) (g : State → Team → Team → Team) (blind : ∀ u ts, g { s with teams := ts } u = g s u) (l : List Team) :
    l.foldl (fun v u => v.modTeam u.handle u.idx (g v u)) s =
      { s with teams := l.foldl (fun ts u => changeNamed u (g s u) ts) s.teams } := by
  suffices general : ∀ ts, l.foldl (fun v u => v.modTeam u.handle u.idx (g v u)) { s with teams := ts } =
      { s with teams := l.foldl (fun ts u => changeNamed u (g s u) ts) ts } from general s.teams
  induction l with
  | nil => exact fun _ => rfl
  | cons u l ih =>
    intro ts
    rw [List.foldl_cons, List.foldl_cons, ← ih, blind]
    rfl

/-- A change that keeps the names leaves each team findable. -/
theorem find?_changeNamed {g : Team → Team} (keeps : ∀ x, (g x).handle = x.handle ∧ (g x).idx = x.idx) (u : Team) (ts : List Team) (h i : Nat) :
    (changeNamed u g ts).find? (fun t => t.handle == h && t.idx == i) =
      (ts.find? (fun t => t.handle == h && t.idx == i)).map (fun t => if t.handle == u.handle && t.idx == u.idx then g t else t) := by
  unfold changeNamed modWhere
  rw [List.find?_map]
  congr 2
  funext x
  obtain ⟨kh, ki⟩ := keeps x
  dsimp only [Function.comp_apply]
  split
  · rw [kh, ki]
  · rfl

/-- A team among those changed is found as one of the changes left it. -/
theorem find?_foldl_changeNamed {g : Team → Team → Team} {q : Team → Prop} {h i : Nat}
    (keeps : ∀ u x, (g u x).handle = x.handle ∧ (g u x).idx = x.idx)
    {l ts : List Team} {t : Team} (ht : ts.find? (fun t => t.handle == h && t.idx == i) = some t)
    (made : ∀ u ∈ l, u.handle = h ∧ u.idx = i → ∀ x, q (g u x)) (some_ : q t ∨ ∃ u ∈ l, u.handle = h ∧ u.idx = i) :
    ∃ t', (l.foldl (fun ts u => changeNamed u (g u) ts) ts).find? (fun t => t.handle == h && t.idx == i) = some t' ∧ q t' := by
  induction l generalizing ts t with
  | nil => exact ⟨t, ht, some_.resolve_right (by simp)⟩
  | cons u l ih =>
    have found := find?_changeNamed (keeps u) u ts h i
    rw [ht] at found
    obtain ⟨rfl, rfl⟩ : t.handle = h ∧ t.idx = i := by simpa using List.find?_some ht
    refine ih found (fun v hv => made v (List.mem_cons_of_mem _ hv)) ?_
    by_cases hu : u.handle = t.handle ∧ u.idx = t.idx
    · exact .inl (by simpa [hu] using made u (List.mem_cons_self ..) hu t)
    · have other : ¬ (t.handle = u.handle ∧ t.idx = u.idx) := fun e => hu ⟨e.1.symm, e.2.symm⟩
      rcases some_ with hq | ⟨v, hv, named⟩
      · exact .inl (by simpa [other] using hq)
      · rcases List.mem_cons.1 hv with rfl | hv
        · exact absurd named hu
        · exact .inr ⟨v, hv, named⟩

/-- A halt reaches the team itself. -/
theorem self_mem_haltSet (s : State) (t : Team) : t ∈ s.haltSet t := by
  unfold State.haltSet
  split
  · exact List.mem_singleton_self t
  · split <;> exact List.mem_cons_self ..

/-- Of the teams that a halt reaches, the one with the team's own name is the team. -/
theorem eq_of_mem_haltSet {s : State} {t u : Team} (ht : s.team t.handle t.idx = some t) (hu : u ∈ s.haltSet t)
    (named : u.handle = t.handle ∧ u.idx = t.idx) : u = t := by
  unfold State.haltSet at hu
  split at hu
  · exact List.mem_singleton.1 hu
  · split at hu
    · next o ho =>
      rcases List.mem_cons.1 hu with e | hu
      · exact e
      · obtain rfl := List.mem_singleton.1 hu
        rw [← (named_of_team ho).2, named.2, ht] at ho
        exact (Option.some.inj ho).symm
    · exact List.mem_singleton.1 hu

/-- Whom a halt reaches stands in the list of teams alone. -/
theorem haltSet_congr {s v : State} (same : v.teams = s.teams) (t : Team) : v.haltSet t = s.haltSet t := by
  simp only [State.haltSet, State.team, same]

theorem teamOf_congr {s v : State} (same : v.teams = s.teams) (w : Warp) : v.teamOf w = s.teamOf w := by
  simp only [State.teamOf, State.team, same]

/-- A team that has been given a new state, the halt reaching its core's warps in the vc of `broadcastVc`. -/
def haltMark (s : State) (t : Team) (st : TeamState) (warp : Option Nat) (u x : Team) : Team :=
  { x with state := st, haltWarp := if u.idx = t.idx then warp else x.haltWarp,
           broadcastAt := some (s.broadcastVc u.core), blockedSince := none }

theorem startHalt_eq (s : State) (t : Team) (st : TeamState) (warp : Option Nat) :
    s.startHalt t st warp = { s with teams := (s.haltSet t).foldl (fun ts u => changeNamed u (haltMark s t st warp u) ts) s.teams } :=
  foldl_modTeam s (fun s u => haltMark s t st warp u) (fun _ _ => rfl) _

/-- A halted team names its warp, and the halt reaches the other warps of a core whose vc is under way in its next one. -/
theorem team_startHalt {s : State} {t : Team} (ht : s.team t.handle t.idx = some t) (st : TeamState) (warp : Option Nat) :
    ∃ t', (s.startHalt t st warp).team t.handle t.idx = some t' ∧ t'.state = st ∧ t'.haltWarp = warp ∧
      (s.pkg.now < (s.core t.core).at_ → t'.broadcastAt = some ((s.core t.core).vc + 1)) := by
  rw [startHalt_eq]
  refine find?_foldl_changeNamed (g := haltMark s t st warp) (q := fun t' => t'.state = st ∧ t'.haltWarp = warp ∧
    (s.pkg.now < (s.core t.core).at_ → t'.broadcastAt = some ((s.core t.core).vc + 1)))
    (fun _ _ => ⟨rfl, rfl⟩) ht (fun u hu named x => ?_) (.inr ⟨t, self_mem_haltSet s t, rfl, rfl⟩)
  obtain rfl := eq_of_mem_haltSet ht hu named
  refine ⟨rfl, if_pos rfl, fun ahead => ?_⟩
  simp only [haltMark, State.broadcastVc, if_neg (Nat.not_le.2 ahead)]

/-! ### Taking a trap (R330, R331) -/

/-- The record of a synchronous cause on the issuing instruction (R333, R335). -/
def haltOf (c : Ctx) (cause : Nat) (info : Word) (m : Option Mask) : Halt :=
  { cause := cause, async := false, info := info, pc := resumeOf cause c.p.pc, path := c.p.id,
    lanes := m.getD (laneBit (lowestLane c.p.mask)), insn := c.p.pc, size := c.size }

/-- What taking a trap does before it looks at the team: faulted blocks leave the fetch buffer, and a link error is reported once. -/
def noted (s : State) (c : Ctx) (cause : Nat) (info : Word) : State :=
  let s := { s.modCur c Path.dropFaults with cur := { s.cur with res := some .issue } }
  if cause = 0x14 ∧ info = 0 then s.clearLinkError c.core c.slot else s

/-- A warp that stops with a cause. -/
def haltedWarp (h : Halt) (w : Warp) : Warp :=
  { w with stopped := true, halt := some h, paths := w.paths.map (fun p => { p with skid := 0 }) }

/-- The trapping warp stopped with its cause, its faulted lanes recorded, and its path, after `trap`, at the next block. -/
def trapped (s : State) (c : Ctx) (h : Halt) (fl : List (Nat × Word × Word)) : State :=
  let s := s.modWarp c.core c.slot (haltedWarp h)
  let s := if fl.isEmpty then s else s.modWarp c.core c.slot (fun w => w.record fl)
  if h.cause = 0x10 then s.modCur c (fun p => { p with pc := h.pc }) else s

/-- That warp. -/
def trappedWarp (c : Ctx) (h : Halt) (fl : List (Nat × Word × Word)) (w : Warp) : Warp :=
  let w := haltedWarp h (w.modPath c.p.id Path.dropFaults)
  let w := if fl.isEmpty then w else w.record fl
  if h.cause = 0x10 then w.modPath c.p.id (fun p => { p with pc := h.pc }) else w

theorem noted_teams (s : State) (c : Ctx) (cause : Nat) (info : Word) : (noted s c cause info).teams = s.teams := by
  unfold noted
  split <;> rfl

section
variable {s : State} {c : Ctx} {t : Team}

/-- A trap outside a handler and a skid, of a team that is not halted, halts the team for its warp. -/
theorem takeTrap_eq (cause : Nat) (info : Word) (m : Option Mask) (fl : List (Nat × Word × Word)) (compute : c.svc = false)
    (ht : s.teamOf c.w = some t) (outside : c.p.handler = false) (steady : c.w.skidUntil = none) (runs : ∀ v ∈ s.haltSet t, v.state ≠ .halted) :
    s.takeTrap c cause info m fl = (trapped (noted s c cause info) c (haltOf c cause info m) fl).startHalt t .halted (some c.w.widx) := by
  have team : (noted s c cause info).teamOf c.w = some t := (teamOf_congr (noted_teams ..) _).trans ht
  have first : ((noted s c cause info).haltSet t).findSome?
      (fun u => if u.state = .halted then u.haltWarp.map (fun o => (u, o)) else none) = none := by
    rw [haltSet_congr (noted_teams ..)]
    exact List.findSome?_eq_none_iff.2 fun v hv => if_neg (runs v hv)
  unfold noted at team first
  unfold State.takeTrap
  simp only [compute, outside, steady, team, first, Option.isSome_none, Bool.false_eq_true, if_false, Bool.not_true]
  rfl

theorem trapped_teams (s : State) (c : Ctx) (h : Halt) (fl : List (Nat × Word × Word)) : (trapped s c h fl).teams = s.teams := by
  unfold trapped
  dsimp only
  split <;> split <;> rfl

theorem warpAt_ite {s u v : State} {b n : Nat} {w x : Warp} {p : Prop} [Decidable p] (hu : WarpAt s u b n w) (hv : WarpAt s v b n x) :
    WarpAt s (if p then u else v) b n (if p then w else x) := by
  split
  · exact hu
  · exact hv

/-- A context is of a path of its warp. -/
theorem ctx_warp (hc : s.ctx = some c) : s.warp c.core c.slot = c.w ∧ c.w.paths ≠ [] := by
  unfold State.ctx at hc
  dsimp only at hc
  split at hc
  · next p hp =>
    obtain rfl := Option.some.inj hc
    exact ⟨rfl, List.ne_nil_of_mem (List.mem_of_find?_eq_some hp)⟩
  · exact nomatch hc

/-- Up to the halt of its team a trap changes the trapping warp alone. -/
theorem warpAt_trapped (hc : s.ctx = some c) (cause : Nat) (info : Word) (h : Halt) (fl : List (Nat × Word × Word)) :
    WarpAt s (trapped (noted s c cause info) c h fl) c.core c.slot (trappedWarp c h fl c.w) := by
  obtain ⟨hw, full⟩ := ctx_warp hc
  rw [← hw] at full ⊢
  have start := (WarpAt.refl full).mod (g := fun w => w.modPath c.p.id Path.dropFaults) (modPath_paths_ne full _ _)
  have after : WarpAt s (noted s c cause info) c.core c.slot ((s.warp c.core c.slot).modPath c.p.id Path.dropFaults) := start.keep (by
    unfold noted
    dsimp only
    split <;> rfl)
  have halted := after.mod (g := haltedWarp h) (by simpa [haltedWarp] using after.full)
  have recorded := halted.mod (g := fun w => w.record fl) halted.full
  have kept := warpAt_ite (p := fl.isEmpty = true) halted recorded
  exact warpAt_ite (p := h.cause = 0x10)
    (kept.mod (g := fun w => w.modPath c.p.id (fun p => { p with pc := h.pc })) (modPath_paths_ne kept.full _ _)) kept

/-- The trapping warp stops with its cause; but for its paths and the record of its faulted lanes everything in it stands. -/
theorem trappedWarp_eq (h : Halt) (fl : List (Nat × Word × Word)) (w : Warp) : ∃ l m a i,
    trappedWarp c h fl w = { w with stopped := true, halt := some h, paths := l, flmask := m, fladdr := a, flinfo := i } := by
  unfold trappedWarp
  dsimp only
  split <;> split <;> simp only [haltedWarp, Warp.record, Warp.modPath] <;> exact ⟨_, _, _, _, rfl⟩

/-- The faulted lanes are recorded. -/
theorem trappedWarp_flmask (h : Halt) {fl : List (Nat × Word × Word)} (some_ : fl ≠ []) (w : Warp) :
    (trappedWarp c h fl w).flmask = faultedLanes fl := by
  unfold trappedWarp
  simp only [List.isEmpty_eq_false_iff.2 some_, Bool.false_eq_true, if_false]
  split <;> rfl

/-- No path has used skid. -/
theorem trappedWarp_skid (h : Halt) (fl : List (Nat × Word × Word)) (w : Warp) : ∀ p ∈ (trappedWarp c h fl w).paths, p.skid = 0 := by
  have halted : ∀ p ∈ (haltedWarp h (w.modPath c.p.id Path.dropFaults)).paths, p.skid = 0 := by
    intro p hp
    obtain ⟨q, -, rfl⟩ := List.mem_map.1 hp
    rfl
  have recorded : (if fl.isEmpty = true then haltedWarp h (w.modPath c.p.id Path.dropFaults)
      else (haltedWarp h (w.modPath c.p.id Path.dropFaults)).record fl).paths = (haltedWarp h (w.modPath c.p.id Path.dropFaults)).paths := by
    split <;> rfl
  rw [← recorded] at halted
  unfold trappedWarp
  dsimp only
  split
  · intro p hp
    obtain ⟨q, hq, rfl⟩ := List.mem_map.1 hp
    split <;> exact halted q hq
  · exact halted

end

/-- Settles O55: up to the halt of the team a trap changes its warp alone, and the halt changes the teams alone. -/
theorem trapEntry : Obligations.TrapEntry := by
  intro s c cause info m fl t hc compute ht outside steady runs
  obtain ⟨th, ti⟩ := named_of_team ht
  have own := warpAt_trapped hc cause info (haltOf c cause info m) fl
  have eq := takeTrap_eq cause info m fl compute ht outside steady runs
  have frame : WarpAt s (s.takeTrap c cause info m fl) c.core c.slot (trappedWarp c (haltOf c cause info m) fl c.w) :=
    own.keep (by rw [eq, startHalt_eq])
  have team : (trapped (noted s c cause info) c (haltOf c cause info m) fl).team t.handle t.idx = some t := by
    rw [State.team, trapped_teams, noted_teams, th, ti]
    exact ht
  obtain ⟨t', found, state, warp, reach⟩ := team_startHalt team .halted (some c.w.widx)
  obtain ⟨_, _, _, _, stands⟩ := trappedWarp_eq (c := c) (haltOf c cause info m) fl c.w
  obtain ⟨vc, at_⟩ := own.vc t.core
  intro u w
  have hw : w = trappedWarp c (haltOf c cause info m) fl c.w := frame.warp
  rw [hw]
  refine ⟨by rw [stands], by rw [stands]; rfl, trappedWarp_skid _ _ _, ?_, fun some_ => trappedWarp_flmask _ some_ _,
    ⟨t', (congrArg (fun x : State => x.team t.handle t.idx) eq).trans found, state, warp, fun ahead => ?_⟩, frame.other, frame.rest⟩
  · rw [stands]
    exact ⟨rfl, rfl, rfl, rfl, rfl, rfl, rfl, rfl, rfl, rfl, rfl, rfl, rfl, rfl, rfl, rfl, rfl, rfl, rfl⟩
  · rw [← vc]
    refine reach ?_
    rw [at_, own.rest]
    exact ahead

end Sys2Proof.Proofs
end

section
/-!
PROOFS. Entering a lane handler and the save area (R177, R333 to R335).
-/

namespace Sys2Proof.Proofs

open Sys2Proof Sys2Proof.Machine

/-! ### Entering a lane handler (R333 to R335) -/

/-- The base entry of a handler's stack. -/
def handlerEntryOf (w : Warp) (h : Halt) : Entry :=
  { id := w.nextEntry, tmask := h.lanes, nmask := 0, fmt := 0x00707000, rrb := 0, token := 0, hnd := true }

/-- The handler path, at block `off` of module `m`. -/
def handlerPathOf (s : State) (t : Team) (w : Warp) (h : Halt) (m : Nat) (off : Word) : Path :=
  let e := s.modEntry t.part m
  { id := w.nextPath, mask := h.lanes, module := m, space := BitVec.ofNat 16 e.space, cbase := e.cbase, csize := e.csize, pc := off,
    level := .supervisor, handler := true, ready := (s.core t.core).vc + 24 }

/-- The warp that enters its handler. -/
def enteredWarp (s : State) (t : Team) (w : Warp) (h : Halt) (m : Nat) (off : Word) : Warp :=
  let mid := match w.path h.path with | some p => p | none => { id := 0, mask := 0 }
  { w with
    stack := w.stack ++ [handlerEntryOf w h], nextEntry := w.nextEntry + 1, paths := w.paths ++ [handlerPathOf s t w h m off],
    nextPath := w.nextPath + 1, fcause := h.cause, fasync := h.async, fcount := satInc w.fcount (2 ^ 32 - 1) 1,
    hcause := BitVec.ofNat 64 (h.cause + (if h.async then 256 else 0) + w.skids * 2 ^ 9 + mid.module * 2 ^ 12),
    hinfo := h.info, hpc := h.pc, hmask := mid.mask, hseq := h.seq,
    handler := some { halt := h, depth := w.stack.length, hpc := h.pc, due := (s.core t.core).vc + 2 ^ 20 }, halt := none }

section
variable {s : State} {t : Team} {wi slot : Nat} {w : Warp} {h : Halt} (hwi : t.haltWarp = some wi) (hslot : t.slots.getD wi 32 = slot)
  (hw : s.warp t.core slot = w) (hh : w.halt = some h)
include hwi hslot hw hh

/-- Without a handler module the team is escalated (R334). -/
theorem enterHandler_none (none_ : s.handlerModule t.part = none) : s.enterHandler t = s.escalate t t.core slot 0x23 0 := by
  unfold State.enterHandler
  simp only [hwi, hslot, hw, hh, none_]

/-- With the saved set full and landed, the handler is entered: the save area and the warp change in the core, and the team's state. -/
theorem enterHandler_eq {m : Nat} {off : Word} (module_ : s.handlerModule t.part = some (m, off))
    (full : (s.core t.core).savedFull slot w = true) (landed : w.land.any (fun e => e.w.inSaved) = false) :
    s.enterHandler t =
      (s.setCore t.core (((s.core t.core).setSp (saveArea slot) w.saveBytes).setWarp slot (enteredWarp s t w h m off))).modTeam t.handle t.idx
        (fun x => { x with state := .inHandler }) := by
  unfold State.enterHandler
  simp only [hwi, hslot, hw, hh, module_, full, landed, Bool.not_true, Bool.or_self, Bool.false_eq_true, if_false]
  rfl

end

/-- The warps of a core that is put. -/
theorem warp_setCore (s : State) (c n : Nat) {k : Core} (h : k ≠ {}) : (s.setCore c k).warp c n = k.warp n := by
  rw [State.warp, core_setCore s c h]

theorem warp_setCore_other (s : State) {b c : Nat} (hb : b ≠ c) (n : Nat) {k : Core} (h : k ≠ {}) : (s.setCore c k).warp b n = s.warp b n := by
  rw [State.warp, core_setCore_other s hb h]
  rfl

/-- One warp of a core is put, and of what else changes in the core no other warp. -/
theorem warp_setCore_keep (s : State) {b c m n : Nat} (hb : b ≠ c ∨ m ≠ n) {k : Core} (h : k ≠ {})
    (keeps : ∀ i, i ≠ n → k.warp i = (s.core c).warp i) : (s.setCore c k).warp b m = s.warp b m := by
  by_cases e : b = c
  · subst e
    rw [warp_setCore s b m h, keeps m (hb.resolve_left fun x => x rfl)]
    rfl
  · exact warp_setCore_other s e m h

theorem setWarp_spad (k : Core) (n : Nat) (w : Warp) : (k.setWarp n w).spad = k.spad := rfl

theorem setSp_spad (k : Core) (a : Nat) (l : List Byte) : (k.setSp a l).spad = sputs 0 k.spad a l := rfl

theorem setSp_warp (k : Core) (a : Nat) (l : List Byte) (n : Nat) : (k.setSp a l).warp n = k.warp n := rfl

/-! ### The save area (R177) -/

/-- A field that follows `k` bytes. -/
theorem fieldAt_skip {a : List Byte} {k : Nat} (length : a.length = k) (b : List Byte) (off n : Nat) :
    fieldAt (a ++ b) (k + off) n = fieldAt b off n := by
  subst length
  simp only [fieldAt, List.drop_append, List.drop_eq_nil_of_le (Nat.le_add_right a.length off), Nat.add_sub_cancel_left, List.nil_append]

theorem numbers_length (f : Nat → Nat) (m n : Nat) : ((List.range m).flatMap (fun j => leBytes (f j) n)).length = n * m := by
  induction m with
  | zero => rfl
  | succ m ih =>
    simp only [List.range_succ, List.flatMap_append, List.length_append, ih, List.flatMap_cons, List.flatMap_nil, List.append_nil,
      Laws.leBytes_length, Nat.mul_succ]

/-- The field of number `i` of numbers of `n` bytes. -/
theorem fieldAt_numbers (f : Nat → Nat) {m i : Nat} (hi : i < m) (n : Nat) (r : List Byte) :
    fieldAt ((List.range m).flatMap (fun j => leBytes (f j) n) ++ r) (n * i) n = f i % 256 ^ n := by
  obtain ⟨k, rfl⟩ : ∃ k, m = i + (k + 1) := ⟨m - i - 1, by omega⟩
  rw [List.range_add, List.flatMap_append, List.append_assoc, ← Nat.add_zero (n * i), fieldAt_skip (numbers_length f i n), List.range_succ_eq_map,
    List.map_cons, List.flatMap_cons, List.append_assoc, fieldAt, List.drop_zero, Nat.add_zero,
    List.take_left' (Laws.leBytes_length ..), Laws.ofBytes_leBytes]

/-- The saved set in its bytes (R333): x1 to x15, `fflags`, p1 to p7 and d4 to d7. -/
theorem saveBytes_fields (w : Warp) (r : List Byte) :
    (∀ i, i < 15 → fieldAt (w.saveBytes ++ r) (8 * i) 8 = (w.xr (i + 1)).toNat) ∧
    fieldAt (w.saveBytes ++ r) 0x78 8 = w.fflags % 2 ^ 64 ∧
    (∀ i, i < 7 → fieldAt (w.saveBytes ++ r) (0x80 + 8 * i) 8 = (sget 0 w.p (i + 1)).toNat) ∧
    (∀ i, i < 4 → fieldAt (w.saveBytes ++ r) (0xB8 + 2 * i) 2 = (w.dr (i + 4)).toNat) := by
  have xs := numbers_length (fun i => (w.xr (i + 1)).toNat) 15 8
  have fl := Laws.leBytes_length w.fflags 8
  have ps := numbers_length (fun i => (sget 0 w.p (i + 1)).toNat) 7 8
  simp only [Warp.saveBytes, List.append_assoc]
  refine ⟨fun i hi => ?_, ?_, fun i hi => ?_, fun i hi => ?_⟩
  · rw [fieldAt_numbers (fun i => (w.xr (i + 1)).toNat) hi]
    exact Nat.mod_eq_of_lt (w.xr (i + 1)).isLt
  · have flags : ∀ r, fieldAt (leBytes w.fflags 8 ++ r) 0 8 = w.fflags % 256 ^ 8 := fun r => by
      rw [fieldAt, List.drop_zero, List.take_left' fl, Laws.ofBytes_leBytes]
    exact (fieldAt_skip xs _ 0 8).trans (flags _)
  · rw [show 0x80 + 8 * i = 8 * 15 + (8 + 8 * i) by omega, fieldAt_skip xs, fieldAt_skip fl, fieldAt_numbers (fun i => (sget 0 w.p (i + 1)).toNat) hi]
    exact Nat.mod_eq_of_lt (sget 0 w.p (i + 1)).isLt
  · rw [show 0xB8 + 2 * i = 8 * 15 + (8 + (8 * 7 + 2 * i)) by omega, fieldAt_skip xs, fieldAt_skip fl, fieldAt_skip ps,
      fieldAt_numbers (fun i => (w.dr (i + 4)).toNat) hi]
    exact Nat.mod_eq_of_lt (w.dr (i + 4)).isLt

theorem saveBytes_length (w : Warp) : w.saveBytes.length = 0xC0 := by
  simp only [Warp.saveBytes, List.length_append, numbers_length, Laws.leBytes_length]

/-- Settles O56: entering the handler puts one core, and the bytes of the saved set follow one another. -/
theorem handlerEntry : Obligations.HandlerEntry := by
  refine ⟨?_, fun w => ⟨saveBytes_length w, by simpa using saveBytes_fields w []⟩⟩
  intro s t wi h hwi slot w hh _
  refine ⟨enterHandler_none hwi rfl rfl hh, fun m off module_ full landed => ?_⟩
  have paths : enteredWarp s t w h m off ≠ {} := warp_ne_empty (List.append_ne_nil_of_right_ne_nil _ (List.cons_ne_nil _ _))
  have core := setWarp_ne_empty ((s.core t.core).setSp (saveArea slot) w.saveBytes) slot paths
  have eq := enterHandler_eq hwi rfl rfl hh module_ full landed
  have core_eq : (s.enterHandler t).core t.core =
      ((s.core t.core).setSp (saveArea slot) w.saveBytes).setWarp slot (enteredWarp s t w h m off) := by
    rw [eq]
    exact core_setCore s t.core core
  have warp : (s.enterHandler t).warp t.core slot = enteredWarp s t w h m off := by
    rw [State.warp, core_eq, warp_setWarp_core _ slot paths]
  intro u w'
  rw [show w' = enteredWarp s t w h m off from warp]
  refine ⟨⟨_, rfl, rfl, rfl, rfl, rfl, rfl, rfl, rfl, rfl, rfl, rfl, rfl, _, rfl, rfl, rfl, rfl, rfl, rfl, rfl, rfl⟩, fun q hq => ⟨?_, ?_⟩,
    rfl, rfl, rfl, rfl, rfl, rfl, rfl, rfl, ⟨rfl, rfl, rfl, rfl, rfl, rfl, rfl, rfl, rfl⟩, ?_, fun b n other => ?_, ?_⟩
  · simp only [enteredWarp, hq]
  · simp only [enteredWarp, hq]
  · show ((s.enterHandler t).core t.core).spad = _
    rw [core_eq, setWarp_spad, setSp_spad, saveArea]
  · show (s.enterHandler t).warp b n = _
    rw [eq]
    exact warp_setCore_keep s other core (fun i hi => (warp_setWarp_core_other _ hi paths).trans (setSp_warp ..))
  · show s.enterHandler t = { s with cores := (s.enterHandler t).cores, teams := (s.enterHandler t).teams }
    rw [eq]
    rfl

end Sys2Proof.Proofs
end

section
/-!
PROOFS. The saved set put back and the return from a lane handler (R177, R333, R336).
-/

namespace Sys2Proof.Proofs

open Sys2Proof Sys2Proof.Machine

/-! ### The saved set put back (R336, R338) -/

theorem foldl_sput_range {α : Type} [DecidableEq α] {d : α} (f : Nat → α) (n k : Nat) (m : SMap α) :
    (List.range n).foldl (fun m i => sput d m (i + k) (f i)) m = sputs d m k ((List.range n).map f) := by
  induction n generalizing f k m with
  | zero => rfl
  | succ n ih =>
    have next := ih (fun i => f (i + 1)) (k + 1) (sput d m k (f 0))
    simp only [← Nat.add_assoc] at next
    simpa [List.range_succ_eq_map, List.foldl_map, sputs, Function.comp_def, Nat.add_right_comm _ 1 k] using next

/-- What a run of writes at the keys from `k` gives. -/
theorem sget_sputs_range {α : Type} [DecidableEq α] {d : α} {m : SMap α} (h : swf d m = true) (f : Nat → α) (n k j : Nat) :
    sget d (sputs d m k ((List.range n).map f)) j = if k ≤ j ∧ j < k + n then f (j - k) else sget d m j := by
  rw [sget_sputs h]
  by_cases low : k ≤ j
  · by_cases high : j < k + n
    · simp [low, high, List.getD, show j - k < n by omega]
    · simp [low, high, List.getD, show n ≤ j - k by omega]
  · simp [low]

theorem xw_succ (w : Warp) (n : Nat) (v : Word) : w.xw (n + 1) v = { w with x := sput 0 w.x (n + 1) v } := if_neg (Nat.succ_ne_zero n)

theorem foldl_x (f : Nat → Word) (l : List Nat) (w : Warp) :
    l.foldl (fun w i => { w with x := sput 0 w.x (i + 1) (f i) }) w = { w with x := l.foldl (fun m i => sput 0 m (i + 1) (f i)) w.x } := by
  induction l generalizing w with
  | nil => rfl
  | cons i l ih => rw [List.foldl_cons, ih, List.foldl_cons]

theorem foldl_p (f : Nat → Mask) (l : List Nat) (w : Warp) :
    l.foldl (fun w i => { w with p := sput 0 w.p (i + 1) (f i) }) w = { w with p := l.foldl (fun m i => sput 0 m (i + 1) (f i)) w.p } := by
  induction l generalizing w with
  | nil => rfl
  | cons i l ih => rw [List.foldl_cons, ih, List.foldl_cons]

theorem foldl_d (f : Nat → BitVec 16) (l : List Nat) (w : Warp) :
    l.foldl (fun w i => { w with d := sput 0 w.d (i + 4) (f i) }) w = { w with d := l.foldl (fun m i => sput 0 m (i + 4) (f i)) w.d } := by
  induction l generalizing w with
  | nil => rfl
  | cons i l ih => rw [List.foldl_cons, ih, List.foldl_cons]

/-- Putting back the saved set changes the four tables that hold it. -/
theorem restoreSet_eq (w : Warp) (b : List Byte) : w.restoreSet b = { w with
    x := sputs 0 w.x 1 ((List.range 15).map fun i => BitVec.ofNat 64 (fieldAt b (8 * i) 8)),
    fflags := fieldAt b 0x78 8 % 32,
    p := sputs 0 w.p 1 ((List.range 7).map fun i => BitVec.ofNat 64 (fieldAt b (0x80 + 8 * i) 8)),
    d := sputs 0 w.d 4 ((List.range 4).map fun i => BitVec.ofNat 16 (fieldAt b (0xB8 + 2 * i) 2)) } := by
  unfold Warp.restoreSet
  simp only [xw_succ, Warp.dw, foldl_x, foldl_p, foldl_d, foldl_sput_range]

/-- The warp whose saved set is put back, `xe` its empty bits: of what was to land in the set only flags still land. -/
def putBackWarp (k : Core) (slot : Nat) (w : Warp) (xe : Mask) : Warp :=
  let w := w.restoreSet (k.sp (saveArea slot) 256)
  { w with xe := xe, land := w.land.filter (fun e => !e.w.inSaved || e.w.isFlags) }

theorem live_ne_empty {w : Warp} (h : w.live = true) : w ≠ {} := fun e => by simp [e] at h

/-- But for the saved set, its empty bits and what is to land in it the warp stands. -/
theorem putBackWarp_eq (k : Core) (slot : Nat) (w : Warp) (xe : Mask) :
    let b := k.sp (saveArea slot) 256
    putBackWarp k slot w xe = { w with
      x := (w.restoreSet b).x, fflags := fieldAt b 0x78 8 % 32, p := (w.restoreSet b).p, d := (w.restoreSet b).d, xe := xe,
      land := w.land.filter (fun e => !e.w.inSaved || e.w.isFlags) } := by
  simp only [putBackWarp, restoreSet_eq]

theorem putBackWarp_live (k : Core) (slot : Nat) (w : Warp) (xe : Mask) : (putBackWarp k slot w xe).live = w.live := by
  rw [putBackWarp_eq]

/-- Of the warps of its core, putting back the saved set of a live one changes that one. -/
theorem putBack_warps {w : Warp} (live : w.live = true) (k : Core) (slot : Nat) : ∃ xe, (k.putBack slot w).warp slot = putBackWarp k slot w xe ∧
    (∀ i, i ≠ slot → (k.putBack slot w).warp i = k.warp i) ∧ k.putBack slot w ≠ {} := by
  obtain ⟨xe, l, eq⟩ : ∃ xe l, k.putBack slot w = { k.setWarp slot (putBackWarp k slot w xe) with longs := l } := ⟨_, _, rfl⟩
  have some_ : putBackWarp k slot w xe ≠ {} := live_ne_empty (by rw [putBackWarp_live, live])
  have own : (k.putBack slot w).warp slot = putBackWarp k slot w xe := by
    rw [eq]
    exact warp_setWarp_core k slot some_
  refine ⟨xe, own, fun i hi => ?_, core_ne_empty (n := slot) (own ▸ some_)⟩
  rw [eq]
  exact warp_setWarp_core_other k hi some_

/-! ### Returning from a handler (R336) -/

/-- Where the interrupted path goes on: behind the trapping instruction for a synchronous cause and `eret.skip`, else at `hpc`. -/
def resumeAt (h : Handler) (hpc : Word) (skip : Bool) : Word :=
  if h.halt.producer = none ∧ skip = true ∧ h.halt.async = false then h.halt.insn + BitVec.ofNat 64 (8 * h.halt.size) else hpc

/-- A warp without its handler path and the entries of the handler's stack. -/
def withoutHandler (h : Handler) (w : Warp) : Warp :=
  { w with paths := w.paths.filter (fun p => !p.handler), stack := w.stack.take h.depth, handler := none }

/-- The warp as the return leaves it, before the team runs. -/
def returnedWarp (h : Handler) (target : Word) (w : Warp) : Warp :=
  (withoutHandler h w).modPath h.halt.path (fun p => { p with pc := target })

theorem returnedWarp_live (h : Handler) (target : Word) (w : Warp) : (returnedWarp h target w).live = w.live := rfl

/-- The return from the handler, before the team runs. -/
def returned (s : State) (c : Ctx) (h : Handler) (target : Word) : State :=
  let s := s.modCore c.core (fun k => k.putBack c.slot c.w)
  s.setWarp c.core c.slot (returnedWarp h target (s.warp c.core c.slot))

section
variable {s : State} {c : Ctx} {h : Handler} {t : Team} (hh : c.w.handler = some h) (ht : s.teamOf c.w = some t)
include hh ht

/-- Lanes that do not all return, or an entry left above the base, are a nested fault. -/
theorem return_early (skip : Bool) (left : c.p.mask ≠ h.halt.lanes ∨ c.w.stack.drop (h.depth + 1) ≠ []) :
    s.returnFromHandler c skip = s.escalate t c.core c.slot 0x20 0 := by
  unfold State.returnFromHandler
  simp only [hh, ht, Bool.not_eq_true', List.isEmpty_eq_false_iff]
  exact if_pos left

variable (whole : c.p.mask = h.halt.lanes) (base : c.w.stack.drop (h.depth + 1) = [])
include whole base

/-- A resume offset that is neither a block nor the one saved is a nested fault. -/
theorem return_misaligned (skip : Bool) (off : c.w.hpc.toNat % 64 ≠ 0) (changed : c.w.hpc ≠ h.hpc) :
    s.returnFromHandler c skip = s.escalate t c.core c.slot 0x20 c.w.hpc := by
  unfold State.returnFromHandler
  simp only [hh, ht, whole, base, List.isEmpty_nil, Bool.not_true, ne_eq, not_true_eq_false, Bool.false_eq_true, or_self, if_false]
  exact if_pos ⟨off, changed⟩

theorem return_ok (skip : Bool) (good : c.w.hpc.toNat % 64 = 0 ∨ c.w.hpc = h.hpc) :
    s.returnFromHandler c skip = (returned s c h (resumeAt h c.w.hpc skip)).resumeTeam t := by
  have fine : ¬ (c.w.hpc.toNat % 64 ≠ 0 ∧ c.w.hpc ≠ h.hpc) := fun ⟨off, changed⟩ => good.elim off changed
  have target : (if (h.halt.producer.isNone && skip && !h.halt.async) = true then h.halt.insn + BitVec.ofNat 64 (8 * h.halt.size) else c.w.hpc) =
      resumeAt h c.w.hpc skip := by
    simp only [resumeAt, Bool.and_eq_true, Option.isNone_iff_eq_none, Bool.not_eq_true', and_assoc]
  unfold State.returnFromHandler
  simp only [hh, ht, whole, base, List.isEmpty_nil, Bool.not_true, ne_eq, not_true_eq_false, Bool.false_eq_true, or_self, if_false, if_neg fine,
    target]
  rfl

end

/-- The warp that returns: its saved set is put back, its handler path and entries are gone, and the interrupted path goes on at `target`. -/
theorem returned_warps {s : State} {c : Ctx} (live : c.w.live = true) (h : Handler) (target : Word) :
    ∃ xe, (returned s c h target).warp c.core c.slot = returnedWarp h target (putBackWarp (s.core c.core) c.slot c.w xe) ∧
      ∀ b n, (b ≠ c.core ∨ n ≠ c.slot) → (returned s c h target).warp b n = s.warp b n := by
  obtain ⟨xe, own, others, some_⟩ := putBack_warps live (s.core c.core) c.slot
  have put : (s.modCore c.core (fun k => k.putBack c.slot c.w)).warp c.core c.slot = putBackWarp (s.core c.core) c.slot c.w xe :=
    (warp_setCore s c.core c.slot some_).trans own
  have full : returnedWarp h target (putBackWarp (s.core c.core) c.slot c.w xe) ≠ {} := live_ne_empty (by
    rw [returnedWarp_live, putBackWarp_live, live])
  unfold returned
  simp only [put]
  exact ⟨xe, warp_setWarp _ _ _ full, fun b n other =>
    (warp_setWarp_other _ other full).trans (warp_setCore_keep s other some_ others)⟩

/-- A saved set put back from its own bytes is the saved set, and the other registers stand. -/
theorem restoreSet_saveBytes (w w' : Warp) (r : List Byte) (flags : w.fflags < 32) (hx : swf 0 w'.x = true) (hp : swf 0 w'.p = true)
    (hd : swf 0 w'.d = true) :
    let q := w'.restoreSet (w.saveBytes ++ r)
    (∀ n, 1 ≤ n → n ≤ 15 → q.xr n = w.xr n) ∧ (∀ n, 16 ≤ n → q.xr n = w'.xr n) ∧ q.fflags = w.fflags ∧
    (∀ n, 1 ≤ n → n ≤ 7 → q.pr n = w.pr n) ∧ (∀ n, 8 ≤ n → q.pr n = w'.pr n) ∧
    (∀ n, 4 ≤ n → n ≤ 7 → q.dr n = w.dr n) ∧ (∀ n, n < 4 ∨ 8 ≤ n → q.dr n = w'.dr n) ∧ q.v = w'.v := by
  obtain ⟨xs, fl, ps, ds⟩ := saveBytes_fields w r
  intro q
  have hq : q = _ := restoreSet_eq ..
  rw [hq]
  simp only [Warp.xr, Warp.pr, Warp.dr, sget_sputs_range hx, sget_sputs_range hp, sget_sputs_range hd]
  refine ⟨fun n low high => ?_, fun n low => ?_, ?_, fun n low high => ?_, fun n low => ?_, fun n low high => ?_, fun n out => ?_, trivial⟩
  · rw [if_neg (by omega), if_pos (by omega), xs _ (by omega), BitVec.ofNat_toNat, BitVec.setWidth_eq, Nat.sub_add_cancel low]
    rfl
  · rw [if_neg (by omega), if_neg (by omega), if_neg (by omega)]
  · rw [fl]
    omega
  · rw [if_neg (by omega), if_pos (by omega), ps _ (by omega), BitVec.ofNat_toNat, BitVec.setWidth_eq, if_neg (by omega), Nat.sub_add_cancel low]
  · rw [if_neg (by omega), if_neg (by omega), if_neg (by omega)]
  · rw [if_pos (by omega), ds _ (by omega), BitVec.ofNat_toNat, BitVec.setWidth_eq, Nat.sub_add_cancel low]
    rfl
  · rw [if_neg (by omega)]

/-- Settles O57: the checks in order, the return by the warp that it puts, the last clause by the fields of the save area. -/
theorem handlerReturn : Obligations.HandlerReturn := by
  refine ⟨?_, fun w w' r => restoreSet_saveBytes w w' r⟩
  intro s c skip h t hh ht _ live
  refine ⟨return_early hh ht skip, fun whole base off changed => return_misaligned hh ht whole base skip off changed, fun whole base good => ?_⟩
  obtain ⟨xe, own, others⟩ := returned_warps (s := s) live h (resumeAt h c.w.hpc skip)
  refine ⟨_, return_ok hh ht whole base skip good, rfl, others, ?_⟩
  intro w
  rw [show w = _ from own, putBackWarp_eq]
  simp only [returnedWarp, withoutHandler, Warp.modPath, resumeAt, and_self]

end Sys2Proof.Proofs
end

section
/-!
PROOFS. The team event ring and escalation (R334, R337, R338).
-/

namespace Sys2Proof.Proofs

open Sys2Proof Sys2Proof.Machine

/-! ### The event ring (R338) -/

/-- The place of a partition's next record. -/
def nextRecord (s : State) (p : Nat) : Nat := ringSlot (s.part p).tevq 64 (s.part p).tevTail

/-- A record must wait: the next slot is still valid, or others wait. -/
def recordWaits (s : State) (p : Nat) : Bool := s.ringValid (nextRecord s p) 64 || !(s.part p).tevWait.isEmpty

section
variable {s : State} {p : Nat} {words : List Nat}

theorem postEvent_wait (waits : recordWaits s p = true) :
    s.postEvent p words = s.modPart p (fun q => { q with tevWait := q.tevWait ++ [words.map (BitVec.ofNat 64)] }) := if_pos waits

theorem postEvent_write (free : recordWaits s p = false) :
    s.postEvent p words = (s.setBytes (nextRecord s p) (wordsBytes words)).modPart p (fun q => { q with tevTail := q.tevTail + 1 }) :=
  if_neg (by rw [recordWaits, nextRecord] at free; simp [free])

/-- A record needs nothing of the cores and the teams, and changes nothing of them. -/
theorem postEvent_apart (ks : SMap Core) (ts : List Team) :
    ({ s with cores := ks, teams := ts } : State).postEvent p words = { s.postEvent p words with cores := ks, teams := ts } := by
  cases waits : recordWaits s p with
  | true =>
    rw [postEvent_wait waits, postEvent_wait (s := { s with cores := ks, teams := ts }) waits]
    rfl
  | false =>
    rw [postEvent_write waits, postEvent_write (s := { s with cores := ks, teams := ts }) waits]
    rfl

/-- A record changes the partitions and memory alone. -/
theorem postEvent_eq : s.postEvent p words = { s with parts := (s.postEvent p words).parts, mem := (s.postEvent p words).mem } := by
  cases waits : recordWaits s p with
  | true =>
    rw [postEvent_wait waits]
    rfl
  | false =>
    rw [postEvent_write waits]
    rfl

/-- A partition that is not empty reads back as it was put. -/
theorem part_modPart {g : Part → Part} (h : g (s.part p) ≠ {}) : (s.modPart p g).part p = g (s.part p) := sget_sput_put h _ _

/-- With the next slot free and no record waiting, the record is written there. -/
theorem postEvent_free (free : s.ringValid (nextRecord s p) 64 = false) (first : (s.part p).tevWait = []) :
    (s.postEvent p words).mem = (s.setBytes (nextRecord s p) (wordsBytes words)).mem ∧
      ((s.postEvent p words).part p).tevTail = (s.part p).tevTail + 1 ∧ ((s.postEvent p words).part p).tevWait = [] := by
  have some_ : { s.part p with tevTail := (s.part p).tevTail + 1 } ≠ ({} : Part) := fun e => Nat.succ_ne_zero _ (congrArg Part.tevTail e)
  rw [postEvent_write (by simp [recordWaits, free, first])]
  refine ⟨rfl, ?_⟩
  rw [part_modPart (s := s.setBytes _ _) some_]
  exact ⟨rfl, first⟩

/-- Otherwise the record waits behind those that wait. -/
theorem postEvent_full (full : s.ringValid (nextRecord s p) 64 = true ∨ (s.part p).tevWait ≠ []) :
    (s.postEvent p words).mem = s.mem ∧ ((s.postEvent p words).part p).tevTail = (s.part p).tevTail ∧
      ((s.postEvent p words).part p).tevWait = (s.part p).tevWait ++ [words.map (BitVec.ofNat 64)] := by
  have some_ : { s.part p with tevWait := (s.part p).tevWait ++ [words.map (BitVec.ofNat 64)] } ≠ ({} : Part) :=
    fun e => List.append_ne_nil_of_right_ne_nil _ (List.cons_ne_nil _ _) (congrArg Part.tevWait e)
  rw [postEvent_wait (by simpa [recordWaits] using full)]
  refine ⟨rfl, ?_⟩
  rw [part_modPart some_]
  exact ⟨rfl, rfl⟩

end

/-! ### Escalation (R337, R338) -/

/-- What a warp keeps of the original cause: the cause, its information word and the resume offset. -/
def originalOf (w : Warp) : Nat × Word × Word :=
  match w.handler, w.halt with
  | some h, _ => (h.halt.cause, h.halt.info, h.hpc)
  | none, some h => (h.cause, h.info, h.pc)
  | none, none => (0, 0, 0)

theorem originalOf_eq {w : Warp} {h : Halt} {pc : Word}
    (kept : (∃ q, w.handler = some q ∧ q.halt = h ∧ q.hpc = pc) ∨ (w.handler = none ∧ w.halt = some h ∧ h.pc = pc)) :
    originalOf w = (h.cause, h.info, pc) := by
  rcases kept with ⟨q, hq, rfl, rfl⟩ | ⟨none_, hw, rfl⟩
  · simp only [originalOf, hq]
  · simp only [originalOf, none_, hw]

/-- The warp stops, out of its handler where it is in one. -/
def leftHandler (s : State) (c slot : Nat) : State :=
  let w := s.warp c slot
  match w.handler with
  | some h =>
    (s.modCore c (fun k => k.putBack slot w)).modWarp c slot (fun x => { x with
      paths := w.paths.filter (fun p => !p.handler), stack := w.stack.take h.depth, handler := none,
      halt := some h.halt, stopped := true })
  | none => s.stopWarp c slot

/-- A suspended team. -/
def suspended (x : Team) : Team := { x with state := .suspended, broadcastAt := none }

theorem leftHandler_teams (s : State) (c slot : Nat) : (leftHandler s c slot).teams = s.teams := by
  unfold leftHandler
  dsimp only
  split <;> rfl

theorem leftHandler_eq (s : State) (c slot : Nat) : leftHandler s c slot = { s with cores := (leftHandler s c slot).cores } := by
  unfold leftHandler
  dsimp only
  split <;> rfl

/-- Escalation: the warp leaves its handler, the team is suspended, the record is posted; each changes what the others leave. -/
theorem escalate_eq (s : State) (t : Team) (c slot cause : Nat) (nested : Word) {o : Nat × Word × Word}
    (original : originalOf (s.warp c slot) = o) :
    s.escalate t c slot cause nested =
      { s.postEvent t.part (escalationRecord t cause o.1 (s.warp c slot).widx o.2.1 nested o.2.2) with
        cores := (leftHandler s c slot).cores, teams := (s.haltSet t).foldl (fun ts u => changeNamed u suspended ts) s.teams } := by
  subst original
  have left : ∀ ts, { leftHandler s c slot with teams := ts } = { s with cores := (leftHandler s c slot).cores, teams := ts } :=
    fun ts => congrArg (fun x : State => { x with teams := ts }) (leftHandler_eq s c slot)
  have fold := foldl_modTeam (leftHandler s c slot) (fun _ _ => suspended) (fun _ _ => rfl) ((leftHandler s c slot).haltSet t)
  rw [haltSet_congr (leftHandler_teams s c slot), leftHandler_teams, left] at fold
  rw [← postEvent_apart, ← fold, ← haltSet_congr (leftHandler_teams s c slot)]
  rfl

/-- Outside the cores and the teams escalation does what its record does, and the record changes the partitions and memory alone. -/
theorem escalate_frame (s : State) (t : Team) (c slot cause : Nat) (nested : Word) :
    let u := s.escalate t c slot cause nested
    u = { s with cores := u.cores, teams := u.teams, parts := u.parts, mem := u.mem } := by
  dsimp only
  rw [escalate_eq s t c slot cause nested rfl]
  exact congrArg (fun x : State => { x with
    cores := (leftHandler s c slot).cores, teams := (s.haltSet t).foldl (fun ts u => changeNamed u suspended ts) s.teams }) postEvent_eq

/-- Memory and the partition are as the record leaves them. -/
theorem escalate_record (s : State) (t : Team) (c slot cause : Nat) (nested : Word) {o : Nat × Word × Word}
    (original : originalOf (s.warp c slot) = o) :
    let r := s.postEvent t.part (escalationRecord t cause o.1 (s.warp c slot).widx o.2.1 nested o.2.2)
    (s.escalate t c slot cause nested).mem = r.mem ∧ (s.escalate t c slot cause nested).part t.part = r.part t.part := by
  rw [escalate_eq s t c slot cause nested original]
  exact ⟨rfl, rfl⟩

/-- The team is suspended. -/
theorem team_escalate {s : State} {t : Team} (ht : s.team t.handle t.idx = some t) (c slot cause : Nat) (nested : Word) :
    ∃ t', (s.escalate t c slot cause nested).team t.handle t.idx = some t' ∧ t'.state = .suspended := by
  rw [escalate_eq s t c slot cause nested rfl]
  exact find?_foldl_changeNamed (g := fun _ => suspended) (q := fun t' => t'.state = .suspended) (fun _ _ => ⟨rfl, rfl⟩) ht (fun _ _ _ _ => rfl)
    (.inr ⟨t, self_mem_haltSet s t, rfl, rfl⟩)

/-- The warp that leaves its handler: as it was put back, halted for the original cause. -/
def leftWarp (h : Handler) (w x : Warp) : Warp :=
  { x with paths := w.paths.filter (fun p => !p.handler), stack := w.stack.take h.depth, handler := none, halt := some h.halt, stopped := true }

theorem leftWarp_live (h : Handler) (w x : Warp) : (leftWarp h w x).live = x.live := rfl

section
variable {s : State} {c slot : Nat} (live : (s.warp c slot).live = true)
include live

/-- Out of a handler the saved set is put back and the warp stops. -/
theorem leftHandler_in {h : Handler} (hh : (s.warp c slot).handler = some h) :
    ∃ xe, (leftHandler s c slot).warp c slot = leftWarp h (s.warp c slot) (putBackWarp (s.core c) slot (s.warp c slot) xe) ∧
      ∀ b n, (b ≠ c ∨ n ≠ slot) → (leftHandler s c slot).warp b n = s.warp b n := by
  obtain ⟨xe, own, others, some_⟩ := putBack_warps live (s.core c) slot
  have put : (s.modCore c (fun k => k.putBack slot (s.warp c slot))).warp c slot = putBackWarp (s.core c) slot (s.warp c slot) xe :=
    (warp_setCore s c slot some_).trans own
  have full : leftWarp h (s.warp c slot) (putBackWarp (s.core c) slot (s.warp c slot) xe) ≠ {} := live_ne_empty (by
    rw [leftWarp_live, putBackWarp_live, live])
  have eq : leftHandler s c slot = (s.modCore c (fun k => k.putBack slot (s.warp c slot))).modWarp c slot (leftWarp h (s.warp c slot)) := by
    simp only [leftHandler, hh]
    rfl
  rw [← put] at full
  rw [eq]
  exact ⟨xe, (warp_modWarp _ c slot full).trans (by rw [put]), fun b n other =>
    (warp_modWarp_other _ other full).trans (warp_setCore_keep s other some_ others)⟩

/-- Without a handler only the warp stops. -/
theorem leftHandler_out (none_ : (s.warp c slot).handler = none) :
    (leftHandler s c slot).warp c slot = { s.warp c slot with stopped := true, skidUntil := none } ∧
      ∀ b n, (b ≠ c ∨ n ≠ slot) → (leftHandler s c slot).warp b n = s.warp b n := by
  have full : { s.warp c slot with stopped := true, skidUntil := none } ≠ ({} : Warp) := live_ne_empty live
  have eq : leftHandler s c slot = s.stopWarp c slot := by simp only [leftHandler, none_]
  rw [eq]
  exact ⟨warp_modWarp s c slot full, fun b n other => warp_modWarp_other s other full⟩

end

/-- Settles O58: what the warp becomes by whether it is in its handler, the record by whether the ring has room. -/
theorem escalation : Obligations.Escalation := by
  intro s t c slot cause nested ht w p at_ u live
  have warps : ∀ b n, u.warp b n = (leftHandler s c slot).warp b n := fun b n => by
    show (s.escalate t c slot cause nested).warp b n = _
    rw [escalate_eq s t c slot cause nested rfl]
    rfl
  refine ⟨team_escalate ht c slot cause nested, fun b n other => ?_, ?_, fun h pc kept => ?_, fun q hq => ?_, fun none_ => ?_⟩
  · rw [warps]
    cases hh : w.handler with
    | none => exact (leftHandler_out live hh).2 b n other
    | some h => exact (leftHandler_in live hh).choose_spec.2 b n other
  · exact escalate_frame s t c slot cause nested
  · obtain ⟨mem, part⟩ := escalate_record s t c slot cause nested (originalOf_eq kept)
    rw [show u.mem = _ from mem, show u.part t.part = _ from part]
    exact ⟨fun free first => postEvent_free free first, fun full => postEvent_full full⟩
  · obtain ⟨xe, own, -⟩ := leftHandler_in live hq
    intro b w'
    rw [show w' = _ from (warps c slot).trans own, putBackWarp_eq]
    simp only [leftWarp, w, b, and_self]
  · exact (warps c slot).trans (leftHandler_out live none_).1

end Sys2Proof.Proofs
end

section
/-!
PROOFS. The instructions of row 0xE over modules, instruction caches, teams and VFs (R30, R346, R348 to R351).
-/

namespace Sys2Proof.Proofs

open Sys2Proof Sys2Proof.Machine

/-! ### Modules and instruction caches (R30, R350, R351) -/

section
variable {s u : State} {c : Ctx} {f : FmtA} {p : Nat}

/-- `modrel` and `modrel.nb` of a live module that is not the handler's make it releasing; what does not allow that is answered. -/
theorem modrelOp_ready (h : ReadyAt s c .hypervisor [.xs f.s1 24 1, .xd f.d] u) (on : c.on f.g = true) (part : c.part u = some p) (wait : Bool) :
    let m := bits (c.xv f.s1) 11 0
    let handler := bit (u.part p).hmod 12 = true ∧ bits (u.part p).hmod 11 0 = m
    let t := u.setModState p m 3
    ((u.modEntry p m).state ≠ 2 → modrelOp s f wait = c.done (c.answer u f.d 1)) ∧
    ((u.modEntry p m).state = 2 → handler → modrelOp s f wait = c.done (c.answer u f.d 2)) ∧
    ((u.modEntry p m).state = 2 → ¬ handler → modrelOp s f wait = c.done (if wait then
        ((c.await t f.d 6).2.modPart p (fun q => { q with modOps := q.modOps ++ [(m, c.core, (c.await t f.d 6).1)] })).releaseTags p m
      else (c.answer t f.d 0).releaseTags p m)) := by
  dsimp only
  refine ⟨fun dead => (sysDo_ready h).2 _ on ?_, fun live own => (sysDo_ready h).2 _ on ?_, fun live other => (sysDo_ready h).2 _ on ?_⟩
  · simp only [part, if_pos dead]
  · simp only [part, live, own, decide_true, Bool.and_self, ne_eq, not_true_eq_false, if_false, if_true]
  · have free : ¬ (bit (u.part p).hmod 12 && decide (bits (u.part p).hmod 11 0 = bits (c.xv f.s1) 11 0)) = true := by simpa using other
    cases wait <;> simp only [part, live, if_neg free, ne_eq, not_true_eq_false, if_false, Bool.not_false, Bool.not_true, Bool.false_eq_true, if_true]

/-- `icinv` drops the tags that it names, and the path waits for the caches. -/
theorem icinvOp_ready {ops : List Opnd} (h : ReadyAt s c .hypervisor ops u) (on : c.on f.g = true) (part : c.part u = some p)
    (pick : Ctx → Word → Nat → Bool) :
    let m := bits (c.xv f.s1) 11 0
    let t := (u.dropTags p m (pick c (u.modEntry p m).cbase)).dropBuffers p m
    icinvOp s f ops pick = c.done ((((t.newId c.core).2.modCore c.core (fun k =>
      { k with ops := k.ops ++ [((t.newId c.core).1, 3, m)] })).advance c).park c (.op (t.newId c.core).1 .mem)) :=
  (sysDo_ready h).2 _ on (by simp only [part])

end

/-- `modreg` takes the header of an aligned image only. -/
theorem header_none {u : State} {a : Acc} {img : Word} (bad : img.toNat % 65536 ≠ 0 ∨ u.readHeader a img = none) :
    (if img.toNat % 65536 ≠ 0 then none else u.readHeader a img) = none := by
  by_cases aligned : img.toNat % 65536 ≠ 0
  · exact if_pos aligned
  · exact (if_neg aligned).trans (bad.resolve_left aligned)

theorem header_ok {u : State} {a : Acc} {img : Word} {h : ModHeader} (aligned : img.toNat % 65536 = 0) (header : u.readHeader a img = some h) :
    (if img.toNat % 65536 ≠ 0 then none else u.readHeader a img) = some h := (if_neg (Decidable.not_not.2 aligned)).trans header

/-- Settles O27: each instruction by what its checks find. -/
theorem moduleResults : Obligations.ModuleResults := by
  intro s u c f p
  dsimp only
  refine ⟨fun off => ⟨fun h => ?_, (sysDo_ready · |>.1 off), (sysDo_ready · |>.1 off)⟩,
    fun on part h => ⟨⟨fun bad => (sysDo_ready h).2 _ on ?_, fun hd aligned header => ⟨fun taken => (sysDo_ready h).2 _ on ?_,
      fun free unread => (sysDo_ready h).2 _ on ?_, fun code data free hcode hdata =>
        ⟨fun locked => (sysDo_ready h).2 _ on ?_, fun unlocked => (sysDo_ready h).2 _ on ?_⟩⟩⟩, ?_⟩,
    fun on part => ⟨fun h => ?_, fun h => ?_⟩⟩
  · simp only [List.forall_mem_cons, List.not_mem_nil, false_implies, implies_true, and_true]
    exact ⟨(sysDo_ready h).1 off, (sysDo_ready h).1 off, (sysDo_ready h).1 off⟩
  -- `modreg` passes its checks in order
  · simp only [part, header_none bad]
    rfl
  · simp only [part, header_ok aligned header, if_pos taken]
    rfl
  · rcases unread with none_ | none_
    · simp only [part, header_ok aligned header, free, none_, ne_eq, not_true_eq_false, if_false]
      rfl
    · cases hcode : u.segment (c.acc u (opIdx f.s2 % 8)) (c.xv f.s1 + 65536) hd.csize true <;>
        simp only [part, header_ok aligned header, free, hcode, none_, ne_eq, not_true_eq_false, if_false] <;> rfl
  · simp only [part, header_ok aligned header, free, hcode, hdata, locked, ne_eq, not_true_eq_false, if_false, if_true]
    rfl
  · simp only [part, header_ok aligned header, free, hcode, hdata, unlocked, ne_eq, not_true_eq_false, Bool.false_eq_true, if_false]
  -- `modrel` and `modrel.nb` answer alike until the entry is releasing
  · obtain ⟨dead, own, released⟩ := modrelOp_ready h on part true
    obtain ⟨dead', own', released'⟩ := modrelOp_ready h on part false
    exact ⟨fun e => ⟨dead e, dead' e⟩, fun e o => ⟨own e o, own' e o⟩, fun e o => ⟨released' e o, released e o⟩⟩
  -- `icinv`
  · rw [exec_icinvMod, execIcinvMod]
    exact icinvOp_ready h on part _
  · rw [exec_icinvRange, execIcinvRange]
    exact icinvOp_ready h on part _

/-! ### Saves and restores of teams and VFs (R346, R348, R349) -/

section
variable {s u : State} {c : Ctx} {f : FmtA}

/-- `ctxsave` and `ctxsave.kill` answer for no team, for one that is out, retiring or being saved, and, but for a kill, for a handler that runs;
else the save begins. -/
theorem ctxsaveOp_ready (h : ReadyAt s c .hypervisor [.xs f.s1 24 1, .xd f.d] u) (on : c.on f.g = true) (kill : Bool) :
    (c.teamNamed u (c.xv f.s1) = none → ctxsaveOp s f kill = c.done (c.answer u f.d 1)) ∧
    (∀ t, c.teamNamed u (c.xv f.s1) = some t →
      let busy := t.out || t.state == .retiring || (u.haltSet t).any (fun v => v.saveFor.isSome)
      let handling := (u.haltSet t).any (fun v => v.state == .inHandler)
      (busy = true → ctxsaveOp s f kill = c.done (c.answer u f.d 2)) ∧
      (busy = false → kill = false → handling = true → ctxsaveOp s f kill = c.done (c.answer u f.d 3)) ∧
      (busy = false → kill = true ∨ handling = false → ctxsaveOp s f kill =
        c.done ((c.await u f.d 4).2.beginSave t { kill := kill, op := some (c.core, (c.await u f.d 4).1) }))) := by
  refine ⟨fun none_ => (sysDo_ready h).2 _ on ?_, fun t team => ?_⟩
  · simp only [none_]
  · dsimp only
    refine ⟨fun busy => (sysDo_ready h).2 _ on ?_, fun idle keep handling => (sysDo_ready h).2 _ on ?_,
      fun idle free => (sysDo_ready h).2 _ on ?_⟩
    · simp only [team, busy, if_true]
    · simp only [team, idle, keep, handling, Bool.not_false, Bool.and_self, Bool.false_eq_true, if_false, if_true]
    · have begins : (!kill && (u.haltSet t).any (fun v => v.state == .inHandler)) = false := by
        rcases free with k | none_
        · simp [k]
        · simp [none_]
      simp only [team, idle, begins, Bool.false_eq_true, if_false]

end

/-- Settles O28: each instruction by the team or VF that its operand names and what its checks find. -/
theorem contextResults : Obligations.ContextResults := by
  intro s u c f p
  dsimp only
  refine ⟨fun off => ⟨fun h => ?_, fun h => ?_⟩,
    fun on h => ⟨fun none_ => ⟨(ctxsaveOp_ready h on false).1 none_, (ctxsaveOp_ready h on true).1 none_, (sysDo_ready h).2 _ on ?_⟩, fun t team => ?_⟩,
    fun on h => ⟨fun none_ => ⟨(sysDo_ready h).2 _ on ?_, (sysDo_ready h).2 _ on ?_⟩,
      fun v named => ⟨fun bad => ⟨(sysDo_ready h).2 _ on ?_, (sysDo_ready h).2 _ on ?_⟩, fun good =>
        ⟨fun saving => (sysDo_ready h).2 _ on ?_, fun idle => (sysDo_ready h).2 _ on ?_, fun other => (sysDo_ready h).2 _ on ?_,
          fun own => ⟨fun unsaved => (sysDo_ready h).2 _ on ?_, fun saved idle => (sysDo_ready h).2 _ on ?_⟩⟩⟩⟩⟩
  -- a guard that fails
  · simp only [List.forall_mem_cons, List.not_mem_nil, false_implies, implies_true, and_true]
    exact ⟨(sysDo_ready h).1 off, (sysDo_ready h).1 off, (sysDo_ready h).1 off⟩
  · simp only [List.forall_mem_cons, List.not_mem_nil, false_implies, implies_true, and_true]
    exact ⟨(sysDo_ready h).1 off, (sysDo_ready h).1 off⟩
  -- teams
  · simp only [none_]
    rfl
  · obtain ⟨busy, handling, saves⟩ := (ctxsaveOp_ready h on false).2 t team
    obtain ⟨busy', -, saves'⟩ := (ctxsaveOp_ready h on true).2 t team
    refine ⟨fun b => ⟨busy b, busy' b⟩, fun idle => ⟨handling idle rfl, fun none_ => saves idle (.inr none_), saves' idle (.inl rfl)⟩,
      fun out => (sysDo_ready h).2 _ on ?_, fun in_ => (sysDo_ready h).2 _ on ?_⟩
    · simp only [team, if_pos out]
    · simp only [team, if_neg in_]
      rfl
  -- `vfsave` and `vfrest`, check by check
  · simp only [none_]
    rfl
  · simp only [none_]
    rfl
  · simp only [named, bad, Bool.not_false, Bool.true_or, if_true]
    rfl
  · simp only [named, bad, Bool.not_false, Bool.true_or, if_true]
    rfl
  · simp only [named, saving, Bool.or_true, if_true]
    rfl
  · simp only [named, good, idle, Option.isSome_none, Bool.not_true, Bool.or_self, Bool.false_eq_true, if_false]
  · simp only [named, other, ne_eq, not_false_eq_true, decide_true, Bool.or_true, if_true]
    rfl
  · have kept : (!(u.vf v).saving || (u.vf v).saveOp.isSome) = true := by rcases unsaved with e | e <;> simp [e]
    simp only [named, good, own, kept, ne_eq, not_true_eq_false, decide_false, Bool.not_true, Bool.or_self, Bool.false_eq_true, if_false, if_true]
    rfl
  · simp only [named, good, own, saved, idle, ne_eq, not_true_eq_false, decide_false, Option.isSome_none, Bool.not_true, Bool.or_self,
      Bool.false_eq_true, if_false]

end Sys2Proof.Proofs
end

section
/-!
PROOFS. No instruction, no autonomous step and no step of a powered package stops the machine (R41, R330, R409).
-/

namespace Sys2Proof.Proofs

open Sys2Proof Sys2Proof.Machine

/-- An acknowledgement answers, whether or not its write-back has arrived. -/
theorem writebackAck_next (s : State) : ∃ t, exec .writebackAck s = .next t := by
  rw [exec_writebackAck, execWritebackAck]
  split <;> exact ⟨_, rfl⟩

/-- A write of `gkind` answers, whether it is accepted or refused. -/
theorem gkindWrite_next (s : State) : ∃ t, exec .gkindWrite s = .next t := by
  rw [exec_gkindWrite, execGkindWrite]
  split <;> exact ⟨_, rfl⟩

/-- An instruction is an attempt of its path, which ends in an effect, a wait or a trap; an autonomous step answers a next state by its form. -/
theorem exec_next (i : Instr) (s : State) : ∃ t, exec i s = .next t := by
  cases i with
  | nop | br | brc | brany | brall | brx | jmpx | call | ret | rejoin | loop | exit | trap | ipref | elect | yield | add | sub | mul | mulh | div
  | rem | and | or | xor | shl | shr | sar | min | max | bitc | sel | addi | andi | ori | xori | shi | lim | mov | movDomain | lea | cmp | cmpi
  | csrr | csrw | csrs | fmtset | fmtsetM | dset | rdtime | pand | por | pxor | pnot | pmov | pcount | pfirst | vcmp | vfcmp | pset | pget | vadd
  | vsub | vmul | vmulh | vmad | vand | vor | vxor | vshl | vshr | vsar | vmin | vmax | vabn | vsel | vaddi | fadd | fsub | fmul | fma | fmin | fmax
  | fabn | fdiv | fsqrt | fdot2 | fdot4 | vdot4 | fclass | frnd | cvt | cvtsr | vrcp | vrsq | vexp2 | vlog2 | vsin | vcos | vtanh | vqnt | vdeq
  | vpack | vunpack | vmov | vbcast | vext | vins | vperm | vshfl | vlane | vballot | red | scan | rrbset | ld | st | vld | vst | vldg | vstg | vlds
  | vsts | spld | spst | dprf | ldl | atom | vatom | cas | vcas | fence | phase | mfence | mjoin | sstep | mwait | mzero | mmul | mmull | mmulm
  | mplane | mout | mcfg | tgive | ttake | trow | twrow | spzero | qpush | qpushv | qpop | qpopv | qpeek | cpy | cpyz | wdq | launch | scall
  | scallUp | scallReply | scallLaunch | fcall | fcallDone | bar | gbar | gred | ident | lease | leaseMeas | tleft | clkreq | clkreqArm | sleep
  | eret | eretSkip | mapfp | tlbinvAll | tlbinvSpace | tlbinvPage | tlbinvS2all | tlbinvS2page | icinvMod | icinvRange | modreg | modrel | modrelNb
  | frscrub | fotset | wmset | vfsave | vfrest | ctxsave | ctxsaveKill | ctxrest | rdraw | pxout | tsample | tfetch | rtrace | rhit | disc
  | attr => exact run_next s _
  | engineWordStart | line | box | fill | zpack | zunpack | copyCommandComplete | engineCommandFault | matrixChunkStart | matrixCommandComplete
  | freezeResume | freezeConversion | rayBatchComplete | wdqService | wdqAnswer | markerArrival | longLatencyWriteComplete | fetchBlockArrival
  | launchValidation | teamPlacement | teamStart | neighbourBalancing | teamRetirement | launchCompletion | moduleVerificationComplete
  | moduleReleaseComplete | phaseBoundaryStart | phaseBoundaryComplete | barrierRelease | pisteArrivalForward | groupRelease | groupReleaseMessage
  | barrierRefresh | refusionMismatch | lineEviction | writebackArrival | loadRequestArrival | atomicAtHome | loamRefreshWindowStart
  | loamRefreshWindowEnd | pageWalkStart | pageWalkComplete | haltBroadcast | handlerEntry | asyncFaultDelivery | handlerWatchdogExpiry
  | blockedTeamEligible | preemptionDecision | drainWindowEnd | restore | measuringIntervalEnd | warpRotation | pathBoost | greedyLimit
  | powerForcedIssue | slewWindowEnd | droopTrip | quantRestore | sleepEnd | arbiterRun | clusterIdleRelease | grantApply | quiescenceTimeout
  | railSettled | relockComplete | railLower | mwaitWake | mwaitPoll | rasterBatchAccept | splitFrameForward | mergerPerform | drawBatchComplete
  | scallBatchComplete | regulatorTick | verticalBlank | dhbaseWrite | dhselClr | scselClr | rferrClear | sperrClear | l1errClear | srseedWrite
  | hmodWrite | partitionCreate | partitionDestroy | vfqEnable | vfqRunSet | vfqRunClear | skclkWrite | registerWrite | doorbell | pcieInboundRequest
  | flefinInboundRequest | flefinResponse | flefinTimeout | flefinPortFailure | ucieRetryFailure | standbyWake | powerOnReset | temperatureReading
  | thermalTrip | scanOutLine | droopWithholdEnd | standbyEntry | flefinPortTraining | frscrubComplete | icinvComplete => exact ⟨_, rfl⟩
  | writebackAck => exact writebackAck_next s
  | gkindWrite => exact gkindWrite_next s

/-- The autonomous step at the head of the agenda is performed with power, and power-on reset without it (R409). -/
theorem step_agenda_next {s : State} {e : Ev} {r : List Ev} (ha : s.agenda = e :: r)
    (may : s.pkg.powered = true ∨ e.step = .powerOnReset) : ∃ t, step s = .next t := by
  have runs : step s = exec e.step { s with agenda := r, ev := e } := by
    have live : ¬ (s.pkg.powered = false ∧ (s.agenda.head?).map (fun e => e.step) ≠ some .powerOnReset) := by
      obtain hp | reset := may
      · simp [hp]
      · simp [ha, reset]
    unfold step State.cycle
    rw [if_neg live]
    simp only [ha]
  exact runs ▸ exec_next ..

/-- The first path in turn is tried: it waits, it becomes a candidate for its trap, or its instruction answers. -/
theorem step_turn_next {s : State} (hp : s.pkg.powered = true) (ha : s.agenda = []) {t : Turn} {r : List Turn} (ht : s.turns = t :: r) :
    ∃ u, step s = .next u := by
  rw [step_turn hp ha ht]
  cases ({ s with turns := r } : State).prepare t.core t.slot t.path with
  | none k u => exact ⟨_, rfl⟩
  | trap u c cause info fl => exact ⟨_, rfl⟩
  | go i u =>
    obtain ⟨v, answer⟩ := exec_next i u
    exact ⟨u.noteTrial t v, by simp only [answer]⟩

/-- The first chosen path waits, traps, or its instruction answers. -/
theorem step_chosen_next {s : State} (hp : s.pkg.powered = true) (ha : s.agenda = []) (ht : s.turns = []) {t : Turn} {r : List Turn}
    (hc : s.chosen = t :: r) : ∃ u, step s = .next u := by
  cases found : ({ s with chosen := r } : State).prepare t.core t.slot t.path with
  | none k u => exact ⟨_, step_of_none hp ha ht hc found⟩
  | trap u c cause info fl => exact ⟨_, step_of_trap hp ha ht hc found⟩
  | go i u => exact step_of_go hp ha ht hc found ▸ exec_next i u

/-- A powered package goes on, whatever comes first: the agenda, a path in turn, a chosen path, or time. -/
theorem step_powered_next {s : State} (hp : s.pkg.powered = true) : ∃ t, step s = .next t := by
  cases ha : s.agenda with
  | cons e r => exact step_agenda_next ha (.inl hp)
  | nil =>
    cases ht : s.turns with
    | cons t r => exact step_turn_next hp ha ht
    | nil =>
      cases hc : s.chosen with
      | cons t r => exact step_chosen_next hp ha ht hc
      | nil => exact ⟨_, step_idle hp ha ht hc⟩

/-- Without power, and without power-on reset to come, a step does nothing (R409). -/
theorem step_unpowered {s : State} (off : s.pkg.powered = false) (other : ∀ r e, s.agenda = e :: r → e.step ≠ .powerOnReset) :
    step s = .fault .noPower := by
  have head : (s.agenda.head?).map (fun e => e.step) ≠ some .powerOnReset := by
    cases ha : s.agenda with
    | nil => nofun
    | cons e r => simpa using other r e ha
  unfold step State.cycle
  exact if_pos ⟨off, head⟩

/-- Settles O47: what `exec` answers, then what a step does with and without power. -/
theorem everyInstructionAnswers : Obligations.EveryInstructionAnswers := by
  refine ⟨exec_next, fun s may => ?_, fun s => step_unpowered⟩
  obtain hp | ⟨r, e, ha, reset⟩ := may
  · exact step_powered_next hp
  · exact step_agenda_next ha (.inr reset)

end Sys2Proof.Proofs
end

section
/-!
PROOFS. Draws, interpolated values, fragments, texture reads and rays at issue (R152, R360, R362 to R365, R368, R373, R374, R393).
-/

namespace Sys2Proof.Proofs

open Sys2Proof Sys2Proof.Machine

section
variable {s u : State} {c : Ctx} {f : FmtA}

/-! ### Draws (R365) -/

/-- A draw with room in its die's raster and in its flag is queued behind the core's write-backs. -/
theorem rdraw_queues (h : Ready s c none [.xs f.s1 24 1] u) (on : c.on f.g = true) (aligned : (c.xv f.s1).toNat % 64 = 0)
    (room : (u.die (dieOf c.core)).drawQueue.length < 64) (flag : c.flagRoom u (f.s3.toNat % 16) = true) :
    let t := ((c.flagged u (f.s3.toNat % 16)).writeBack c.core (fun _ => true)).2
    let q := c.acc t f.md.toNat
    let b : Batch := { home := dieOf c.core, num := (t.die (dieOf c.core)).nextBatch, core := c.core, handle := c.w.handle, team := c.w.team,
                       widx := c.w.widx, sig := f.s3.toNat % 16, vf := q.vf, part := q.part, space := q.space, level := q.level,
                       off := c.xv f.s1, wbs := (t.core c.core).wbIds }
    exec (.rdraw f) s = c.done ((t.modDie (dieOf c.core) (fun k =>
      { k with batches := k.batches ++ [b], nextBatch := (k.nextBatch + 1) % 2 ^ 32 })).advance c) := by
  have counted : c.flagInc u (sigOf f.s3) = .ok (c.flagged u (sigOf f.s3)) := flagInc_ok flag
  refine run_ok h.toIssuing ?_
  simp only [h.operands, bind, Except.bind, on, aligned, Nat.not_le.2 room, counted, ne_eq, not_true_eq_false, Bool.not_true, Bool.false_eq_true,
    if_false]
  rfl

/-! ### What the pixels of a footprint take and give (R360, R362) -/

/-- A value that the vertices of the warp's footprint carry is on its way, interpolated, in each guarded lane. -/
theorem attr_loads (h : Ready s c (some (c.guard f.g)) [.vd f.d 1] u) (some_ : c.guard f.g ≠ 0) {t : Footprint} (foot : c.foot u = some t)
    (has : f.s3.toNat % 16 < (t.attrs.headD []).length) :
    exec (.attr f) s = c.done (({ u with free := u.free + 64 }.startLong c (.v (c.dregs f.d false)) (c.guard f.g)
      (.done (laneWrites (c.dregs f.d false)
        ((lanesOf (c.guard f.g)).map (fun l => (l, (t.attr f.md.toNat (f.s3.toNat % 16) l (u.free + l)).toNat)))) 0)).advance c) :=
  run_ok h.toIssuing (by simp only [h.operands, bind, Except.bind, if_neg some_, foot, if_neg (Nat.not_le.2 has)])

/-- The output of guarded lanes that have sent none goes to a merger with room. -/
theorem pxout_sends
    (h : Ready s c (some (c.guard f.g)) ([.vs f.s1 24 4 3] ++ (if f.md.getLsbD 0 then [.vs f.s2 16 1 3] else [])) u)
    (some_ : c.guard f.g ≠ 0) {t : Footprint} (foot : c.foot u = some t) (first : lanesOf (t.sent &&& c.guard f.g) = [])
    (room : u.mergerFull t.handle t.team (lanesOf (c.guard f.g)).length = false) :
    let mine := fun (x : Footprint) => x.handle == t.handle && x.team == t.team
    let w := { u with foots := modWhere mine (fun x => { x with sent := x.sent ||| c.guard f.g }) u.foots }
    exec (.pxout f) s = c.done ((w.sendFrags t.handle t.team (fun l =>
      if (c.guard f.g).getLsbD l then
        some ((List.range 4).map (fun i => c.vv (f.s1 + BitVec.ofNat 8 i) l), if f.md.getLsbD 0 then some (c.vv f.s2 l) else none)
      else none)).advance c) :=
  run_ok h.toIssuing (by simp only [h.operands, bind, Except.bind, if_neg some_, foot, first, room, Bool.false_eq_true, if_false])

/-! ### Rays (R373, R374) -/

/-- A sound batch of rays enters q4 where q4, the completed batches, the journal and the flag have room. -/
theorem rtrace_pushes (h : Ready s c (some (c.guard f.g)) [.vs f.s1 24 8 3, .xs f.s2 16 2] u) (aligned : (c.xv f.s2).toNat % 128 = 0)
    (flags : (c.w.xr (opIdx f.s2 + 1)).toNat < 8) (queue : (u.core c.core).queued 4 < 8)
    (hits : (u.core c.core).hits.length + (u.core c.core).popUsed 5 < 8) (journal : (u.core c.core).cmds.length < 512)
    (flag : c.flagRoom u (f.s3.toNat % 16) = true) :
    let lanes := (lanesOf (c.guard f.g)).map (fun l => (l, (List.range 8).map (fun i => c.vv (f.s1 + BitVec.ofNat 8 i) l)))
    let cmd := c.newCmd 2 (f.s3.toNat % 16) (.ray { lanes := lanes, root := c.xv f.s2, flags := (c.w.xr (opIdx f.s2 + 1)).toNat,
                                                    space := (c.w.dr f.md.toNat).toNat })
    exec (.rtrace f) s = c.done (((c.flagged u (f.s3.toNat % 16)).addCmd c.core { cmd with rec_ := true }).advance c) := by
  have counted : c.flagInc u (sigOf f.s3) = .ok (c.flagged u (sigOf f.s3)) := flagInc_ok flag
  have full : ¬ (queueCap 4 ≤ (u.core c.core).queued 4 ∨ queueCap 5 ≤ (u.core c.core).hits.length + (u.core c.core).popUsed 5) :=
    not_or.2 ⟨Nat.not_le.2 queue, Nat.not_le.2 hits⟩
  refine run_ok h.toIssuing ?_
  simp only [h.operands, bind, Except.bind, aligned, if_neg (Nat.not_le.2 flags), if_neg full, journalRoom_ok journal, counted, ne_eq,
    not_true_eq_false, if_false]
  rfl

/-- The oldest batch of the warp is taken; its hits of guarded lanes, if any, are on their way. -/
theorem rhit_takes (h : Ready s c (some (c.guard f.g)) [.vd f.d 4] u) (some_ : c.guard f.g ≠ 0) {b : HitBatch}
    (oldest : (u.core c.core).hits.find? (fun h => h.slot == c.slot) = some b) :
    let w := u.modCore c.core (fun k => { k with hits := k.hits.erase b })
    let l := b.hits.filter (fun q => (c.guard f.g).getLsbD q.1)
    let regs := (List.range 4).map (fun i => c.phys (opIdx f.d + i))
    exec (.rhit f) s = c.done ((if l.isEmpty then w else w.startLong c (.v regs) (maskOf (l.map (fun q => q.1)))
      (.done (regs.zipIdx.map (fun r => Write.v r.1 (l.map (fun q => (q.1, q.2.getD r.2 0))))) 0)).advance c) := by
  refine run_ok h.toIssuing ?_
  simp only [h.operands, bind, Except.bind, if_neg some_, oldest]
  split <;> rfl

end

/-! ### Texture reads (R338, R368) -/

/-- A step that succeeds hands its value on. -/
theorem bind_of_ok {α β : Type} {x : Try α} {a : α} {g : α → Try β} {r : Try β} (hx : x = .ok a) (hg : g a = r) : (x >>= g) = r :=
  hx ▸ hg

/-- The lanes of a texture read: the guarded ones, or the failed ones of a read issued again (R338). -/
def texLanes (c : Ctx) (guarded : Mask) : Mask :=
  match retried c with
  | some (m, _) => m
  | none => guarded

/-- The place of each texel that a lane of a texture read takes. -/
def texPlaces (k : Ctx) (f : FmtA) (t : Tex) (fetch : Bool) (lanes : Mask) : List (Nat × Word) :=
  (lanesOf lanes).flatMap (fun l => (t.taps fetch (k.vv f.s1 l) (k.vv (f.s1 + 1) l)).1.map (fun a => (l, a)))

/-- How each lane of a texture read weighs its texels. -/
def texWeights (k : Ctx) (f : FmtA) (t : Tex) (fetch : Bool) (lanes : Mask) : List (Nat × Nat × Nat) :=
  (lanesOf lanes).map (fun l => (l, (t.taps fetch (k.vv f.s1 l) (k.vv (f.s1 + 1) l)).2))

/-- The four registers that a texture read fills. -/
def texDest (k : Ctx) (f : FmtA) : Dest := .v ((List.range 4).map (fun i => k.phys (opIdx f.d + i)))

/-- A texture read issued again fills the registers that it named first. -/
theorem texDest_reissued (c : Ctx) (f : FmtA) : texDest (reissued c) f = texDest c f := by
  obtain ⟨_, _, _, hp⟩ := reissued_place c
  simp only [texDest, Ctx.phys, hp]

/-- Texel reads that find room at the ports are issued. -/
theorem issueTex_ok {v : State} {k : Ctx} {t : Tex} {dest : Dest} {m : Mask} {l : List LaneAt} {frac : List (Nat × Nat × Nat)}
    (room : v.flefinRoom (l.map (fun q => (q.pa, t.size))) = true) : ∃ w, v.issueTex k t dest m l frac = .ok w :=
  ⟨_, if_neg (by simp [room])⟩

section
variable {s u v : State} {c : Ctx} {f : FmtA} {fetch : Bool} {r : Located} {t : Tex}

/-- A texture read with no lane to take only advances its path; one whose texels are all translated starts a pending load. -/
theorem texOp_issuing (h : Issuing s c)
    (operands : (reissued c).begin s (some (c.guard f.g))
      ([.vs f.s1 24 2 3, .xs f.s2 16 1] ++ (if (retried c).isSome then [] else [.vd f.d 4])) = .ok u) :
    let k := reissued c
    let lanes := texLanes c (c.guard f.g)
    let found := r.ok.filter (fun q => lanes.getLsbD q.lane)
    (lanes = 0 → texOp s f fetch = c.done (u.advance k)) ∧
    (lanes ≠ 0 → k.descriptor u (c.guard f.g) (k.xv f.s2) = .ok t → (u.core c.core).bstage = .idle →
      u.locateLanes c.core 0 (k.acc u t.dom) 0 (texPlaces k f t fetch lanes) = (r, v) → r.miss = false → r.bad = [] →
      v.flefinRoom (found.map (fun q => (q.pa, t.size))) = true →
      ∃ w, v.issueTex k t (texDest c f) lanes found (texWeights k f t fetch lanes) = .ok w ∧
        texOp s f fetch = c.done ((w.modCur k (fun p => { p with replay := none })).advance k)) := by
  obtain ⟨hcore, _, _, _⟩ := reissued_place c
  refine ⟨fun idle => run_ok h (bind_of_ok operands (if_pos idle)), fun some_ desc ready located here good room => ?_⟩
  have boundary : (reissued c).noBoundary u = .ok () := noBoundary_ok (by rwa [hcore])
  have places : (reissued c).located u t.dom 0 (texPlaces (reissued c) f t fetch (texLanes c (c.guard f.g))) = .ok (r, v) :=
    located_ok (by rwa [hcore]) here
  have whole : (firstFaults r.bad).isEmpty = true := by rw [good]; rfl
  have sound : texLanes c (c.guard f.g) &&& ~~~faultLanes (firstFaults r.bad) = texLanes c (c.guard f.g) := by
    rw [good]
    exact BitVec.and_allOnes
  obtain ⟨w, issued⟩ := issueTex_ok (k := reissued c) (dest := texDest c f) (m := texLanes c (c.guard f.g))
    (frac := texWeights (reissued c) f t fetch (texLanes c (c.guard f.g))) room
  refine ⟨w, issued, run_ok h (bind_of_ok operands ((if_neg some_).trans (bind_of_ok desc (bind_of_ok boundary (bind_of_ok places
    ((if_pos whole).trans (bind_of_ok ?_ rfl)))))))⟩
  change v.issueTex (reissued c) t (texDest (reissued c) f) (texLanes c (c.guard f.g) &&& ~~~faultLanes (firstFaults r.bad))
    (r.ok.filter (fun q => (texLanes c (c.guard f.g) &&& ~~~faultLanes (firstFaults r.bad)).getLsbD q.lane))
    (texWeights (reissued c) f t fetch (texLanes c (c.guard f.g))) = .ok w
  rw [sound, texDest_reissued]
  exact issued

end

/-! ### The graphics instructions -/

/-- Settles O30: each instruction where its checks pass, and with no lane where it only advances its path. -/
theorem graphicsResults : Obligations.GraphicsResults := by
  intro s u v c f
  dsimp only
  refine ⟨fun h => ⟨fun off => ?_, rdraw_queues h⟩,
    fun h => ⟨fun idle => ?_, fun _ some_ => attr_loads h some_⟩,
    fun h => ⟨fun idle => ?_, fun _ some_ => pxout_sends h some_⟩,
    fun h quiet clean => run_ok h (exits_ok quiet clean),
    fun r t => ⟨texOp_issuing, texOp_issuing⟩,
    rtrace_pushes,
    fun h => ⟨fun idle => ?_, fun _ some_ => rhit_takes h some_⟩⟩
  · exact run_ok h.toIssuing (bind_of_ok h.operands (if_pos (by rw [off]; rfl)))
  all_goals exact run_ok h.toIssuing (bind_of_ok h.operands (if_pos idle))

end Sys2Proof.Proofs
end

section
/-!
PROOFS. The events of draw batches, displays, links, boot, power and partitions (R352, R364 to R366, R376, R377, R382, R390 to R395, R402 to R409).
-/

namespace Sys2Proof.Proofs

open Sys2Proof Sys2Proof.Machine

/-! ### Draw batches and displays (R352, R364 to R366, R376, R377) -/

/-- Settles O39, event by event: what an event finds in the state takes its meaning to the clause's effect. -/
theorem displayEventResults : Obligations.DisplayEventResults := by
  intro s
  dsimp only
  refine ⟨fun b hb room => ⟨fun q read => ?_, fun r t read => ?_⟩, fun b hb => ?_,
    fun f hf => ⟨fun dead => ?_, fun src zf b live out hb first => ⟨fun bad t done => ?_, fun t held => ?_⟩⟩,
    fun b q t hb done written => ?_, rfl, rfl, rfl⟩
  · simp only [exec_rasterBatchAccept, execRasterBatchAccept, hb, room, read, Bool.false_eq_true, if_false]
  · simp only [exec_rasterBatchAccept, execRasterBatchAccept, hb, room, read, Bool.false_eq_true, if_false]
  · simp only [exec_splitFrameForward, execSplitFrameForward, hb]
  · simp only [exec_mergerPerform, execMergerPerform, hf, dead, if_true]
  · simp only [exec_mergerPerform, execMergerPerform, hf, live, out, hb, first, done, Bool.not_true, Bool.false_eq_true, if_false]
  · simp only [exec_mergerPerform, execMergerPerform, hf, live, out, hb, first, held, Bool.not_true, Bool.false_eq_true, if_false]
  · cases other : (s.die (1 - s.ev.a)).batches.find? (fun x => x.home == s.ev.a && x.num == b.num)
    all_goals
      simp only [other] at written
      simp only [exec_drawBatchComplete, execDrawBatchComplete, hb, done, other, written, Bool.not_true, Bool.false_eq_true, if_false]

/-! ### Links (R390, R392, R393, R395) -/

/-- Settles O41, event by event. -/
theorem linkEventResults : Obligations.LinkEventResults := by
  intro s
  dsimp only
  refine ⟨fun p hp on bound awake => ⟨fun space => ?_, fun block => ⟨fun refused => ?_, fun room aligned => ?_⟩⟩,
    fun r hr on => ⟨fun bound => ?_, fun q bound hq port up => ⟨fun silent => ?_, fun b answer => ?_⟩⟩,
    fun t ht => ⟨?_, fun late => ?_⟩, rfl, rfl, fun home => ?_, fun core => ?_⟩
  · simp only [exec_doorbell, execDoorbell, hp, on, bound, awake, space, Bool.not_true, bne_self_eq_false, Bool.or_self, Bool.false_eq_true,
      if_false, if_true]
  · have full : (s.launchFull (s.ev.a / 256) p || decide (s.ev.w.toNat % 64 ≠ 0)) = true := by simpa using refused
    simp only [exec_doorbell, execDoorbell, hp, on, bound, awake, block, full, Bool.not_true, bne_self_eq_false, Bool.or_self, Bool.false_eq_true,
      if_false, if_true]
  · have free : (s.launchFull (s.ev.a / 256) p || decide (s.ev.w.toNat % 64 ≠ 0)) = false := by simp [room, aligned]
    simp only [exec_doorbell, execDoorbell, hp, on, bound, awake, block, free, Bool.not_true, bne_self_eq_false, Bool.or_self, Bool.false_eq_true,
      if_false]
  · simp only [exec_pcieInboundRequest, execPcieInboundRequest, hr, on, bound, Bool.not_true, bne_self_eq_false, Bool.or_self, Bool.false_eq_true,
      if_false]
  · simp only [exec_flefinInboundRequest, execFlefinInboundRequest, hr, on, bound, hq, port, up, silent, Bool.not_true, bne_self_eq_false,
      Bool.or_self, Bool.false_eq_true, if_false]
  · simp only [exec_flefinInboundRequest, execFlefinInboundRequest, hr, on, bound, hq, port, up, answer, Bool.not_true, bne_self_eq_false,
      Bool.or_self, Bool.false_eq_true, if_false]
  · simp only [exec_flefinResponse, execFlefinResponse, ht]
  · simp only [exec_flefinTimeout, execFlefinTimeout, ht, if_pos late]
  · exact congrArg Host.Outcome.next (if_pos home)
  · exact congrArg Host.Outcome.next (if_neg core)

/-! ### Boot, power, heat and partitions (R382, R402, R404, R406, R409) -/

/-- Settles O42, event by event. -/
theorem bootEventResults : Obligations.BootEventResults := by
  intro s
  dsimp only
  refine ⟨fun off => ?_, fun on fresh => ?_, fun awake launches teams => ?_, rfl, rfl, rfl,
    ⟨fun valid => ?_, fun free => ⟨fun bad => ?_, fun good => ⟨fun busy => ?_, fun idle => ⟨fun img => ?_, fun img => ?_⟩⟩⟩⟩,
    fun none_ => ?_, fun valid => ⟨fun busy => ?_, fun idle => ?_⟩⟩
  · simp only [exec_powerOnReset, execPowerOnReset, off, Bool.not_false, if_true]
  · simp only [exec_powerOnReset, execPowerOnReset, on, fresh, Bool.not_true, Bool.false_eq_true, if_false, if_true]
  · simp only [exec_standbyEntry, execStandbyEntry, awake, launches, teams, List.isEmpty_nil, Bool.not_true, Bool.or_self, Bool.false_eq_true,
      if_false]
  · simp only [exec_partitionCreate, execPartitionCreate, valid, if_true]
  · simp only [exec_partitionCreate, execPartitionCreate, free, bad, Bool.false_eq_true, if_false, if_true]
  · simp only [exec_partitionCreate, execPartitionCreate, free, good, busy, Bool.false_eq_true, if_false, if_true]
  · simp only [exec_partitionCreate, execPartitionCreate, free, good, idle, if_pos img, Bool.false_eq_true, if_false]
  · simp only [exec_partitionCreate, execPartitionCreate, free, good, idle, if_neg (not_not_intro img), Bool.false_eq_true, if_false]
  · simp only [exec_partitionDestroy, execPartitionDestroy, none_, Bool.not_false, if_true]
  · simp only [exec_partitionDestroy, execPartitionDestroy, valid, busy, Bool.not_true, Bool.false_eq_true, if_false, if_true]
  · simp only [exec_partitionDestroy, execPartitionDestroy, valid, idle, Bool.not_true, Bool.false_eq_true, if_false]

end Sys2Proof.Proofs
end
